-- ==== Sys2Proof/Word.lean ====
section
/-! DEFINITION. The words the manual writes in: a byte, a register word and a 64-byte command packet. -/

namespace Sys2Proof

/-- A byte of memory or of a frame. -/
abbrev Byte := BitVec 8

/-- A register: every register is 64 bits wide (R405). -/
abbrev Word := BitVec 64

/-- A 64-byte command entry of a ring (R89, R124). -/
abbrev Packet := BitVec 512

end Sys2Proof
end

