-- ==== Sys2Proof/Wire.lean ====
section
/-! DEFINITION. What crosses the package's edge as one piece: a fabric frame (R240), a tap instruction class (R392,
R394), the outcomes of checks whose other side lies outside the package. -/

namespace Sys2Proof

/-- A fabric frame: the header fields of R240 and the payload. The CRC trailer is not held: a frame whose CRC fails
reaches the device as FRAME_DISCARDED. -/
structure Frame where
  typ      : Nat
  vc       : Nat := 0
  ackv     : Bool := false
  nak      : Bool := false
  lseq     : Nat := 0
  ackSeq   : Nat := 0
  srcDev   : Nat := 0
  dstDev   : Nat := 0
  srcCx    : Nat := 0
  dstCx    : Nat := 0
  job      : Nat := 0
  crVc     : Nat := 0
  crUnits  : Nat := 0
  addr     : Nat := 0
  offset   : Nat := 0
  msgBytes : Nat := 0
  msgId    : Nat := 0
  accord   : Nat := 0
  collSeq  : Nat := 0
  epoch    : Nat := 0
  phase    : Nat := 0
  rpostEn  : Bool := false
  rpostSem : Nat := 0
  pim      : Bool := false
  payload  : List Byte := []
deriving DecidableEq, Repr

/-- What a ROLL_REPLY reports (R251): the seat, the plane and the port of the switch, and its initial credits. The manual
gives its 64 payload bytes no layout, so the event carries the contents beside the frame (log entry 26). -/
structure Seat where
  rack    : Nat
  tray    : Nat
  slot    : Nat
  plane   : Nat
  port    : Nat
  credit0 : Nat
  credit1 : Nat
  credit2 : Nat
  credit3 : Nat
deriving DecidableEq, Repr

/-- LEN, the payload bytes of the frame (R240). -/
def Frame.len (f : Frame) : Nat := f.payload.length

/-- Why a receiver discards a frame (R241, R243). -/
inductive Discard where
  | fecUncorrectable
  | badCrc
  | outOfOrder
  | reservedType
  | wrongChannel
deriving DecidableEq, Repr

/-- What is loaded into the TAP's instruction register (R392, R394). -/
inductive TapCode where
  | idcode
  | bypass
  | sample          -- SAMPLE/PRELOAD
  | extest
  | advanceToMaker  -- the vendor's instruction of R392
  | privateScan
  | mgtDebug
deriving DecidableEq, Repr

/-- Why a near-tier channel becomes failing (R226). -/
inductive FailCause where
  | symbols        -- corrected symbols of one second above THRESH
  | retrain        -- three consecutive failed retrainings
  | uncorrectable  -- an uncorrectable read
deriving DecidableEq, Repr

/-- What a scrub read of one block finds (R225, R223). -/
inductive ScrubResult where
  | clean
  | corrected
  | uncorrectable
deriving DecidableEq, Repr

/-- How the host's side of a DMA descriptor ends (R407, R408): the bytes it gives (DIR 1), or an error status after the
bytes that came before it. -/
inductive HostReply where
  | ok (bytes : List Byte)
  | error (bytes : List Byte)
deriving DecidableEq, Repr

/-- A PCI Express configuration request, as far as the manual tells them apart (R380, R411). -/
inductive ConfigKind where
  | read
  | write
deriving DecidableEq, Repr

end Sys2Proof
end

