-- ==== Sys2Proof/Syntax.lean ====
section
/-! DEFINITION. The commands: one constructor for each row of the table of operations and events
(spec/opcode_table.json), in the table's order. A row of a stream processor's command carries the processor: the command's
own 64 bytes stand in its ring (R120). A row of a host write carries the value written. A row of an event carries what
names it, and what comes from outside the package. -/

namespace Sys2Proof

/-- The rows of the table of operations and events. -/
inductive Instr where
  -- commands of a stream processor, dispatched from its ring
  | nop (sp : Fin 32)
  | wload (sp : Fin 32)
  | stream (sp : Fin 32)
  | wgrad (sp : Fin 32)
  | drainFinal (sp : Fin 32)
  | drainSpill (sp : Fin 32)
  | drainAdd (sp : Fin 32)
  | drainConvertImage (sp : Fin 32)
  | convgen (sp : Fin 32)
  | finish (sp : Fin 32)
  | hcount (sp : Fin 32)
  | move (sp : Fin 32)
  | gather (sp : Fin 32)
  | scatter (sp : Fin 32)
  | put (sp : Fin 32)
  | get (sp : Fin 32)
  | reduce (sp : Fin 32)
  | allgather (sp : Fin 32)
  | reduceScatter (sp : Fin 32)
  | alltoallRagged (sp : Fin 32)
  | barrier (sp : Fin 32)
  | semWait (sp : Fin 32)
  | semPost (sp : Fin 32)
  | waitVersion (sp : Fin 32)
  | fence (sp : Fin 32)
  | cue (sp : Fin 32)
  | stepBegin (sp : Fin 32)
  | stepVerdict (sp : Fin 32)
  | commit (sp : Fin 32)
  | dataCommit (sp : Fin 32)
  | takePoint (sp : Fin 32)
  | update (sp : Fin 32)
  | castAdmit (sp : Fin 32)
  | build (sp : Fin 32)
  | advance (sp : Fin 32)
  | retire (sp : Fin 32)
  | park (sp : Fin 32)
  | unpark (sp : Fin 32)
  | snapshot (sp : Fin 32)
  -- commands in progress, named by their dispatch number; arrays
  | commandCompletion (id : Nat)
  | placement (id : Nat)
  | wloadBegin (id : Nat)
  | slotCommit (id : Nat)
  | rowEntry (a : Fin 8)
  | ringArrival (a : Fin 8)
  | drainRow (a : Fin 8)
  -- host writes and reads of stream processors and registers
  | doorbell (sp : Fin 32) (v : BitVec 32)
  | ringEnable (sp : Fin 32) (v : Word)
  | ringDisable (sp : Fin 32) (v : Word)
  | hostSemaphoreWrite (cx : Fin 16) (i : Fin 256) (v : Word)
  | registerWrite (off size : Nat) (v : Word)
  | readClear (off size : Nat)
  -- steps, updates, commits
  | stepClose (cx : Fin 16)
  | updateBegin (id : Nat)
  | pass1End (id : Nat)
  | pass2End (id : Nat)
  | commitWaitsMet (id : Nat)
  -- the stash controller
  | offloadDone (cx : Fin 16)
  | recallDone (cx : Fin 16)
  | admission (cx : Fin 16)
  | stashEnable (cx : Fin 16) (v : Word)
  -- contexts
  | create (cx : Fin 16) (v : Word)
  | destroy (cx : Fin 16) (v : Word)
  | run (cx : Fin 16) (v : Word)
  | xltInv (cx : Fin 16) (v : Word)
  | invalidationDone (cx : Fin 16)
  | takeWritten (cx : Fin 16)
  | controlRestored (cx : Fin 16)
  -- frames received on a port
  | putData (p : Fin 18) (f : Frame)
  | getReq (p : Fin 18) (f : Frame)
  | post (p : Fin 18) (f : Frame)
  | putAck (p : Fin 18) (f : Frame)
  | getData (p : Fin 18) (f : Frame)
  | refuse (p : Fin 18) (f : Frame)
  | collData (p : Fin 18) (f : Frame)
  | collReady (p : Fin 18) (f : Frame)
  | collAbort (p : Fin 18) (f : Frame)
  | rollReply (p : Fin 18) (f : Frame) (r : Seat)
  | clapper (p : Fin 18) (f : Frame)
  | cut (p : Fin 18) (f : Frame)
  | loss (p : Fin 18) (f : Frame)
  | link (p : Fin 18) (f : Frame)
  -- ports and fabric timers
  | linkAck (p : Fin 18)
  | portLock (p : Fin 18)
  | trainingTimeout (p : Fin 18)
  | laneLockLoss (p : Fin 18) (lane : Fin 8)
  | rollResend (p : Fin 18)
  | seatTimeout
  | ackTimeout (p : Fin 18)
  | fecErrorLimit (p : Fin 18)
  | retry (p : Fin 18) (v : Word)
  | readyResend (id : Nat)
  | messageTimeout (msg : Nat)
  | collTimeout (id : Nat)
  | readyTimeout (id : Nat)
  | versionPoll (sp : Fin 32)
  -- memory tiers
  | retrain (phys : Fin 204)
  | retrainEnd (phys : Fin 204) (ok : Bool)
  | slowRetrain (ch : Fin 128)
  | scrub (addr : Nat) (r : ScrubResult)
  | channelFailing (ch : Fin 332) (why : FailCause)   -- 0 to 203 a physical near channel, from 204 a slow channel
  | spareTrained (ok : Bool)
  | migrationCopyEnd
  -- power
  | powerSample (milliwatts : Nat)
  | dividerChange
  | rampStep (a : Fin 8)
  | arrayIdle (a : Fin 8)
  | cueLeadEnd
  | capHost (v : Word)
  | opmax (v : Word)
  -- observation
  | snap (v : Word)
  | clapperRun (v : Word)
  | clapperTimeout
  | rearm (v : Word)
  | triggerNow (v : Word)
  | cutNow (v : Word)
  | cutAt (v : Word)
  | cutFreeze
  | freeze (v : Word)
  | freezeExpiry
  | repeatFlush
  | clear (v : Word)
  -- starts, trust, self-test
  | pwrfailRise
  | pwrfailFall
  | fuse
  | secTest (ok : Bool)
  | keys
  | image (flash : Option (List Byte))
  | xspiModeTimeout
  | selfTest (failed : Option Nat)
  | memory (nearBad : List Nat) (slow : List (Option Bool))   -- channels that fail; packages: none, or whether it passes
  | fabric
  | release
  | push (v : Word)
  | attestationRequest (v : Word)
  | attestationReport
  | lcToken (v : Word)
  | tapInstruction (t : TapCode)
  | junctionOvertemp
  | safePortShutdown
  | sliceDue
  | quietPoint
  | quietTimeout
  | sliceEnd (ok : Bool)
  -- checkpoints
  | checkpointEnable (cx : Fin 16) (v : Word)
  | snapshotInstant (cx : Fin 16)
  | locallyComplete (cx : Fin 16)
  | slotZeroed (cx : Fin 16)
  | ckptExport (cx : Fin 16) (v : Word)
  | sendStripes (cx : Fin 16) (v : Word)
  | restore (cx : Fin 16) (v : Word)
  -- host port
  | dmaTail (v : Word)
  | dmaEnable (v : Word)
  | dmaDescriptor (r : HostReply)
  | bar4Read (off len : Nat)
  | bar4Write (off : Nat) (bytes : List Byte)
  | configRequest (k : ConfigKind)
  | functionLevelReset
  | d3hot (enter : Bool)
  | vectorUnmask (i : Fin 2048) (v : Word)
  -- board controller
  | entdaa (addr : BitVec 7)
  | readStatus
  | setCap (watts : BitVec 16)
  | readId
  | i3cCut
  | enterSafe (arg : BitVec 16)
  | restart (arg : BitVec 16)
  | readReel (slot : BitVec 16)
  -- further events
  | frameDiscarded (p : Fin 18) (why : Discard) (f : Frame)
  | slowRetrainEnd (ch : Fin 128) (ok : Bool)
  | rampTurn (a : Fin 8)
  | scanChainRead (off : Nat)
deriving DecidableEq, Repr

end Sys2Proof
end

