-- ==== Sys2Proof/Config.lean ====
section
/-! DEFINITION. What the manual leaves open, as constants without a body: no proof can see their values, so a claim
that holds of the model holds whatever they are. -/

namespace Sys2Proof

/-- The n-th free value: where the manual leaves a value or a choice open, the step takes the next one, counted by the
State field free (log entry 2). -/
opaque Config.freeValue : Nat → Nat

/-- The anchor that R39 leaves open: the largest streamed and the largest stationary scale exponent, where one or both of the
maxima has no block (log entry 16). It is a function of the scales, as the text before R39 says. -/
opaque Config.openAnchor : Option Int → Option Int → BitVec 16

/-- SHA3-512, a function of another standard that the manual names and does not define (R385, R388, R389). -/
opaque Config.sha3 : List Byte → BitVec 512

/-- ML-DSA-87 verification: key, message, signature (R356, R385, R393). -/
opaque Config.mldsaVerify : List Byte → List Byte → List Byte → Bool

/-- The ML-DSA-87 signature that SEC makes of a message with the identity key (R390). -/
opaque Config.mldsaSign : List Byte → List Byte

/-- The identity public key, derived from the device secret (R389). -/
opaque Config.identityKey : List Byte

/-- The certificate in SEC's one-time store (R389). -/
opaque Config.certificate : List Byte

/-- The vendor key digest in the boot ROM (R385). -/
opaque Config.vendorDigest : BitVec 512

/-- The owner digest fused into slot 0 before the model begins (R391). -/
opaque Config.ownerDigest : BitVec 512

/-- The vendor life-cycle key whose digest is in the boot ROM (R393). -/
opaque Config.lifecycleKey : List Byte

/-- The nonces of REC and MGT: a new value each time one is taken (R356, R393). -/
opaque Config.nonce : Nat → Word

end Sys2Proof
end

