-- ==== Sys2Proof/Machine/Bits.lean ====
section
/-! DEFINITION. Bit fields, signs, byte order, checksums, and association lists kept in one canonical form. -/

namespace Sys2Proof.Machine

/-- Bits [lo + n - 1 : lo] of `w`. -/
def bitsAt (w lo n : Nat) : Nat := (w >>> lo) % 2 ^ n

/-- Bit `i` of `w`. -/
def bitAt (w i : Nat) : Bool := (w >>> i) % 2 == 1

/-- An `n`-bit pattern read as a two's-complement number. -/
def signedOf (n v : Nat) : Int := if v % 2 ^ n < 2 ^ (n - 1) then (v % 2 ^ n : Nat) else (v % 2 ^ n : Nat) - (2 ^ n : Nat)

/-- The `n`-bit two's-complement pattern of an integer. -/
def unsignedOf (n : Nat) (v : Int) : Nat := (v % (2 ^ n : Nat)).toNat

/-- Bytes read as a little-endian number (R28). -/
def leNat : List Byte → Nat
  | [] => 0
  | b :: t => b.toNat + 256 * leNat t

/-- The `n` little-endian bytes of a number. -/
def leBytes : Nat → Nat → List Byte
  | 0, _ => []
  | n + 1, v => BitVec.ofNat 8 (v % 256) :: leBytes n (v / 256)

/-- Round up to a multiple of `n`. -/
def roundUp (v n : Nat) : Nat := (v + n - 1) / n * n

/-- Ceiling division. -/
def ceilDiv (a b : Nat) : Nat := (a + b - 1) / b

/-- Saturating addition at `m` (counters that stick). -/
def stick (m v : Nat) : Nat := if v < m then v else m

/-- Two ranges, each a first address and a length, have an address in common. -/
def overlaps (a n b m : Nat) : Bool := decide (0 < n) && decide (0 < m) && decide (a < b + m) && decide (b < a + n)

/-- Range [a, a + n) lies in range [b, b + m). -/
def within (a n b m : Nat) : Bool := decide (b ≤ a) && decide (a + n ≤ b + m)

/-- One step of CRC-32C (reflected polynomial 0x82F63B78), a bit at a time. -/
def crcBits : Nat → Nat → Nat
  | 0, c => c
  | k + 1, c => crcBits k (if c % 2 = 1 then (c / 2).xor 0x82F63B78 else c / 2)

/-- CRC-32C of a list of bytes, as reel records, tags and schedule records use it (R240, R313, R320, R351). -/
def crc32c (bs : List Byte) : Nat :=
  (bs.foldl (fun c b => crcBits 8 (c.xor b.toNat)) 0xFFFFFFFF).xor 0xFFFFFFFF

/-- The value at key `k` of a rising association list; `d k` where it lists none. -/
def smGet {β : Type} (d : Nat → β) : List (Nat × β) → Nat → β
  | [], k => d k
  | (k', v) :: t, k => if k = k' then v else if k < k' then d k else smGet d t k

/-- Set key `k` to `v`, keeping the keys rising and listing no value equal to the default. -/
def smPut {β : Type} [DecidableEq β] (d : Nat → β) : List (Nat × β) → Nat → β → List (Nat × β)
  | [], k, v => if v = d k then [] else [(k, v)]
  | (k', v') :: t, k, v =>
    if k < k' then (if v = d k then (k', v') :: t else (k, v) :: (k', v') :: t)
    else if k = k' then (if v = d k then t else (k, v) :: t)
    else (k', v') :: smPut d t k v

/-- The canonical form: keys strictly rising from `lo`, and no value equal to the default. -/
def smWfFrom {β : Type} [DecidableEq β] (d : Nat → β) : Nat → List (Nat × β) → Bool
  | _, [] => true
  | lo, (k, v) :: t => decide (lo ≤ k) && !decide (v = d k) && smWfFrom d (k + 1) t

/-- The canonical form of an association list. -/
def smWf {β : Type} [DecidableEq β] (d : Nat → β) (m : List (Nat × β)) : Bool := smWfFrom d 0 m

/-- Take every key of [a, a + n) back to a default that does not depend on the key. -/
def smErase {β : Type} (m : List (Nat × β)) (a n : Nat) : List (Nat × β) :=
  m.filter fun c => !(decide (a ≤ c.1) && decide (c.1 < a + n))

/-- The cells of [a, a + n), with keys counted from `b`. -/
def smSlice {β : Type} (m : List (Nat × β)) (a n b : Nat) : List (Nat × β) :=
  (m.filter fun c => decide (a ≤ c.1) && decide (c.1 < a + n)).map fun c => (c.1 - a + b, c.2)

/-- Replace what [b, b + n) holds by the given cells, whose keys lie there. -/
def smSplice {β : Type} (m : List (Nat × β)) (b n : Nat) (cells : List (Nat × β)) : List (Nat × β) :=
  (m.filter fun c => decide (c.1 < b)) ++ cells ++ (m.filter fun c => decide (b + n ≤ c.1))

/-- Copy the keys [a, a + n) onto [b, b + n). -/
def smCopy {β : Type} (m : List (Nat × β)) (a n b : Nat) : List (Nat × β) := smSplice m b n (smSlice m a n b)

/-- The element at index `i`, or a default. -/
def nth {α : Type} (d : α) (l : List α) (i : Nat) : α := l.getD i d

/-- Replace the first element that satisfies `p`. -/
def replaceFirst {α : Type} (p : α → Bool) (f : α → α) : List α → List α
  | [] => []
  | x :: t => if p x then f x :: t else x :: replaceFirst p f t

/-- Insert into a list that rises by a key, after the elements of the same key. -/
def insertBy {α : Type} (key : α → Nat) (x : α) : List α → List α
  | [] => [x]
  | y :: t => if key x < key y then x :: y :: t else y :: insertBy key x t

/-- Sort by a key, rising and stable. -/
def sortBy {α : Type} (key : α → Nat) : List α → List α
  | [] => []
  | x :: t => insertFront key x (sortBy key t)
where
  /-- Insert before the elements of the same key, so that the sort is stable. -/
  insertFront (key : α → Nat) (x : α) : List α → List α
    | [] => [x]
    | y :: t => if key y < key x then y :: insertFront key x t else x :: y :: t

/-- Keep one of equal elements. -/
def dedup {α : Type} [DecidableEq α] : List α → List α
  | [] => []
  | x :: t => if t.contains x then dedup t else x :: dedup t

end Sys2Proof.Machine
end

