-- ==== Sys2Proof/Machine/Num.lean ====
section
/-! DEFINITION. The number formats and the exact sums (02_exact_sums.md, 03_scale_recipes.md): decoding, the one
rounding of every conversion, block scales, the accumulator's grid, the exchange blocks. Every value is an exact
dyadic number until the one rounding that the manual gives it. -/

namespace Sys2Proof.Machine

/-- The element formats and exchange formats of a tensor, in the order of the descriptor's FMT codes (R27, R87). -/
inductive Fmt where
  | e2m1 | w2 | e3m2 | e2m3 | e4m3 | e5m2 | bf16 | lv8 | fp32 | es32 | es64
deriving DecidableEq, Repr, Inhabited

/-- The tensor kinds of R62, in the order of the descriptor's KIND codes (R87). -/
inductive Kind where
  | w | a | s | g | m | p
deriving DecidableEq, Repr, Inhabited

/-- FMT codes 0 to 10; 11 to 15 are reserved (R87). -/
def Fmt.ofCode : Nat → Option Fmt
  | 0 => some .e2m1 | 1 => some .w2 | 2 => some .e3m2 | 3 => some .e2m3 | 4 => some .e4m3 | 5 => some .e5m2
  | 6 => some .bf16 | 7 => some .lv8 | 8 => some .fp32 | 9 => some .es32 | 10 => some .es64 | _ => none

/-- KIND codes 0 to 5; 6 and 7 are reserved (R87). -/
def Kind.ofCode : Nat → Option Kind
  | 0 => some .w | 1 => some .a | 2 => some .s | 3 => some .g | 4 => some .m | 5 => some .p | _ => none

/-- Bits of one element (R27, R51, R54). -/
def Fmt.bits : Fmt → Nat
  | .e2m1 => 4 | .w2 => 2 | .e3m2 => 6 | .e2m3 => 6 | .e4m3 => 8 | .e5m2 => 8 | .bf16 => 16 | .lv8 => 8 | .fp32 => 32
  | .es32 => 32 | .es64 => 64

/-- An exact dyadic number m × 2^e. -/
structure Dy where
  m : Int
  e : Int
deriving DecidableEq, Repr, Inhabited

/-- A value read from a format: NaN, an infinity, or a finite number whose zero keeps a sign. -/
inductive FV where
  | nan
  | inf (neg : Bool)
  | num (neg : Bool) (m : Nat) (e : Int)
deriving DecidableEq, Repr, Inhabited

/-- floor(log2 m) of a positive number. -/
def flog2 (m : Nat) (e : Int) : Int := (Nat.log2 m : Int) + e

/-- 2^k for k at least 0 (and 1 below). -/
def pow2 (k : Int) : Int := ((2 ^ k.toNat : Nat) : Int)

/-- `m` divided by 2^k, to nearest with ties to even. -/
def rneShift (m : Int) (k : Nat) : Int :=
  let d : Int := ((2 ^ k : Nat) : Int)
  let q := m / d
  let r := 2 * (m - q * d)
  if r < d then q else if d < r then q + 1 else if q % 2 = 0 then q else q + 1

/-- m × 2^e in steps of 2^g, to nearest with ties to even. -/
def roundSteps (m e g : Int) : Int := if g ≤ e then m * pow2 (e - g) else rneShift m (g - e).toNat

/-- m × 2^e in steps of 2^g, rounded down. -/
def floorSteps (m e g : Int) : Int := if g ≤ e then m * pow2 (e - g) else m / pow2 (g - e)

/-- m × 2^e is a multiple of 2^g. -/
def isMultiple (m e g : Int) : Bool := if g ≤ e then true else decide (m % pow2 (g - e) = 0)

/-- Exact sum. -/
def Dy.add (x y : Dy) : Dy :=
  if x.e ≤ y.e then ⟨x.m + y.m * pow2 (y.e - x.e), x.e⟩ else ⟨x.m * pow2 (x.e - y.e) + y.m, y.e⟩

/-- Exact product. -/
def Dy.mul (x y : Dy) : Dy := ⟨x.m * y.m, x.e + y.e⟩

/-- Exact comparison x < y. -/
def Dy.lt (x y : Dy) : Bool :=
  if x.e ≤ y.e then decide (x.m < y.m * pow2 (y.e - x.e)) else decide (x.m * pow2 (x.e - y.e) < y.m)

/-- The signed number behind a sign and a magnitude. -/
def signInt (neg : Bool) (m : Nat) : Int := if neg then -(m : Int) else (m : Int)

/-- The finite value as an exact number; 0 for NaN and infinities. -/
def FV.dy : FV → Dy
  | .num n m e => ⟨signInt n m, e⟩
  | _ => ⟨0, 0⟩

/-- The value is finite. -/
def FV.finite : FV → Bool
  | .num _ _ _ => true
  | _ => false

/-- The value is +0 or −0. -/
def FV.isZero : FV → Bool
  | .num _ m _ => m == 0
  | _ => false

/-- Exponent bits, mantissa bits, bias and the code of the largest finite magnitude of a floating-point format (R27);
none for W2, LV8 and the exchange formats. -/
def Fmt.fp : Fmt → Option (Nat × Nat × Nat × Nat)
  | .e2m1 => some (2, 1, 1, 0x7)
  | .e3m2 => some (3, 2, 3, 0x1F)
  | .e2m3 => some (2, 3, 1, 0x1F)
  | .e4m3 => some (4, 3, 7, 0x7E)
  | .e5m2 => some (5, 2, 15, 0x7B)
  | .bf16 => some (8, 7, 127, 0x7F7F)
  | .fp32 => some (8, 23, 127, 0x7F7FFFFF)
  | _ => none

/-- The finite value of a code under exponent and mantissa widths and a bias (R27). -/
def fpValue (eb mb bias c : Nat) : FV :=
  let neg := bitAt c (eb + mb)
  let ex := bitsAt c mb eb
  let man := bitsAt c 0 mb
  if ex = 0 then .num neg man (1 - (bias : Int) - mb) else .num neg (2 ^ mb + man) ((ex : Int) - bias - mb)

/-- The mantissas of v_c for c mod 8 = 0 to 7: rn(2^(k/8)) in 24 bits (R30). -/
def lv8Mant : Nat → Nat
  | 0 => 8388608 | 1 => 9147842 | 2 => 9975792 | 3 => 10878679 | 4 => 11863283 | 5 => 12937002 | 6 => 14107901 | _ => 15384775

/-- The constant v_c of an LV8 code above 0 (R30). -/
def lv8Dy (c : Nat) : Dy := ⟨(lv8Mant (c % 8) : Int), ((c / 8 : Nat) : Int) - 16 - 23⟩

/-- The value of LV8 code c: zero, or v_c (R30). -/
def lv8Value (c : Nat) : FV := if c = 0 then .num false 0 0 else .num false (lv8Mant (c % 8)) (lv8Dy c).e

/-- The value of a W2 code under its codebook: false ternary, true quad (R29). -/
def w2Value (quad : Bool) (c : Nat) : FV :=
  match quad, c % 4 with
  | false, 0 => .num false 0 0
  | false, 1 => .num false 1 0
  | false, 2 => .num true 0 0
  | false, _ => .num true 1 0
  | true, 0 => .num false 1 (-1)
  | true, 1 => .num false 3 (-1)
  | true, 2 => .num true 1 (-1)
  | true, _ => .num true 3 (-1)

/-- The value of an element code, before its block scale (R27, R29, R30). -/
def elemValue (f : Fmt) (quad : Bool) (c : Nat) : FV :=
  match f with
  | .w2 => w2Value quad c
  | .lv8 => lv8Value c
  | .e2m1 => fpValue 2 1 1 c
  | .e3m2 => fpValue 3 2 3 c
  | .e2m3 => fpValue 2 3 1 c
  | .e4m3 => if c % 128 = 0x7F then .nan else fpValue 4 3 7 c
  | .e5m2 => if bitsAt c 2 5 = 0x1F then (if c % 4 = 0 then .inf (bitAt c 7) else .nan) else fpValue 5 2 15 c
  | .bf16 => if bitsAt c 7 8 = 0xFF then (if c % 128 = 0 then .inf (bitAt c 15) else .nan) else fpValue 8 7 127 c
  | .fp32 => if bitsAt c 23 8 = 0xFF then (if c % 2 ^ 23 = 0 then .inf (bitAt c 31) else .nan) else fpValue 8 23 127 c
  | .es32 => .num (bitAt c 31) (signedOf 32 c).natAbs 0
  | .es64 => .num (bitAt c 63) (signedOf 64 c).natAbs 0

/-- Round a positive number to a floating-point format's magnitude code, to nearest with ties to even; the code may pass
the largest finite one. -/
def fpRound (mb bias : Nat) (m : Nat) (e : Int) : Nat :=
  if m = 0 then 0 else
  let k := flog2 m e
  let lo : Int := 1 - bias
  if k < lo then (roundSteps m e (lo - mb)).toNat
  else ((k - lo).toNat) * 2 ^ mb + (roundSteps m e (k - mb)).toNat

/-- The exact magnitude behind a magnitude code. -/
def fpMag (eb mb bias c : Nat) : Dy := (fpValue eb mb bias c).dy

/-- The largest finite magnitude of a format (R27, R29, R30). -/
def maxFinite (f : Fmt) (quad : Bool) : Dy :=
  match f with
  | .w2 => if quad then ⟨3, -1⟩ else ⟨1, 0⟩
  | .lv8 => lv8Dy 255
  | .e2m1 => fpMag 2 1 1 0x7
  | .e3m2 => fpMag 3 2 3 0x1F
  | .e2m3 => fpMag 2 3 1 0x1F
  | .e4m3 => fpMag 4 3 7 0x7E
  | .e5m2 => fpMag 5 2 15 0x7B
  | .bf16 => fpMag 8 7 127 0x7F7F
  | .fp32 => fpMag 8 23 127 0x7F7FFFFF
  | .es32 => ⟨2 ^ 31 - 1, 0⟩
  | .es64 => ⟨2 ^ 63 - 1, 0⟩

/-- The counts of R76 that one command makes against one tensor. -/
structure Counts where
  total  : Nat := 0
  zero   : Nat := 0
  sat    : Nat := 0
  nonfin : Nat := 0
  wlow   : Nat := 0
  whigh  : Nat := 0
  clamp  : Bool := false
deriving DecidableEq, Repr, Inhabited

/-- Counts add field by field; the CLAMP flag is an OR (R76, R78). -/
def Counts.add (x y : Counts) : Counts :=
  { total := x.total + y.total, zero := x.zero + y.zero, sat := x.sat + y.sat, nonfin := x.nonfin + y.nonfin,
    wlow := x.wlow + y.wlow, whigh := x.whigh + y.whigh, clamp := x.clamp || y.clamp }

/-- The counts hold an overflow of R64: a non-finite value, a scale clamp or a window-high event. -/
def Counts.overflow (c : Counts) : Bool := decide (0 < c.nonfin) || decide (0 < c.whigh) || c.clamp

/-- Nothing was counted. -/
def Counts.none (c : Counts) : Bool := decide (c = {})

/-- Largest LV8 code whose constant is at most a positive x; 0 below v_1 (R30). -/
def lv8Floor (x : Dy) : Nat :=
  let k := flog2 x.m.toNat x.e
  if k < -16 then 0
  else if 15 < k then 255
  else
    let base := (k + 16).toNat * 8
    ((List.range 8).map (base + ·)).foldl (fun b c => if c = 0 ∨ (x.lt (lv8Dy c)) = true then b else c) 0

/-- The exact value of an LV8 code. -/
def lv8Exact (c : Nat) : Dy := if c = 0 then ⟨0, 0⟩ else lv8Dy c

/-- Convert a non-negative finite value at most v_255 to LV8 by nearest, a tie to the even code (R30). -/
def lv8Nearest (x : Dy) : Nat :=
  if x.m ≤ 0 then 0 else
  let lo := lv8Floor x
  if 255 ≤ lo then 255 else
  let hi := lo + 1
  -- 2x against lo + hi
  let two : Dy := ⟨x.m, x.e + 1⟩
  let mid := (lv8Exact lo).add (lv8Exact hi)
  if two.lt mid then lo else if mid.lt two then hi else if lo % 2 = 0 then lo else hi

/-- Convert a W2 magnitude (ternary: a tie at 0.5 goes to 0; quad: a tie at 1.0 goes to 0.5) (R29). -/
def w2Code (quad neg : Bool) (x : Dy) : Nat :=
  if quad then (if neg then 2 else 0) + (if Dy.lt ⟨1, 0⟩ x then 1 else 0)
  else if Dy.lt ⟨1, -1⟩ x then (if neg then 3 else 1) else 0

/-- Convert a value, already divided by its block scale, into an element code with one rounding to nearest, and count it
(R29, R30, R32, R65). A zero keeps its source's sign but in W2 ternary and LV8. -/
def encodeElem (f : Fmt) (quad : Bool) (x : FV) : Nat × Counts :=
  let c0 : Counts := { total := 1 }
  match f with
  | .lv8 =>
    match x with
    | .nan => (0, { c0 with nonfin := 1, zero := 1 })
    | .inf neg => if neg then (0, { c0 with nonfin := 1, zero := 1 }) else (0xFF, { c0 with nonfin := 1 })
    | .num neg m e =>
      if m = 0 then (0, { c0 with zero := 1 })
      else if neg then (0, { c0 with sat := 1, zero := 1 })
      else if (lv8Dy 255).lt ⟨m, e⟩ then (0xFF, { c0 with sat := 1 })
      else
        let c := lv8Nearest ⟨m, e⟩
        (c, { c0 with zero := if c = 0 then 1 else 0 })
  | .w2 =>
    let top := maxFinite .w2 quad
    let (neg, mag, nf, st) : Bool × Dy × Nat × Nat :=
      match x with
      | .nan => (false, ⟨0, 0⟩, 1, 0)
      | .inf neg => (neg, top, 1, 0)
      | .num neg m e => if top.lt ⟨m, e⟩ then (neg, top, 0, 1) else (neg, ⟨m, e⟩, 0, 0)
    let c := w2Code quad neg mag
    (c, { c0 with nonfin := nf, sat := st, zero := if !quad && c == 0 then 1 else 0 })
  | _ =>
    match f.fp with
    | none => (0, {})
    | some (eb, mb, bias, top) =>
      let sgn (neg : Bool) : Nat := if neg then 2 ^ (eb + mb) else 0
      match x with
      | .nan => (0, { c0 with nonfin := 1, zero := 1 })
      | .inf neg => (sgn neg + top, { c0 with nonfin := 1 })
      | .num neg m e =>
        if (fpMag eb mb bias top).lt ⟨m, e⟩ then (sgn neg + top, { c0 with sat := 1 })
        else
          let c := fpRound mb bias m e
          (sgn neg + c, { c0 with zero := if c = 0 then 1 else 0 })

/-- Multiply a value by 2^k exactly. -/
def FV.scale (x : FV) (k : Int) : FV :=
  match x with
  | .num n m e => .num n m (e + k)
  | v => v

/-- The constant emax of R60; none for the formats that carry no stored scale. -/
def Fmt.emax : Fmt → Option Int
  | .e2m1 => some 2 | .w2 => some 0 | .e3m2 => some 4 | .e2m3 => some 2 | .e4m3 => some 8 | .e5m2 => some 15
  | .lv8 => some 15 | _ => none

/-- floor(log2) of the largest finite non-zero magnitude among values; none where there is none (R60, R61). -/
def absmaxLog : List FV → Option Int
  | [] => none
  | x :: t =>
    match x, absmaxLog t with
    | .num _ m e, r => if m = 0 then r else match r with
      | none => some (flog2 m e)
      | some k => some (max k (flog2 m e))
    | _, r => r

/-- The block's scale byte and whether it was clamped at 0xFE (R60, R61). -/
def blockScale (f : Fmt) (vals : List FV) : Nat × Bool :=
  match f.emax, absmaxLog vals with
  | some em, some k =>
    let x := k - em
    if x < -127 then (0, false) else if 127 < x then (0xFE, true) else ((x + 127).toNat, false)
  | _, _ => (0, false)

/-- Convert one element under its block's scale byte (R60): BF16 and FP32 carry no scale. -/
def encodeScaled (f : Fmt) (quad : Bool) (scale : Nat) (x : FV) : Nat × Counts :=
  match f.emax with
  | none => encodeElem f quad x
  | some _ => encodeElem f quad (x.scale (127 - (scale : Int)))

/-- Write a value, already divided by its block scale, with stochastic rounding by the 16 bits r: LV8 or a floating-point
format; saturation, zeros and non-finite values as for nearest (R75). -/
def encodeStoch (f : Fmt) (r : Nat) (x : FV) : Nat × Counts :=
  let c0 : Counts := { total := 1 }
  match x with
  | .num neg m e =>
    if m = 0 then encodeElem f false x else
    match f, f.fp with
    | .lv8, _ =>
      if neg || (lv8Dy 255).lt ⟨m, e⟩ then encodeElem f false x
      else
        let lo := lv8Floor ⟨m, e⟩
        if 255 ≤ lo then (255, c0) else
        let l := lv8Exact lo
        let num := (Dy.add ⟨m, e⟩ ⟨-l.m, l.e⟩)
        let den := (lv8Exact (lo + 1)).add ⟨-l.m, l.e⟩
        -- floor(num / den * 2^16)
        let q := if num.e ≤ den.e then (num.m * 65536) / (den.m * pow2 (den.e - num.e))
                 else (num.m * 65536 * pow2 (num.e - den.e)) / den.m
        let c := if (r : Int) < q then lo + 1 else lo
        (c, { c0 with zero := if c = 0 then 1 else 0 })
    | _, some (eb, mb, bias, top) =>
      if (fpMag eb mb bias top).lt ⟨m, e⟩ then encodeElem f false x
      else
        let k := flog2 m e
        let q : Int := (if k < 1 - bias then 1 - (bias : Int) else k) - mb
        let sm := signInt neg m
        let lo := floorSteps sm e q
        let frac := floorSteps sm e (q - 16) - lo * 65536
        let n := if (r : Int) < frac then lo + 1 else lo
        let c := fpRound mb bias n.natAbs q
        ((if neg then 2 ^ (eb + mb) else 0) + c, { c0 with zero := if c = 0 then 1 else 0 })
    | _, none => encodeElem f false x
  | _ => encodeElem f false x

-- The arrays.

/-- The exponent of the smallest step of a format that the arrays read: every element is a whole number of steps (R36). -/
def stepExp : Fmt → Int
  | .e2m1 => -1 | .w2 => -1 | .e3m2 => -4 | .e2m3 => -3 | .e4m3 => -9 | .e5m2 => -16 | .bf16 => -133 | _ => 0

/-- An element as the arrays read it: a whole number of steps, zero for an infinity or NaN (R31). -/
def arrayInt (f : Fmt) (v : FV) : Int :=
  match v with
  | .num n m e => signInt n m * pow2 (e - stepExp f)
  | _ => 0

/-- The pair constant E_f and the partial length b of R36, for the pair in either order; none for any other pair. -/
def pairEf (f g : Fmt) (quadG b16 : Bool) : Option (Int × Nat) :=
  match f, g with
  | .e2m1, .e2m1 => some (if b16 then (9, 16) else (10, 32))
  | .e2m1, .w2 => some (if quadG then (if b16 then (7, 16) else (8, 32)) else (if b16 then (6, 16) else (7, 32)))
  | .e2m3, .e2m3 => some (10, 32)
  | .e2m3, .e3m2 | .e3m2, .e2m3 => some (12, 32)
  | .e3m2, .e3m2 => some (14, 32)
  | .e2m3, .e4m3 | .e4m3, .e2m3 => some (16, 32)
  | .e3m2, .e4m3 | .e4m3, .e3m2 => some (18, 32)
  | .e4m3, .e4m3 => some (22, 32)
  | .e2m3, .e5m2 | .e5m2, .e2m3 => some (23, 32)
  | .e3m2, .e5m2 | .e5m2, .e3m2 => some (25, 32)
  | .e4m3, .e5m2 | .e5m2, .e4m3 => some (29, 32)
  | .e5m2, .e5m2 => some (36, 32)
  | .bf16, .bf16 => some (6, 32)
  | _, _ => none

/-- Round one block partial m × 2^e onto the grid 2^g, answering grid steps and whether it was window-low (R44). -/
def roundPartial (m e g : Int) : Int × Nat :=
  let q := roundSteps m e g
  (q, if m ≠ 0 ∧ q = 0 then 1 else 0)

/-- The grid exponent of an accumulation: FINE 2^(A−95), EXCH64 2^(A−35) (R43). -/
def gridExp (exch : Bool) (a : Int) : Int := if exch then a - 35 else a - 95

/-- What one block partial adds to the integer n of ES128, with its window-low and window-high counts (R44, R45). -/
def addPartial (exch fixed : Bool) (a : Int) (m e : Int) : Int × Nat × Nat :=
  let g := gridExp exch a
  let up : Int := if exch then pow2 60 else 1
  -- the largest magnitude 2^(A+1) − g, in grid steps
  let lim : Int := (if exch then pow2 36 else pow2 96) - 1
  let (q, low) := roundPartial m e g
  -- |m 2^e| > lim 2^g
  let past := Dy.lt ⟨lim, g⟩ ⟨(m.natAbs : Int), e⟩
  if fixed && past then ((if m < 0 then -lim else lim) * up, 0, 1) else (q * up, low, 0)

/-- ES128 as an exact value: n × 2^(A−95) (R38). -/
def esDy (n a : Int) : Dy := ⟨n, a - 95⟩

/-- The same as a value of a format; an exact zero is +0. -/
def dyFV (d : Dy) : FV := .num (decide (d.m < 0)) d.m.natAbs d.e

/-- ES64 steps of an accumulator value: exact on the EXCH64 grid, one rounding from the FINE grid (R55). -/
def es64Steps (n : Int) : Int := rneShift n 60

/-- The 260 bytes of an ES64 block (R54). -/
def es64Block (ns : List Int) (a : Int) (members : Nat) : List Byte :=
  (ns.map fun n => leBytes 8 (unsignedOf 64 n)).flatten ++ leBytes 2 (unsignedOf 16 a) ++ leBytes 2 members

/-- The offset d of R52: the largest of 0 to 255 for which every element fits, 0 where none does. The fuel counts down
from 255. -/
def es32Offset (vals : List Dy) (aT : Int) : Nat → Nat
  | 0 => 0
  | d + 1 =>
    if vals.all (fun v => decide ((roundSteps v.m v.e (aT - ((d + 1 : Nat) : Int) - 30)).natAbs ≤ 2 ^ 31 - 1)) then d + 1
    else es32Offset vals aT d

/-- The integers, offset, window-low and window-high counts of an outgoing ES32 block (R52). -/
def es32Form (vals : List Dy) (aT : Int) : List Int × Nat × Nat × Nat :=
  let d := es32Offset vals aT 255
  let g := aT - d - 30
  let rs := vals.map fun v => (v, roundSteps v.m v.e g)
  let lim : Int := 2 ^ 31 - 1
  (rs.map fun p => if lim < p.2 then lim else if p.2 < -lim then -lim else p.2, d,
   (rs.filter fun p => p.1.m ≠ 0 && p.2 == 0).length, (rs.filter fun p => decide (2 ^ 31 - 1 < p.2.natAbs)).length)

/-- The 132 bytes of an ES32 block (R51). -/
def es32Block (ns : List Int) (d sat members : Nat) : List Byte :=
  (ns.map fun n => leBytes 4 (unsignedOf 32 n)).flatten ++ leBytes 1 d ++ leBytes 1 sat ++ leBytes 2 members

end Sys2Proof.Machine
end

