-- ==== Sys2Proof/Machine/Fp32.lean ====
section
/-! DEFINITION. The finishing engines' FP32 arithmetic (R132 to R137): every value in a lane is an FP32 value held
exactly, every elementary operation rounds once to nearest with ties to even. -/

namespace Sys2Proof.Machine

/-- +0 of FP32. -/
def fzero : FV := .num false 0 (-149)

/-- Round an exact value to FP32, to nearest with ties to even; overflow gives an infinity (R132). -/
def rn32 (x : FV) : FV :=
  match x with
  | .num neg m e =>
    let c := fpRound 23 127 m e
    if 0x7F800000 ≤ c then .inf neg
    else match fpValue 8 23 127 c with
      | .num _ m' e' => .num neg m' e'
      | v => v
  | v => v

/-- Round an exact value to FP32; a finite value beyond the largest is clamped, with a count of 1 (R129). -/
def rn32Clamp (x : FV) : FV × Nat :=
  match x with
  | .num neg m e => if (maxFinite .fp32 false).lt ⟨m, e⟩ then (.num neg (2 ^ 24 - 1) 104, 1) else (rn32 x, 0)
  | v => (v, 0)

/-- The FP32 word of a value in a lane; every NaN is 0x7FC0_0000 (R27). -/
def fp32Bits : FV → Nat
  | .nan => 0x7FC00000
  | .inf neg => (if neg then 2 ^ 31 else 0) + 0x7F800000
  | .num neg m e => (if neg then 2 ^ 31 else 0) + fpRound 23 127 m e

/-- The value of an FP32 word. -/
def ofFp32 (w : Nat) : FV := elemValue .fp32 false w

/-- The sign of a value. -/
def FV.isNeg : FV → Bool
  | .num n _ _ => n
  | .inf n => n
  | .nan => false

/-- The value with its sign turned. -/
def fneg : FV → FV
  | .num n m e => .num (!n) m e
  | .inf n => .inf (!n)
  | .nan => .nan

/-- An exact sum rounded once; an exact zero takes the common sign of its terms, else + (IEEE 754). -/
def sumRn (x y : FV) : FV :=
  let d := x.dy.add y.dy
  if d.m = 0 then .num (x.isNeg && y.isNeg) 0 (-149) else rn32 (dyFV d)

/-- A + B. -/
def fadd (x y : FV) : FV :=
  match x, y with
  | .nan, _ => .nan
  | _, .nan => .nan
  | .inf a, .inf b => if a = b then .inf a else .nan
  | .inf a, _ => .inf a
  | _, .inf b => .inf b
  | _, _ => sumRn x y

/-- A − B. -/
def fsub (x y : FV) : FV := fadd x (fneg y)

/-- The exact product of two values. -/
def fmulExact (x y : FV) : FV :=
  match x, y with
  | .nan, _ => .nan
  | _, .nan => .nan
  | .inf a, .inf b => .inf (a != b)
  | .inf a, .num b m _ => if m = 0 then .nan else .inf (a != b)
  | .num a m _, .inf b => if m = 0 then .nan else .inf (a != b)
  | .num a m e, .num b n f => .num (a != b) (m * n) (e + f)

/-- A × B. -/
def fmul (x y : FV) : FV := rn32 (fmulExact x y)

/-- A × B + C with one rounding. -/
def ffma (x y z : FV) : FV := fadd (fmulExact x y) z

/-- A ÷ B: the exact quotient carried to 64 bits and a sticky bit, then one rounding. -/
def fdiv (x y : FV) : FV :=
  match x, y with
  | .nan, _ => .nan
  | _, .nan => .nan
  | .inf _, .inf _ => .nan
  | .inf a, .num b _ _ => .inf (a != b)
  | .num a _ _, .inf b => .num (a != b) 0 (-149)
  | .num a m e, .num b n f =>
    if n = 0 then (if m = 0 then .nan else .inf (a != b))
    else
      let k := 64 + Nat.log2 n
      let q := (m * 2 ^ k) / n
      let st := if (m * 2 ^ k) % n = 0 then 0 else 1
      rn32 (.num (a != b) (2 * q + st) (e - f - k - 1))

/-- Integer square root, one result bit at a time from bit `k` − 1 down. -/
def isqrtFrom (v : Nat) : Nat → Nat → Nat
  | 0, r => r
  | k + 1, r => if (r + 2 ^ k) * (r + 2 ^ k) ≤ v then isqrtFrom v k (r + 2 ^ k) else isqrtFrom v k r

/-- √A: a root carried to 40 bits and a sticky bit, then one rounding. -/
def fsqrt (x : FV) : FV :=
  match x with
  | .nan => .nan
  | .inf a => if a then .nan else .inf false
  | .num a m e =>
    if m = 0 then x
    else if a then .nan
    else
      -- an even exponent and at least 64 bits under the root
      let (m', e') := if e % 2 = 0 then (m * 2 ^ 64, e - 64) else (m * 2 ^ 65, e - 65)
      let r := isqrtFrom m' 64 0
      let st := if r * r = m' then 0 else 1
      rn32 (.num false (2 * r + st) (e' / 2 - 1))

/-- Exact order x < y of two values that are no NaN; +0 and −0 are equal. -/
def fltb (x y : FV) : Bool :=
  match x, y with
  | .inf a, .inf b => a && !b
  | .inf a, _ => a
  | _, .inf b => !b
  | _, _ => x.dy.lt y.dy

/-- max(A, B) of the operation table: a NaN gives the other, +0 above −0 (R131). -/
def fmax (x y : FV) : FV :=
  match x, y with
  | .nan, _ => y
  | _, .nan => x
  | _, _ => if fltb x y then y else if fltb y x then x else if x.isNeg then y else x

/-- min(A, B) of the operation table: a NaN gives the other, −0 below +0 (R131). -/
def fmin (x y : FV) : FV :=
  match x, y with
  | .nan, _ => y
  | _, .nan => x
  | _, _ => if fltb x y then x else if fltb y x then y else if x.isNeg then x else y

/-- 1.0 -/
def fone : FV := rn32 (.num false 1 0)

/-- 2.0 -/
def ftwo : FV := rn32 (.num false 1 1)

/-- A whole number as FP32. -/
def fnat (n : Nat) : FV := rn32 (.num false n 0)

-- The constants of EXP and LOG, computed from their definitions.

/-- log2 e in steps of 2^-60 (R133). -/
def kLog2e : Int := 1663314137230540311

/-- ln 2 in steps of 2^-60 (R133, R134). -/
def kLn2 : Int := 799144290325165979

/-- 1/3 in steps of 2^-60. -/
def kC3 : Int := 384307168202282325

/-- 1/5 in steps of 2^-60. -/
def kC5 : Int := 230584300921369395

/-- 1/6 in steps of 2^-60. -/
def kE6 : Int := 192153584101141163

/-- 1/24 in steps of 2^-60. -/
def kE24 : Int := 48038396025285291

/-- rn60(2^(j/64)) for j = 0 to 63 (R133). -/
def texpTable : List Int :=
  [1152921504606846976, 1165475996665667822, 1178167198179750971, 1190996597817460745, 1203965700457697123, 1217076027366416898, 1230329116375077029, 1243726522061021107, 1257269815929830109, 1270960586599658813, 1284800439987579512, 1298790999497954876] ++
  [1312933906212862055, 1327230819084590373, 1341683415130235180, 1356293389628410688, 1371062456318104878, 1385992347599699789, 1401084814738180775, 1416341628068558570, 1431764577203528246, 1447355471243389432, 1463116138988252419, 1479048429152555028] ++
  [1495154210581915421, 1511435372472346285, 1527893824591856095, 1544531497504463463, 1561350342796650841, 1578352333306284143, 1595539463354025138, 1612913748977263761, 1630477228166597777, 1648231961104887538, 1666180030408913885, 1684323541373667519] ++
  [1702664622219298520, 1721205424340754960, 1739948122560139915, 1758894915381816449, 1778048025250290524, 1797409698810902060, 1816982207173354740, 1836767846178115468, 1856768936665714716, 1876987824748979379, 1897426882088230027, 1918088506169474884] ++
  [1938975120585633119, 1960089175320820471, 1981433147037730539, 2003009539368145444, 2024820883206609954, 2046869737007303498, 2069158687084144917, 2091690347914165133, 2114467362444183334, 2137492402400822641, 2160768168603901625, 2184297391283238439] ++
  [2208082830398904710, 2232127275964966775, 2256433548376752231, 2281004498741680175]

/-- rn60(64/j) for j = 48 to 96 (R134). -/
def invTable : List Int :=
  [1537228672809129301, 1505856659078330744, 1475739525896764129, 1446803456761533460, 1418980313362273201, 1392207099902607669, 1366425486941448268, 1341581387178876481, 1317624576693539401, 1294508356049793096, 1272189246462727698, 1250626716861664516] ++
  [1229782938247303441, 1209622562210462401, 1190112520884487201, 1171221845949812801, 1152921504606846976, 1135184250689818561, 1117984489315730401, 1101298153654301589, 1085102592571150095, 1069376468041133427, 1054099661354831521, 1039253187251242345] ++
  [1024819115206086201, 1010780497189564472, 997121301281597385, 983826350597842753, 970881267037344822, 958272419413483201, 945986875574848801, 934012358162508943, 922337203685477581, 910950324627632179, 899841174327295201, 888999714395641042] ++
  [878416384462359601, 868082074056920076, 857988096451607052, 848126164308485132, 838488366986797801, 829067149380204567, 819855292164868961, 810845893349870401, 802032351030850070, 793408347256324801, 784967832923810707, 776705013629875858] ++
  [768614336404564651]

/-- rn60(ln(j/64)) for j = 48 to 96 (R134). -/
def tlogTable : List Int :=
  [-331674847819523230, -307902428193824504, -284610292476178224, -261779417618698091, -239391888855743598, -217430815250085943, -195880253133403711, -174725136571826886, -153951214096912252, -133544991036566053, -113493676861462667, -93785137032456902] ++
  [-74407848895029353, -55350861219338778, -36603757030154788, -18156619410792733, 0, 17875110068750280, 35477307009321985, 52814799206541282, 69895430200825139, 86726699994914057, 103315784827581626, 119669555544806966] ++
  [135794594686119519, 151697212392459053, 167383461231764586, 182859150029464525, 198129856782957177, 213200940731932963, 228077553649899151, 242764650416438875, 257266998924493878, 271589189372239037, 285735642984858962, 299710620207691992] ++
  [313518228408730497, 327162429125319017, 340647044887039015, 353975765644180082, 367152154828845215, 380179655073598274, 393061593610613396, 405801187372510129, 418401547814437287, 430865685475487961, 443196514296174253, 455396855707451055] ++
  [467469442505642749]

/-- 1 in steps of 2^-60. -/
def one60 : Int := pow2 60

/-- rn60 of the product of two numbers in steps of 2^-60. -/
def mul60 (a b : Int) : Int := rneShift (a * b) 60

/-- EXP (R133). -/
def fexp (x : FV) : FV :=
  match x with
  | .nan => .nan
  | .inf n => if n then fzero else .inf false
  | .num n m e =>
    let d : Dy := ⟨signInt n m, e⟩
    if !(d.lt ⟨128, 0⟩) then .inf false
    else if !(Dy.lt ⟨-160, 0⟩ d) then fzero
    else
      let y := roundSteps (d.m * kLog2e) (d.e - 60) (-60)
      let k := y / one60
      let f := y - k * one60
      let j := (64 * f) / one60
      let r := mul60 (f - j * pow2 54) kLn2
      let h := mul60 r kE24 + kE6
      let h := mul60 r h + pow2 59
      let h := mul60 r h + one60
      let h := mul60 r h + one60
      rn32 (dyFV ⟨mul60 (nth 0 texpTable j.toNat) h, k - 60⟩)

/-- LOG (R134). -/
def flog (x : FV) : FV :=
  match x with
  | .nan => .nan
  | .inf n => if n then .nan else .inf false
  | .num n m e =>
    if m = 0 then .inf true
    else if n then .nan
    else
      let k := Nat.log2 m
      -- x = (m / 2^k) × 2^(e + k), m / 2^k in [1, 2)
      let (k, ex) := if 3 * 2 ^ k ≤ 2 * m then (k + 1, e + k + 1) else (k, e + k)
      let j := (128 * m + 2 ^ k) / 2 ^ (k + 1)
      let z := roundSteps ((64 * (m : Int) - j * ((2 ^ k : Nat) : Int)) * nth 0 invTable (j - 48)) (-(k : Int) - 66) (-60)
      let h := mul60 z kC5 - pow2 58
      let h := mul60 z h + kC3
      let h := mul60 z h - pow2 59
      let h := mul60 z h + one60
      rn32 (dyFV ⟨ex * kLn2 + nth 0 tlogTable (j - 48) + mul60 z h, -60⟩)

/-- SIGMOID: 1 ÷ (1 + exp(−A)), three roundings (R131). -/
def fsigmoid (x : FV) : FV := fdiv fone (fadd fone (fexp (fneg x)))

/-- TANH: 2 × sigmoid(2 × A) − 1 (R131). -/
def ftanh (x : FV) : FV := fsub (fmul ftwo (fsigmoid (fmul ftwo x))) fone

/-- The anchor of an ES reduction: the largest floor(log2) of its finite non-zero inputs, plus 31 (R48). -/
def esAnchor (xs : List FV) : Option Int := (absmaxLog xs).map (· + 31)

/-- One input on the FINE grid under an anchor, in grid steps. -/
def esInput (a : Int) (x : FV) : Int := roundSteps x.dy.m x.dy.e (a - 95)

/-- The result of an ES reduction, rounded once to FP32, and its window-low events (R48). -/
def esSum (xs : List FV) : FV × Nat :=
  let low := match esAnchor xs with
    | none => 0
    | some a => (xs.filter fun x => x.dy.m ≠ 0 && esInput a x == 0).length
  let r : FV :=
    if xs.contains .nan || (xs.contains (.inf false) && xs.contains (.inf true)) then .nan
    else if xs.contains (.inf false) then .inf false
    else if xs.contains (.inf true) then .inf true
    else match esAnchor xs with
      | none => fzero
      | some a =>
        let n := (xs.map (esInput a)).foldl (· + ·) 0
        if n = 0 then fzero else rn32 (dyFV ⟨n, a - 95⟩)
  (r, low)

/-- The largest element that is no NaN, +0 above −0; NaN where every element is NaN (R131, R135). -/
def rowMax (xs : List FV) : FV := xs.foldl fmax .nan

/-- SOFTMAX (R135). -/
def fsoftmax (a : List FV) : List FV × Nat :=
  let mx := rowMax a
  let e := a.map fun x => fexp (fsub x mx)
  let (s, low) := esSum e
  (e.map fun x => fdiv x s, low)

/-- The scaling 1 ÷ √(q ÷ n + ε) shared by the two norms (R135). -/
def normScale (q n eps : FV) : FV := fdiv fone (fsqrt (fadd (fdiv q n) eps))

/-- RMSNORM (R135). -/
def frmsnorm (eps : FV) (a : List FV) : List FV × Nat :=
  let (q, low) := esSum (a.map fun x => fmul x x)
  let r := normScale q (fnat a.length) eps
  (a.map fun x => fmul x r, low)

/-- LNORM (R135). -/
def flnorm (eps : FV) (a : List FV) : List FV × Nat :=
  let n := fnat a.length
  let (t, low1) := esSum a
  let mu := fdiv t n
  let c := a.map fun x => fsub x mu
  let (q, low2) := esSum (c.map fun x => fmul x x)
  let r := normScale q n eps
  (c.map fun x => fmul x r, low1 + low2)

/-- ROTARY over the pairs' (cosine, sine) values; elements from 2 × np onwards pass (R135). -/
def frotary : List (FV × FV) → List FV → List FV
  | (cs, sn) :: ps, x :: y :: t =>
    let u := fmul y sn
    let v := fmul y cs
    ffma x cs (fneg u) :: ffma x sn v :: frotary ps t
  | _, t => t

/-- The row's indices paired with its values. -/
def indexed (xs : List FV) : List (Nat × FV) := (List.range xs.length).zip xs

/-- Take the best element `k` times: the largest value, lower index on ties (R136, R137). -/
def topBy : Nat → List (Nat × FV) → List (Nat × FV)
  | 0, _ => []
  | _, [] => []
  | k + 1, x :: t =>
    let b := t.foldl (fun m y => if fltb m.2 y.2 then y else m) x
    b :: topBy k ((x :: t).filter fun y => y.1 != b.1)

/-- TOPK's list of one row (R136). -/
def topkRow (k : Nat) (a : List FV) : List Nat :=
  let l := (topBy k ((indexed a).filter fun p => p.2 != .nan)).map (·.1)
  l ++ List.replicate (k - l.length) 0xFFFFFFFF

/-- The shortest prefix of kept members whose total reaches the top-p share (R137). -/
def topPrefix (tp : Dy) (all : Int) : List (Nat × Int) → Int → List (Nat × Int)
  | [], _ => []
  | x :: t, acc =>
    let acc' := acc + x.2
    if !(Dy.lt ⟨acc', 0⟩ (tp.mul ⟨all, 0⟩)) then [x] else x :: topPrefix tp all t acc'

/-- The drawn index: the smallest with c(i) × 2^32 above u × t (R137). -/
def drawToken (ut : Int) : List (Nat × Int) → Int → Nat
  | [], _ => 0xFFFFFFFF
  | x :: t, acc => if ut < (acc + x.2) * pow2 32 then x.1 else drawToken ut t (acc + x.2)

/-- SAMPLE's token of one row of logits, for a draw u (R137). -/
def sampleRow (temp : FV) (topk : Nat) (topp : FV) (u : Nat) (a : List FV) : Nat :=
  let live := (indexed a).filter fun p => p.2 != .nan
  if !(live.any fun p => p.2 == .inf false) && temp.isZero then
    match topBy 1 live with
    | x :: _ => x.1
    | [] => 0xFFFFFFFF
  else
    let es : List (Nat × FV) :=
      if live.any fun p => p.2 == .inf false then (live.filter fun p => p.2 == .inf false).map fun p => (p.1, fone)
      else
        let z := live.map fun p => (p.1, fdiv p.2 temp)
        let mx := rowMax (z.map (·.2))
        (z.map fun p => (p.1, fexp (fsub p.2 mx))).filter fun p => fltb fzero p.2
    let es := if 0 < topk then topBy topk es else es
    match esAnchor (es.map (·.2)) with
    | none => 0xFFFFFFFF
    | some a =>
      let ints (l : List (Nat × FV)) : List (Nat × Int) := l.map fun p => (p.1, esInput a p.2)
      let ordered := topBy es.length es
      let kept :=
        if fltb topp fone then
          let l := ints ordered
          topPrefix topp.dy ((l.map (·.2)).foldl (· + ·) 0) l 0
        else ints es
      let kept := sortBy (·.1) kept
      let t := (kept.map (·.2)).foldl (· + ·) 0
      drawToken ((u : Int) * t) kept 0

end Sys2Proof.Machine
end

