-- ==== Sys2Proof/Machine/Regs.lean ====
section
/-! DEFINITION. The register map: every register field of the manual's register tables (R6, R417), with its
place, its access code and the value it holds at release (R8). A field whose Reset column reads "from the image", "from
the map", "from fuses" or "from the store" stands at the value of a clean start with a default image (log entry 3). -/

namespace Sys2Proof.Machine

/-- Register access codes (R6). Bits that no field covers are RSV: they read zero and ignore writes (R7). -/
inductive Acc where
  | RO | RW | WO | W1C | W1S | RC
deriving DecidableEq, Repr

/-- The blocks that have registers of their own (R417). -/
inductive Blk where
  | MGT | PX | PWR | TSU | BST | NT | NCACHE | XLT | CE | UD | SEC | PMC | CAST | DBG | REC | MSIX | MA | SP | LK | CX
deriving DecidableEq, Repr

/-- Base offset of instance 0 of a block in BAR0 (R417). -/
def blkBase : Blk → Nat
  | .MGT => 0x0
  | .PX => 0x10000
  | .PWR => 0x20000
  | .TSU => 0x30000
  | .BST => 0x40000
  | .NT => 0x50000
  | .NCACHE => 0x60000
  | .XLT => 0x70000
  | .CE => 0x80000
  | .UD => 0xA0000
  | .SEC => 0x100000
  | .PMC => 0x200000
  | .CAST => 0x400000
  | .DBG => 0x600000
  | .REC => 0x800000
  | .MSIX => 0x1000000
  | .MA => 0x1100000
  | .SP => 0x1200000
  | .LK => 0x1300000
  | .CX => 0x1400000

/-- Distance between two instances of a block (R417). -/
def blkStride : Blk → Nat
  | .MA => 0x10000 | .SP => 0x1000 | .LK => 0x1000 | .CX => 0x10000
  | _ => 0

/-- Instances of a block (R417). -/
def blkCount : Blk → Nat
  | .MA => 8 | .SP => 32 | .LK => 18 | .CX => 16
  | _ => 1

/-- Bytes of one instance of a block (R417). -/
def blkSize : Blk → Nat
  | .SEC => 0x40000 | .PMC => 0x200000 | .CAST => 0x200000 | .DBG => 0x200000 | .REC => 0x800000
  | .SP => 0x1000 | .LK => 0x1000
  | _ => 0x10000

/-- Block index of instance 0, as reel records and SAFE_UNIT name units (R417). -/
def blkIndex : Blk → Nat
  | .MGT => 0
  | .PX => 1
  | .PWR => 2
  | .TSU => 3
  | .BST => 4
  | .NT => 5
  | .NCACHE => 6
  | .XLT => 7
  | .CE => 8
  | .UD => 10
  | .SEC => 11
  | .PMC => 12
  | .CAST => 13
  | .DBG => 14
  | .REC => 15
  | .MSIX => 16
  | .MA => 17
  | .SP => 49
  | .LK => 113
  | .CX => 131

/-- One register field: its block, the offset of its register (entry 0 of an indexed register) and the distance
and number of the entries, its bits, its access code and its reset value. -/
structure Fld where
  blk : Blk
  off : Nat
  sub : Nat
  cnt : Nat
  lo  : Nat
  wid : Nat
  acc : Acc
  rst : Nat
deriving DecidableEq, Repr

/-- The BAR0 offset of the register that holds field `f`, in instance `n` of its block and entry `i`. -/
def Fld.addr (f : Fld) (n : Nat := 0) (i : Nat := 0) : Nat :=
  blkBase f.blk + blkStride f.blk * n + f.off + f.sub * i

/-! ### MGT -/

def R.MGT_DEVICE_ID_PART : Fld := ⟨.MGT, 0x0, 0, 1, 0, 16, .RO, 0x896⟩
def R.MGT_DEVICE_ID_STEP_IMYTH : Fld := ⟨.MGT, 0x0, 0, 1, 16, 8, .RO, 0xA0⟩
def R.MGT_DEVICE_ID_STEP_LERAM : Fld := ⟨.MGT, 0x0, 0, 1, 24, 8, .RO, 0xA0⟩
def R.MGT_DEVICE_ID_STACKS : Fld := ⟨.MGT, 0x0, 0, 1, 32, 8, .RO, 0xC⟩
def R.MGT_POPULATION_SLOW_PKGS : Fld := ⟨.MGT, 0x8, 0, 1, 0, 8, .RO, 0x20⟩
def R.MGT_POPULATION_NEAR_CH_LIVE : Fld := ⟨.MGT, 0x8, 0, 1, 8, 8, .RO, 0xC0⟩
def R.MGT_POPULATION_UD_AVAIL : Fld := ⟨.MGT, 0x8, 0, 1, 16, 1, .RO, 0x1⟩
def R.MGT_POPULATION_NEAR_GIB : Fld := ⟨.MGT, 0x8, 0, 1, 32, 16, .RO, 0x480⟩
def R.MGT_SEAT_DEV : Fld := ⟨.MGT, 0x10, 0, 1, 0, 16, .RO, 0x0⟩
def R.MGT_SEAT_RACK : Fld := ⟨.MGT, 0x10, 0, 1, 16, 10, .RO, 0x0⟩
def R.MGT_SEAT_TRAY : Fld := ⟨.MGT, 0x10, 0, 1, 26, 3, .RO, 0x0⟩
def R.MGT_SEAT_SLOT : Fld := ⟨.MGT, 0x10, 0, 1, 29, 3, .RO, 0x0⟩
def R.MGT_SEAT_PORTS_UP : Fld := ⟨.MGT, 0x10, 0, 1, 32, 18, .RO, 0x0⟩
def R.MGT_SEAT_SEATED : Fld := ⟨.MGT, 0x10, 0, 1, 50, 1, .RO, 0x0⟩
def R.MGT_START_STATE : Fld := ⟨.MGT, 0x18, 0, 1, 0, 3, .RO, 0x2⟩
def R.MGT_START_PHASE : Fld := ⟨.MGT, 0x18, 0, 1, 3, 4, .RO, 0x7⟩
def R.MGT_START_PUSHED : Fld := ⟨.MGT, 0x18, 0, 1, 7, 1, .RO, 0x0⟩
def R.MGT_START_CAUSE : Fld := ⟨.MGT, 0x18, 0, 1, 8, 4, .RO, 0x0⟩
def R.MGT_START_SAFE_UNIT : Fld := ⟨.MGT, 0x18, 0, 1, 16, 8, .RO, 0x0⟩
def R.MGT_START_SAFE_VECTOR : Fld := ⟨.MGT, 0x18, 0, 1, 32, 11, .RW, 0x0⟩
def R.MGT_PUSH_GO : Fld := ⟨.MGT, 0x20, 0, 1, 0, 1, .WO, 0x0⟩
def R.MGT_PUSH_LEN : Fld := ⟨.MGT, 0x20, 0, 1, 1, 25, .WO, 0x0⟩
def R.MGT_PUSH_BUSY : Fld := ⟨.MGT, 0x20, 0, 1, 26, 1, .RO, 0x0⟩
def R.MGT_LC_STATE : Fld := ⟨.MGT, 0x28, 0, 1, 0, 3, .RO, 0x2⟩
def R.MGT_LC_SECRET : Fld := ⟨.MGT, 0x28, 0, 1, 3, 1, .RO, 0x1⟩
def R.MGT_LC_OWNERS : Fld := ⟨.MGT, 0x28, 0, 1, 4, 3, .RO, 0x1⟩
def R.MGT_LC_RESULT : Fld := ⟨.MGT, 0x28, 0, 1, 8, 2, .RO, 0x0⟩
def R.MGT_LC_TOKEN_ADDR : Fld := ⟨.MGT, 0x30, 0, 1, 6, 42, .WO, 0x0⟩
def R.MGT_LC_NONCE_NONCE : Fld := ⟨.MGT, 0x38, 0, 1, 0, 64, .RO, 0x0⟩
def R.MGT_ORDER_HOST_SUP : Fld := ⟨.MGT, 0x40, 0, 1, 0, 1, .W1C, 0x0⟩
def R.MGT_ORDER_UNIT : Fld := ⟨.MGT, 0x40, 0, 1, 8, 8, .RO, 0x0⟩
def R.MGT_ORDER_OFFSET : Fld := ⟨.MGT, 0x40, 0, 1, 16, 24, .RO, 0x0⟩
def R.MGT_ORDER_SUP_COUNT : Fld := ⟨.MGT, 0x40, 0, 1, 48, 16, .RO, 0x0⟩
def R.MGT_I3C_DYN_ADDR : Fld := ⟨.MGT, 0x48, 0, 1, 0, 7, .RO, 0x0⟩
def R.MGT_I3C_ASSIGNED : Fld := ⟨.MGT, 0x48, 0, 1, 7, 1, .RO, 0x0⟩
def R.MGT_I3C_LAST_CMD : Fld := ⟨.MGT, 0x48, 0, 1, 8, 8, .RO, 0x0⟩

/-- Every field of the MGT block. -/
def mgtFields : List Fld :=
  [R.MGT_DEVICE_ID_PART, R.MGT_DEVICE_ID_STEP_IMYTH, R.MGT_DEVICE_ID_STEP_LERAM, R.MGT_DEVICE_ID_STACKS,
   R.MGT_POPULATION_SLOW_PKGS, R.MGT_POPULATION_NEAR_CH_LIVE, R.MGT_POPULATION_UD_AVAIL,
   R.MGT_POPULATION_NEAR_GIB, R.MGT_SEAT_DEV, R.MGT_SEAT_RACK, R.MGT_SEAT_TRAY, R.MGT_SEAT_SLOT,
   R.MGT_SEAT_PORTS_UP, R.MGT_SEAT_SEATED, R.MGT_START_STATE, R.MGT_START_PHASE, R.MGT_START_PUSHED,
   R.MGT_START_CAUSE, R.MGT_START_SAFE_UNIT, R.MGT_START_SAFE_VECTOR, R.MGT_PUSH_GO, R.MGT_PUSH_LEN,
   R.MGT_PUSH_BUSY, R.MGT_LC_STATE, R.MGT_LC_SECRET, R.MGT_LC_OWNERS, R.MGT_LC_RESULT, R.MGT_LC_TOKEN_ADDR,
   R.MGT_LC_NONCE_NONCE, R.MGT_ORDER_HOST_SUP, R.MGT_ORDER_UNIT, R.MGT_ORDER_OFFSET, R.MGT_ORDER_SUP_COUNT,
   R.MGT_I3C_DYN_ADDR, R.MGT_I3C_ASSIGNED, R.MGT_I3C_LAST_CMD]

/-! ### CX -/

def R.CX_NUMERIC_PIM : Fld := ⟨.CX, 0x100, 0, 1, 0, 1, .RW, 0x0⟩
def R.CX_NUMERIC_PIM_ACTIVE : Fld := ⟨.CX, 0x100, 0, 1, 1, 1, .RO, 0x0⟩
def R.CX_NUMERIC_PIM_REFUSED : Fld := ⟨.CX, 0x100, 0, 1, 32, 16, .RO, 0x0⟩
def R.CX_LEARN_S_INIT : Fld := ⟨.CX, 0x108, 0, 1, 0, 8, .RW, 0xC⟩
def R.CX_LEARN_S : Fld := ⟨.CX, 0x108, 0, 1, 8, 8, .RO, 0x0⟩
def R.CX_LEARN_CLEAN_RUN : Fld := ⟨.CX, 0x108, 0, 1, 16, 16, .RO, 0x0⟩
def R.CX_LEARN_RISE_AFTER : Fld := ⟨.CX, 0x108, 0, 1, 32, 16, .RO, 0x7D0⟩
def R.CX_LEARN_SKIPS : Fld := ⟨.CX, 0x108, 0, 1, 48, 16, .RO, 0x0⟩
def R.CX_VERDICT_MARK_CUR : Fld := ⟨.CX, 0x118, 0, 1, 0, 1, .RO, 0x0⟩
def R.CX_VERDICT_MARK_NEXT : Fld := ⟨.CX, 0x118, 0, 1, 1, 1, .RO, 0x0⟩
def R.CX_VERDICT_LAST_SKIP : Fld := ⟨.CX, 0x118, 0, 1, 2, 1, .RO, 0x0⟩
def R.CX_VERDICT_LAST_STEP : Fld := ⟨.CX, 0x118, 0, 1, 32, 32, .RO, 0x0⟩
def R.CX_HEALTH_EN : Fld := ⟨.CX, 0x110, 0, 1, 0, 1, .RW, 0x0⟩
def R.CX_HEALTH_BASE : Fld := ⟨.CX, 0x110, 0, 1, 21, 27, .RW, 0x0⟩
def R.CX_HEALTH_DROPPED : Fld := ⟨.CX, 0x110, 0, 1, 48, 16, .RO, 0x0⟩
def R.CX_ARRAYS_MASK : Fld := ⟨.CX, 0x120, 0, 1, 0, 8, .RW, 0xFF⟩
def R.CX_ARRAYS_PLACE_FIXED : Fld := ⟨.CX, 0x120, 0, 1, 8, 1, .RW, 0x0⟩
def R.CX_ARRAYS_HANDLES_BOUND : Fld := ⟨.CX, 0x120, 0, 1, 16, 7, .RO, 0x0⟩
def R.CX_SEED : Fld := ⟨.CX, 0x128, 0, 1, 0, 64, .RW, 0x0⟩
def R.CX_SYNC_GRANT : Fld := ⟨.CX, 0x130, 0, 1, 0, 16, .RW, 0x0⟩
def R.CX_SYNC_VERSION_BASE : Fld := ⟨.CX, 0x130, 0, 1, 21, 27, .RW, 0x0⟩
def R.CX_SEM_VALUE : Fld := ⟨.CX, 0x1000, 8, 256, 0, 32, .RW, 0x0⟩
def R.CX_STASH_CTL_EN : Fld := ⟨.CX, 0x140, 0, 1, 0, 1, .RW, 0x0⟩
def R.CX_STASH_CTL_MB_SLOTS : Fld := ⟨.CX, 0x140, 0, 1, 8, 8, .RW, 0x1⟩
def R.CX_STASH_CTL_LOW_WATER : Fld := ⟨.CX, 0x140, 0, 1, 16, 16, .RW, 0x0⟩
def R.CX_STASH_CTL_RECALL_PAGES : Fld := ⟨.CX, 0x140, 0, 1, 32, 16, .RW, 0x0⟩
def R.CX_STASH_CTL_ADMIT_SEM : Fld := ⟨.CX, 0x140, 0, 1, 48, 8, .RW, 0x0⟩
def R.CX_STASH_CTL_ADMIT_EN : Fld := ⟨.CX, 0x140, 0, 1, 56, 1, .RW, 0x0⟩
def R.CX_STASH_TABLE_ENTRIES : Fld := ⟨.CX, 0x148, 0, 1, 0, 16, .RW, 0x0⟩
def R.CX_STASH_TABLE_BASE : Fld := ⟨.CX, 0x148, 0, 1, 21, 27, .RW, 0x0⟩
def R.CX_STASH_WIN_BASE : Fld := ⟨.CX, 0x150, 0, 1, 21, 27, .RW, 0x0⟩
def R.CX_STASH_NEAR_PAGES : Fld := ⟨.CX, 0x158, 0, 1, 0, 20, .RW, 0x0⟩
def R.CX_STASH_NEAR_BASE : Fld := ⟨.CX, 0x158, 0, 1, 21, 20, .RW, 0x0⟩
def R.CX_STASH_POOL_PAGES : Fld := ⟨.CX, 0x160, 0, 1, 0, 21, .RW, 0x0⟩
def R.CX_STASH_POOL_BASE : Fld := ⟨.CX, 0x160, 0, 1, 21, 22, .RW, 0x0⟩
def R.CX_STASH_STAT_NEAR_USED : Fld := ⟨.CX, 0x168, 0, 1, 0, 20, .RO, 0x0⟩
def R.CX_STASH_STAT_POOL_USED : Fld := ⟨.CX, 0x168, 0, 1, 20, 22, .RO, 0x0⟩
def R.CX_STASH_STAT_HOLD : Fld := ⟨.CX, 0x168, 0, 1, 42, 1, .RO, 0x0⟩
def R.CX_STASH_STAT_TABLE_ERR : Fld := ⟨.CX, 0x168, 0, 1, 43, 1, .RO, 0x0⟩
def R.CX_STASH_STAT_ERR_ENTRY : Fld := ⟨.CX, 0x168, 0, 1, 44, 16, .RO, 0x0⟩
def R.CX_STASH_COUNT_OFFLOADS : Fld := ⟨.CX, 0x170, 0, 1, 0, 32, .RO, 0x0⟩
def R.CX_STASH_COUNT_RECALLS : Fld := ⟨.CX, 0x170, 0, 1, 32, 32, .RO, 0x0⟩
def R.CX_SHADOW_NEAR_PAGES : Fld := ⟨.CX, 0x180, 0, 1, 0, 20, .RW, 0x0⟩
def R.CX_SHADOW_NEAR_BASE : Fld := ⟨.CX, 0x180, 0, 1, 21, 20, .RW, 0x0⟩
def R.CX_SHADOW_SLOW_PAGES : Fld := ⟨.CX, 0x188, 0, 1, 0, 21, .RW, 0x0⟩
def R.CX_SHADOW_SLOW_BASE : Fld := ⟨.CX, 0x188, 0, 1, 21, 22, .RW, 0x0⟩
def R.CX_PRINTS_HOLD_SEM : Fld := ⟨.CX, 0x190, 0, 1, 0, 8, .RW, 0x0⟩
def R.CX_SHADOW_STAT_NEAR_USED : Fld := ⟨.CX, 0x198, 0, 1, 0, 20, .RO, 0x0⟩
def R.CX_SHADOW_STAT_SLOW_USED : Fld := ⟨.CX, 0x198, 0, 1, 20, 22, .RO, 0x0⟩
def R.CX_SHADOW_STAT_PENDING : Fld := ⟨.CX, 0x198, 0, 1, 42, 1, .RO, 0x0⟩
def R.CX_MEMPART_PART : Fld := ⟨.CX, 0x1A0, 0, 1, 0, 4, .RW, 0x0⟩
def R.CX_MEMPART_LATCRIT : Fld := ⟨.CX, 0x1A0, 0, 1, 4, 1, .RW, 0x0⟩
def R.CX_MEMPART_RATE : Fld := ⟨.CX, 0x1A0, 0, 1, 8, 11, .RW, 0x40⟩
def R.CX_MEMPART_BURST_KIB : Fld := ⟨.CX, 0x1A0, 0, 1, 32, 16, .RW, 0x40⟩
def R.CX_REMOTE_EN : Fld := ⟨.CX, 0x1A8, 0, 1, 0, 1, .RW, 0x0⟩
def R.CX_REMOTE_JOB : Fld := ⟨.CX, 0x1A8, 0, 1, 16, 16, .RW, 0x0⟩
def R.CX_REMOTE_REFUSED : Fld := ⟨.CX, 0x1A8, 0, 1, 32, 16, .RO, 0x0⟩
def R.CX_ACCORD_ENTRIES : Fld := ⟨.CX, 0x1B0, 0, 1, 0, 17, .RW, 0x0⟩
def R.CX_ACCORD_BASE : Fld := ⟨.CX, 0x1B0, 0, 1, 21, 27, .RW, 0x0⟩
def R.CX_CTL_CREATE : Fld := ⟨.CX, 0x0, 0, 1, 0, 1, .WO, 0x0⟩
def R.CX_CTL_DESTROY : Fld := ⟨.CX, 0x0, 0, 1, 1, 1, .WO, 0x0⟩
def R.CX_CTL_RUN : Fld := ⟨.CX, 0x0, 0, 1, 2, 1, .RW, 0x0⟩
def R.CX_CTL_NOPREEMPT : Fld := ⟨.CX, 0x0, 0, 1, 3, 1, .RW, 0x0⟩
def R.CX_CTL_AT_POINT : Fld := ⟨.CX, 0x0, 0, 1, 4, 1, .RW, 0x0⟩
def R.CX_CTL_XLT_INV : Fld := ⟨.CX, 0x0, 0, 1, 5, 1, .WO, 0x0⟩
def R.CX_CTL_PRIO : Fld := ⟨.CX, 0x0, 0, 1, 8, 4, .RW, 0x0⟩
def R.CX_CTL_CLASS : Fld := ⟨.CX, 0x0, 0, 1, 12, 1, .RW, 0x0⟩
def R.CX_CTL_VECTOR : Fld := ⟨.CX, 0x0, 0, 1, 16, 11, .RW, 0x0⟩
def R.CX_STATUS_STATE : Fld := ⟨.CX, 0x8, 0, 1, 0, 3, .RO, 0x0⟩
def R.CX_STATUS_INV_BUSY : Fld := ⟨.CX, 0x8, 0, 1, 3, 1, .RO, 0x0⟩
def R.CX_STATUS_WAIT_DEAD : Fld := ⟨.CX, 0x8, 0, 1, 4, 1, .RO, 0x0⟩
def R.CX_STATUS_EFF_PRIO : Fld := ⟨.CX, 0x8, 0, 1, 8, 4, .RO, 0x0⟩
def R.CX_STATUS_CREATE_ERR : Fld := ⟨.CX, 0x8, 0, 1, 12, 4, .RO, 0x0⟩
def R.CX_STATUS_FAULT_CODE : Fld := ⟨.CX, 0x8, 0, 1, 16, 8, .RO, 0x0⟩
def R.CX_STATUS_FAULT_SP : Fld := ⟨.CX, 0x8, 0, 1, 24, 5, .RO, 0x0⟩
def R.CX_STATUS_SWITCHES : Fld := ⟨.CX, 0x8, 0, 1, 32, 32, .RO, 0x0⟩
def R.CX_PT_ROOT : Fld := ⟨.CX, 0x10, 0, 1, 15, 33, .RW, 0x0⟩
def R.CX_SCRATCH_BASE : Fld := ⟨.CX, 0x18, 0, 1, 0, 7, .RW, 0x0⟩
def R.CX_SCRATCH_PAGES : Fld := ⟨.CX, 0x18, 0, 1, 8, 8, .RW, 0x0⟩
def R.CX_TAKE_BASE : Fld := ⟨.CX, 0x20, 0, 1, 21, 20, .RW, 0x0⟩
def R.CX_TAKE_PAGES : Fld := ⟨.CX, 0x20, 0, 1, 41, 16, .RW, 0x0⟩
def R.CX_FAULT_ADDR : Fld := ⟨.CX, 0x28, 0, 1, 0, 48, .RO, 0x0⟩
def R.CX_FAULT_REASON : Fld := ⟨.CX, 0x28, 0, 1, 48, 8, .RO, 0x0⟩
def R.CX_CKPT_CTL_EN : Fld := ⟨.CX, 0x1C0, 0, 1, 0, 1, .RW, 0x0⟩
def R.CX_CKPT_CTL_GATE_SEM : Fld := ⟨.CX, 0x1C0, 0, 1, 8, 8, .RW, 0x0⟩
def R.CX_CKPT_CTL_LIST_COUNT : Fld := ⟨.CX, 0x1C0, 0, 1, 16, 13, .RW, 0x0⟩
def R.CX_CKPT_CTL_BIND_COUNT : Fld := ⟨.CX, 0x1C0, 0, 1, 32, 11, .RW, 0x0⟩
def R.CX_CKPT_CTL_VCOUNT : Fld := ⟨.CX, 0x1C0, 0, 1, 43, 16, .RW, 0x0⟩
def R.CX_CKPT_LIST_BASE : Fld := ⟨.CX, 0x1C8, 0, 1, 6, 42, .RW, 0x0⟩
def R.CX_CKPT_AREA_BASE : Fld := ⟨.CX, 0x1D0, 0, 1, 21, 20, .RW, 0x0⟩
def R.CX_CKPT_AREA_PAGES : Fld := ⟨.CX, 0x1D0, 0, 1, 41, 16, .RW, 0x0⟩
def R.CX_CKPT_PAR_ACCORD : Fld := ⟨.CX, 0x1D8, 0, 1, 0, 16, .RW, 0x0⟩
def R.CX_CKPT_PAR_IMG_PAGES : Fld := ⟨.CX, 0x1D8, 0, 1, 16, 24, .RW, 0x0⟩
def R.CX_CKPT_PAR_RATE_GBPS : Fld := ⟨.CX, 0x1D8, 0, 1, 40, 12, .RW, 0x0⟩
def R.CX_CKPT_HOLD_BASE : Fld := ⟨.CX, 0x1E0, 0, 1, 21, 27, .RW, 0x0⟩
def R.CX_CKPT_JPEER_DEV_A : Fld := ⟨.CX, 0x1E8, 0, 1, 0, 16, .RW, 0x0⟩
def R.CX_CKPT_JPEER_CX_A : Fld := ⟨.CX, 0x1E8, 0, 1, 16, 4, .RW, 0x0⟩
def R.CX_CKPT_JPEER_DEV_B : Fld := ⟨.CX, 0x1E8, 0, 1, 20, 16, .RW, 0x0⟩
def R.CX_CKPT_JPEER_CX_B : Fld := ⟨.CX, 0x1E8, 0, 1, 36, 4, .RW, 0x0⟩
def R.CX_CKPT_JBASE_BASE : Fld := ⟨.CX, 0x1F0, 0, 1, 21, 27, .RW, 0x0⟩
def R.CX_CKPT_DPOS_ADDR : Fld := ⟨.CX, 0x1F8, 0, 1, 3, 45, .RW, 0x0⟩
def R.CX_CKPT_BIND_BASE : Fld := ⟨.CX, 0x200, 0, 1, 5, 43, .RW, 0x0⟩
def R.CX_CKPT_VLIST_BASE : Fld := ⟨.CX, 0x208, 0, 1, 2, 46, .RW, 0x0⟩
def R.CX_CKPT_OP_OP : Fld := ⟨.CX, 0x210, 0, 1, 0, 4, .WO, 0x0⟩
def R.CX_CKPT_OP_ADDR : Fld := ⟨.CX, 0x210, 0, 1, 6, 42, .WO, 0x0⟩
def R.CX_CKPT_STAT_GEN : Fld := ⟨.CX, 0x218, 0, 1, 0, 32, .RO, 0x0⟩
def R.CX_CKPT_STAT_SEALED : Fld := ⟨.CX, 0x218, 0, 1, 32, 32, .RO, 0x0⟩
def R.CX_CKPT_OPSTAT_BUSY : Fld := ⟨.CX, 0x220, 0, 1, 0, 1, .RO, 0x0⟩
def R.CX_CKPT_OPSTAT_RESULT : Fld := ⟨.CX, 0x220, 0, 1, 1, 3, .RO, 0x0⟩
def R.CX_CKPT_OPSTAT_BIND_FAIL : Fld := ⟨.CX, 0x220, 0, 1, 4, 1, .RO, 0x0⟩
def R.CX_CKPT_OPSTAT_LIST_ERR : Fld := ⟨.CX, 0x220, 0, 1, 5, 1, .RO, 0x0⟩
def R.CX_CKPT_OPSTAT_ERR_ENTRY : Fld := ⟨.CX, 0x220, 0, 1, 6, 12, .RO, 0x0⟩
def R.CX_CKPT_OPSTAT_HELD : Fld := ⟨.CX, 0x220, 0, 1, 24, 24, .RO, 0x0⟩
def R.CX_RUSH_SPILL_BASE : Fld := ⟨.CX, 0x230, 0, 1, 21, 20, .RW, 0x0⟩
def R.CX_RUSH_SPILL_PAGES : Fld := ⟨.CX, 0x230, 0, 1, 41, 14, .RW, 0x0⟩

/-- Every field of the CX block. -/
def cxFields : List Fld :=
  [R.CX_NUMERIC_PIM, R.CX_NUMERIC_PIM_ACTIVE, R.CX_NUMERIC_PIM_REFUSED, R.CX_LEARN_S_INIT, R.CX_LEARN_S,
   R.CX_LEARN_CLEAN_RUN, R.CX_LEARN_RISE_AFTER, R.CX_LEARN_SKIPS, R.CX_VERDICT_MARK_CUR,
   R.CX_VERDICT_MARK_NEXT, R.CX_VERDICT_LAST_SKIP, R.CX_VERDICT_LAST_STEP, R.CX_HEALTH_EN, R.CX_HEALTH_BASE,
   R.CX_HEALTH_DROPPED, R.CX_ARRAYS_MASK, R.CX_ARRAYS_PLACE_FIXED, R.CX_ARRAYS_HANDLES_BOUND, R.CX_SEED,
   R.CX_SYNC_GRANT, R.CX_SYNC_VERSION_BASE, R.CX_SEM_VALUE, R.CX_STASH_CTL_EN, R.CX_STASH_CTL_MB_SLOTS,
   R.CX_STASH_CTL_LOW_WATER, R.CX_STASH_CTL_RECALL_PAGES, R.CX_STASH_CTL_ADMIT_SEM, R.CX_STASH_CTL_ADMIT_EN,
   R.CX_STASH_TABLE_ENTRIES, R.CX_STASH_TABLE_BASE, R.CX_STASH_WIN_BASE, R.CX_STASH_NEAR_PAGES,
   R.CX_STASH_NEAR_BASE, R.CX_STASH_POOL_PAGES, R.CX_STASH_POOL_BASE, R.CX_STASH_STAT_NEAR_USED,
   R.CX_STASH_STAT_POOL_USED, R.CX_STASH_STAT_HOLD, R.CX_STASH_STAT_TABLE_ERR, R.CX_STASH_STAT_ERR_ENTRY,
   R.CX_STASH_COUNT_OFFLOADS, R.CX_STASH_COUNT_RECALLS, R.CX_SHADOW_NEAR_PAGES, R.CX_SHADOW_NEAR_BASE,
   R.CX_SHADOW_SLOW_PAGES, R.CX_SHADOW_SLOW_BASE, R.CX_PRINTS_HOLD_SEM, R.CX_SHADOW_STAT_NEAR_USED,
   R.CX_SHADOW_STAT_SLOW_USED, R.CX_SHADOW_STAT_PENDING, R.CX_MEMPART_PART, R.CX_MEMPART_LATCRIT,
   R.CX_MEMPART_RATE, R.CX_MEMPART_BURST_KIB, R.CX_REMOTE_EN, R.CX_REMOTE_JOB, R.CX_REMOTE_REFUSED,
   R.CX_ACCORD_ENTRIES, R.CX_ACCORD_BASE, R.CX_CTL_CREATE, R.CX_CTL_DESTROY, R.CX_CTL_RUN,
   R.CX_CTL_NOPREEMPT, R.CX_CTL_AT_POINT, R.CX_CTL_XLT_INV, R.CX_CTL_PRIO, R.CX_CTL_CLASS, R.CX_CTL_VECTOR,
   R.CX_STATUS_STATE, R.CX_STATUS_INV_BUSY, R.CX_STATUS_WAIT_DEAD, R.CX_STATUS_EFF_PRIO,
   R.CX_STATUS_CREATE_ERR, R.CX_STATUS_FAULT_CODE, R.CX_STATUS_FAULT_SP, R.CX_STATUS_SWITCHES, R.CX_PT_ROOT,
   R.CX_SCRATCH_BASE, R.CX_SCRATCH_PAGES, R.CX_TAKE_BASE, R.CX_TAKE_PAGES, R.CX_FAULT_ADDR,
   R.CX_FAULT_REASON, R.CX_CKPT_CTL_EN, R.CX_CKPT_CTL_GATE_SEM, R.CX_CKPT_CTL_LIST_COUNT,
   R.CX_CKPT_CTL_BIND_COUNT, R.CX_CKPT_CTL_VCOUNT, R.CX_CKPT_LIST_BASE, R.CX_CKPT_AREA_BASE,
   R.CX_CKPT_AREA_PAGES, R.CX_CKPT_PAR_ACCORD, R.CX_CKPT_PAR_IMG_PAGES, R.CX_CKPT_PAR_RATE_GBPS,
   R.CX_CKPT_HOLD_BASE, R.CX_CKPT_JPEER_DEV_A, R.CX_CKPT_JPEER_CX_A, R.CX_CKPT_JPEER_DEV_B,
   R.CX_CKPT_JPEER_CX_B, R.CX_CKPT_JBASE_BASE, R.CX_CKPT_DPOS_ADDR, R.CX_CKPT_BIND_BASE,
   R.CX_CKPT_VLIST_BASE, R.CX_CKPT_OP_OP, R.CX_CKPT_OP_ADDR, R.CX_CKPT_STAT_GEN, R.CX_CKPT_STAT_SEALED,
   R.CX_CKPT_OPSTAT_BUSY, R.CX_CKPT_OPSTAT_RESULT, R.CX_CKPT_OPSTAT_BIND_FAIL, R.CX_CKPT_OPSTAT_LIST_ERR,
   R.CX_CKPT_OPSTAT_ERR_ENTRY, R.CX_CKPT_OPSTAT_HELD, R.CX_RUSH_SPILL_BASE, R.CX_RUSH_SPILL_PAGES]

/-! ### MA -/

def R.MA_WLOAD_CFG_PREFETCH_EN : Fld := ⟨.MA, 0x0, 0, 1, 0, 1, .RW, 0x1⟩
def R.MA_WLOAD_CFG_REUSE_EN : Fld := ⟨.MA, 0x0, 0, 1, 1, 1, .RW, 0x1⟩
def R.MA_WLOAD_CFG_PREFETCH_KIB : Fld := ⟨.MA, 0x0, 0, 1, 8, 7, .RW, 0x40⟩
def R.MA_WLOAD_CFG_SLOT : Fld := ⟨.MA, 0x0, 0, 1, 16, 1, .RO, 0x0⟩
def R.MA_WLOAD_CFG_LOADING : Fld := ⟨.MA, 0x0, 0, 1, 17, 1, .RO, 0x0⟩
def R.MA_STATE_SLOT0 : Fld := ⟨.MA, 0x8, 0, 1, 0, 2, .RO, 0x0⟩
def R.MA_STATE_SLOT1 : Fld := ⟨.MA, 0x8, 0, 1, 2, 2, .RO, 0x0⟩
def R.MA_STATE_SLOT0_CX : Fld := ⟨.MA, 0x8, 0, 1, 4, 4, .RO, 0x0⟩
def R.MA_STATE_SLOT1_CX : Fld := ⟨.MA, 0x8, 0, 1, 8, 4, .RO, 0x0⟩
def R.MA_STATE_RING_USED : Fld := ⟨.MA, 0x8, 0, 1, 12, 10, .RO, 0x0⟩
def R.MA_STATE_RING_FINAL : Fld := ⟨.MA, 0x8, 0, 1, 22, 10, .RO, 0x0⟩
def R.MA_STATE_AXIS : Fld := ⟨.MA, 0x8, 0, 1, 32, 1, .RO, 0x0⟩
def R.MA_STATE_GANG : Fld := ⟨.MA, 0x8, 0, 1, 33, 2, .RO, 0x0⟩

/-- Every field of the MA block. -/
def maFields : List Fld :=
  [R.MA_WLOAD_CFG_PREFETCH_EN, R.MA_WLOAD_CFG_REUSE_EN, R.MA_WLOAD_CFG_PREFETCH_KIB, R.MA_WLOAD_CFG_SLOT,
   R.MA_WLOAD_CFG_LOADING, R.MA_STATE_SLOT0, R.MA_STATE_SLOT1, R.MA_STATE_SLOT0_CX, R.MA_STATE_SLOT1_CX,
   R.MA_STATE_RING_USED, R.MA_STATE_RING_FINAL, R.MA_STATE_AXIS, R.MA_STATE_GANG]

/-! ### SP -/

def R.SP_RING_BASE_BASE : Fld := ⟨.SP, 0x0, 0, 1, 12, 36, .RW, 0x0⟩
def R.SP_RING_CTL_EN : Fld := ⟨.SP, 0x8, 0, 1, 0, 1, .RW, 0x0⟩
def R.SP_RING_CTL_CX : Fld := ⟨.SP, 0x8, 0, 1, 1, 4, .RW, 0x0⟩
def R.SP_RING_CTL_LOG2_SIZE : Fld := ⟨.SP, 0x8, 0, 1, 5, 5, .RW, 0x6⟩
def R.SP_RING_CTL_VECTOR : Fld := ⟨.SP, 0x8, 0, 1, 10, 11, .RW, 0x0⟩
def R.SP_PTRS_HEAD : Fld := ⟨.SP, 0x10, 0, 1, 0, 32, .RO, 0x0⟩
def R.SP_PTRS_TAIL : Fld := ⟨.SP, 0x10, 0, 1, 32, 32, .RO, 0x0⟩
def R.SP_STATUS_IDLE : Fld := ⟨.SP, 0x18, 0, 1, 0, 1, .RO, 0x1⟩
def R.SP_STATUS_WAITING : Fld := ⟨.SP, 0x18, 0, 1, 1, 1, .RO, 0x0⟩
def R.SP_STATUS_FAULTED : Fld := ⟨.SP, 0x18, 0, 1, 2, 1, .RO, 0x0⟩
def R.SP_STATUS_BAD_DOORBELL : Fld := ⟨.SP, 0x18, 0, 1, 3, 1, .W1C, 0x0⟩
def R.SP_STATUS_FAULT_CODE : Fld := ⟨.SP, 0x18, 0, 1, 8, 8, .RO, 0x0⟩
def R.SP_STATUS_FAULT_INDEX : Fld := ⟨.SP, 0x18, 0, 1, 16, 32, .RO, 0x0⟩

/-- Every field of the SP block. -/
def spFields : List Fld :=
  [R.SP_RING_BASE_BASE, R.SP_RING_CTL_EN, R.SP_RING_CTL_CX, R.SP_RING_CTL_LOG2_SIZE, R.SP_RING_CTL_VECTOR,
   R.SP_PTRS_HEAD, R.SP_PTRS_TAIL, R.SP_STATUS_IDLE, R.SP_STATUS_WAITING, R.SP_STATUS_FAULTED,
   R.SP_STATUS_BAD_DOORBELL, R.SP_STATUS_FAULT_CODE, R.SP_STATUS_FAULT_INDEX]

/-! ### XLT -/

def R.XLT_PRT_BASE : Fld := ⟨.XLT, 0x0, 0, 1, 21, 20, .RW, 0x0⟩
def R.XLT_PRT_ENTRIES : Fld := ⟨.XLT, 0x0, 0, 1, 41, 22, .RW, 0x0⟩
def R.XLT_PRT_EN : Fld := ⟨.XLT, 0x0, 0, 1, 63, 1, .RW, 0x0⟩

/-- Every field of the XLT block. -/
def xltFields : List Fld :=
  [R.XLT_PRT_BASE, R.XLT_PRT_ENTRIES, R.XLT_PRT_EN]

/-! ### UD -/

def R.UD_FUU_STAT_BUSY : Fld := ⟨.UD, 0x0, 0, 1, 0, 1, .RO, 0x0⟩
def R.UD_FUU_STAT_CX : Fld := ⟨.UD, 0x0, 0, 1, 2, 4, .RO, 0x0⟩
def R.UD_FUU_STAT_PASS : Fld := ⟨.UD, 0x0, 0, 1, 6, 2, .RO, 0x0⟩
def R.UD_FUU_STAT_TID : Fld := ⟨.UD, 0x0, 0, 1, 8, 24, .RO, 0x0⟩
def R.UD_FUU_STAT_DONE : Fld := ⟨.UD, 0x0, 0, 1, 32, 32, .RO, 0x0⟩
def R.UD_SLC_UE_CHANNEL : Fld := ⟨.UD, 0x40, 0, 1, 0, 7, .RO, 0x0⟩
def R.UD_SLC_UE_ADDR : Fld := ⟨.UD, 0x40, 0, 1, 8, 36, .RO, 0x0⟩
def R.UD_SLC_UE_CX : Fld := ⟨.UD, 0x40, 0, 1, 44, 4, .RO, 0x0⟩
def R.UD_SLC_UE_VALID : Fld := ⟨.UD, 0x40, 0, 1, 48, 1, .W1C, 0x0⟩
def R.UD_PAR_STAT_XORING : Fld := ⟨.UD, 0x80, 0, 1, 0, 1, .RO, 0x0⟩
def R.UD_PAR_STAT_ZEROING : Fld := ⟨.UD, 0x80, 0, 1, 1, 1, .RO, 0x0⟩
def R.UD_PAR_STAT_CX : Fld := ⟨.UD, 0x80, 0, 1, 2, 4, .RO, 0x0⟩
def R.UD_PAR_STAT_PAGES : Fld := ⟨.UD, 0x80, 0, 1, 32, 32, .RO, 0x0⟩

/-- Every field of the UD block. -/
def udFields : List Fld :=
  [R.UD_FUU_STAT_BUSY, R.UD_FUU_STAT_CX, R.UD_FUU_STAT_PASS, R.UD_FUU_STAT_TID, R.UD_FUU_STAT_DONE,
   R.UD_SLC_UE_CHANNEL, R.UD_SLC_UE_ADDR, R.UD_SLC_UE_CX, R.UD_SLC_UE_VALID, R.UD_PAR_STAT_XORING,
   R.UD_PAR_STAT_ZEROING, R.UD_PAR_STAT_CX, R.UD_PAR_STAT_PAGES]

/-! ### NT -/

def R.NT_CFG_SHARE : Fld := ⟨.NT, 0x0, 0, 1, 0, 1, .RO, 0x0⟩
def R.NT_CFG_PARTS : Fld := ⟨.NT, 0x0, 0, 1, 4, 5, .RO, 0x1⟩
def R.NT_RETRAIN_PERIOD_MS : Fld := ⟨.NT, 0x10, 0, 1, 0, 10, .RW, 0x40⟩
def R.NT_RETRAIN_HOLDING : Fld := ⟨.NT, 0x10, 0, 1, 10, 1, .RO, 0x0⟩
def R.NT_RETRAIN_HELD : Fld := ⟨.NT, 0x10, 0, 1, 11, 8, .RO, 0x0⟩
def R.NT_REPAIR_CFG_THRESH : Fld := ⟨.NT, 0x18, 0, 1, 0, 16, .RW, 0x3E8⟩
def R.NT_REPAIR_CFG_COPY_GBPS : Fld := ⟨.NT, 0x18, 0, 1, 16, 8, .RW, 0x38⟩
def R.NT_REPAIR_CFG_AUTO : Fld := ⟨.NT, 0x18, 0, 1, 24, 1, .RW, 0x1⟩
def R.NT_REPAIR_STAT_MIGRATING : Fld := ⟨.NT, 0x20, 0, 1, 0, 1, .RO, 0x0⟩
def R.NT_REPAIR_STAT_SRC : Fld := ⟨.NT, 0x20, 0, 1, 1, 8, .RO, 0x0⟩
def R.NT_REPAIR_STAT_PROGRESS : Fld := ⟨.NT, 0x20, 0, 1, 9, 8, .RO, 0x0⟩
def R.NT_REPAIR_STAT_SPARES_USED : Fld := ⟨.NT, 0x20, 0, 1, 17, 4, .RO, 0x0⟩
def R.NT_REPAIR_STAT_TO_REMOVE : Fld := ⟨.NT, 0x20, 0, 1, 21, 8, .RO, 0x0⟩
def R.NT_REPAIR_STAT_OFFLINE : Fld := ⟨.NT, 0x20, 0, 1, 29, 8, .RO, 0x0⟩
def R.NT_UE_CHANNEL : Fld := ⟨.NT, 0x28, 0, 1, 0, 8, .RO, 0x0⟩
def R.NT_UE_ADDR : Fld := ⟨.NT, 0x28, 0, 1, 8, 33, .RO, 0x0⟩
def R.NT_UE_CX : Fld := ⟨.NT, 0x28, 0, 1, 41, 4, .RO, 0x0⟩
def R.NT_UE_HOST : Fld := ⟨.NT, 0x28, 0, 1, 45, 1, .RO, 0x0⟩
def R.NT_UE_VALID : Fld := ⟨.NT, 0x28, 0, 1, 46, 1, .W1C, 0x0⟩
def R.NT_SCRUB_HOURS : Fld := ⟨.NT, 0x30, 0, 1, 0, 8, .RW, 0x18⟩
def R.NT_PART_SETS : Fld := ⟨.NT, 0x100, 8, 16, 0, 16, .RO, 0x0⟩
def R.NT_PART_WAYS : Fld := ⟨.NT, 0x100, 8, 16, 16, 16, .RO, 0x0⟩
def R.NT_PART_BASE_GIB : Fld := ⟨.NT, 0x100, 8, 16, 32, 11, .RO, 0x0⟩
def R.NT_PART_SIZE_GIB : Fld := ⟨.NT, 0x100, 8, 16, 43, 11, .RO, 0x0⟩
def R.NT_CHMAP_ROLE : Fld := ⟨.NT, 0x200, 8, 12, 0, 34, .RO, 0x100000000⟩

/-- Every field of the NT block. -/
def ntFields : List Fld :=
  [R.NT_CFG_SHARE, R.NT_CFG_PARTS, R.NT_RETRAIN_PERIOD_MS, R.NT_RETRAIN_HOLDING, R.NT_RETRAIN_HELD,
   R.NT_REPAIR_CFG_THRESH, R.NT_REPAIR_CFG_COPY_GBPS, R.NT_REPAIR_CFG_AUTO, R.NT_REPAIR_STAT_MIGRATING,
   R.NT_REPAIR_STAT_SRC, R.NT_REPAIR_STAT_PROGRESS, R.NT_REPAIR_STAT_SPARES_USED, R.NT_REPAIR_STAT_TO_REMOVE,
   R.NT_REPAIR_STAT_OFFLINE, R.NT_UE_CHANNEL, R.NT_UE_ADDR, R.NT_UE_CX, R.NT_UE_HOST, R.NT_UE_VALID,
   R.NT_SCRUB_HOURS, R.NT_PART_SETS, R.NT_PART_WAYS, R.NT_PART_BASE_GIB, R.NT_PART_SIZE_GIB, R.NT_CHMAP_ROLE]

/-! ### NCACHE -/

def R.NCACHE_CFG_HEART_WAYS : Fld := ⟨.NCACHE, 0x0, 0, 1, 0, 5, .RW, 0xC⟩

/-- Every field of the NCACHE block. -/
def ncacheFields : List Fld :=
  [R.NCACHE_CFG_HEART_WAYS]

/-! ### LK -/

def R.LK_STATUS_STATE : Fld := ⟨.LK, 0x0, 0, 1, 0, 3, .RO, 0x0⟩
def R.LK_STATUS_CREDIT_ERR : Fld := ⟨.LK, 0x0, 0, 1, 3, 1, .RO, 0x0⟩
def R.LK_STATUS_SEAT_ERR : Fld := ⟨.LK, 0x0, 0, 1, 4, 1, .RO, 0x0⟩
def R.LK_STATUS_LANES_OK : Fld := ⟨.LK, 0x0, 0, 1, 8, 8, .RO, 0x0⟩
def R.LK_STATUS_PLANE : Fld := ⟨.LK, 0x0, 0, 1, 16, 5, .RO, 0x0⟩
def R.LK_STATUS_PEER_PORT : Fld := ⟨.LK, 0x0, 0, 1, 32, 16, .RO, 0x0⟩
def R.LK_CTL_EN : Fld := ⟨.LK, 0x8, 0, 1, 0, 1, .RW, 0x1⟩
def R.LK_CTL_RETRY : Fld := ⟨.LK, 0x8, 0, 1, 1, 1, .WO, 0x0⟩
def R.LK_CREDIT_VC0 : Fld := ⟨.LK, 0x10, 0, 1, 0, 13, .RW, 0x500⟩
def R.LK_CREDIT_VC1 : Fld := ⟨.LK, 0x10, 0, 1, 13, 13, .RW, 0x500⟩
def R.LK_CREDIT_VC2 : Fld := ⟨.LK, 0x10, 0, 1, 26, 13, .RW, 0x500⟩
def R.LK_CREDIT_VC3 : Fld := ⟨.LK, 0x10, 0, 1, 39, 13, .RW, 0x100⟩
def R.LK_ERRORS_CORRECTED : Fld := ⟨.LK, 0x18, 0, 1, 0, 24, .RC, 0x0⟩
def R.LK_ERRORS_UNCORR : Fld := ⟨.LK, 0x18, 0, 1, 24, 16, .RC, 0x0⟩
def R.LK_ERRORS_REPLAYS : Fld := ⟨.LK, 0x18, 0, 1, 40, 16, .RC, 0x0⟩
def R.LK_ERRORS_DROPPED : Fld := ⟨.LK, 0x18, 0, 1, 56, 8, .RC, 0x0⟩

/-- Every field of the LK block. -/
def lkFields : List Fld :=
  [R.LK_STATUS_STATE, R.LK_STATUS_CREDIT_ERR, R.LK_STATUS_SEAT_ERR, R.LK_STATUS_LANES_OK, R.LK_STATUS_PLANE,
   R.LK_STATUS_PEER_PORT, R.LK_CTL_EN, R.LK_CTL_RETRY, R.LK_CREDIT_VC0, R.LK_CREDIT_VC1, R.LK_CREDIT_VC2,
   R.LK_CREDIT_VC3, R.LK_ERRORS_CORRECTED, R.LK_ERRORS_UNCORR, R.LK_ERRORS_REPLAYS, R.LK_ERRORS_DROPPED]

/-! ### CE -/

def R.CE_CFG_E2E_US : Fld := ⟨.CE, 0x0, 0, 1, 0, 16, .RW, 0x3E8⟩
def R.CE_CFG_COLL_MS : Fld := ⟨.CE, 0x0, 0, 1, 16, 16, .RW, 0x64⟩
def R.CE_CFG_READY_S : Fld := ⟨.CE, 0x0, 0, 1, 32, 16, .RW, 0x258⟩
def R.CE_STAT_STALE : Fld := ⟨.CE, 0x8, 0, 1, 0, 32, .RO, 0x0⟩
def R.CE_STAT_ABORTS : Fld := ⟨.CE, 0x8, 0, 1, 32, 16, .RO, 0x0⟩

/-- Every field of the CE block. -/
def ceFields : List Fld :=
  [R.CE_CFG_E2E_US, R.CE_CFG_COLL_MS, R.CE_CFG_READY_S, R.CE_STAT_STALE, R.CE_STAT_ABORTS]

/-! ### CAST -/

def R.CAST_STAT_VALID : Fld := ⟨.CAST, 0x0, 0, 1, 0, 14, .RO, 0x0⟩
def R.CAST_STAT_BUILDS : Fld := ⟨.CAST, 0x0, 0, 1, 16, 32, .RO, 0x0⟩
def R.CAST_POOL_BASE : Fld := ⟨.CAST, 0x100, 16, 16, 12, 36, .RW, 0x0⟩
def R.CAST_POOLCFG_PAGES : Fld := ⟨.CAST, 0x108, 16, 16, 0, 24, .RW, 0x0⟩
def R.CAST_POOLCFG_PAGE_KIB : Fld := ⟨.CAST, 0x108, 16, 16, 24, 16, .RW, 0x0⟩
def R.CAST_POOLCFG_HOLD_CX : Fld := ⟨.CAST, 0x108, 16, 16, 40, 4, .RW, 0x0⟩
def R.CAST_POOLCFG_HOLD_EN : Fld := ⟨.CAST, 0x108, 16, 16, 44, 1, .RW, 0x0⟩
def R.CAST_USE_RESERVED : Fld := ⟨.CAST, 0x200, 8, 16, 0, 24, .RO, 0x0⟩
def R.CAST_USE_ALLOCATED : Fld := ⟨.CAST, 0x200, 8, 16, 24, 24, .RO, 0x0⟩
def R.CAST_USE_ENTRIES : Fld := ⟨.CAST, 0x200, 8, 16, 48, 14, .RO, 0x0⟩

/-- Every field of the CAST block. -/
def castFields : List Fld :=
  [R.CAST_STAT_VALID, R.CAST_STAT_BUILDS, R.CAST_POOL_BASE, R.CAST_POOLCFG_PAGES, R.CAST_POOLCFG_PAGE_KIB,
   R.CAST_POOLCFG_HOLD_CX, R.CAST_POOLCFG_HOLD_EN, R.CAST_USE_RESERVED, R.CAST_USE_ALLOCATED,
   R.CAST_USE_ENTRIES]

/-! ### PMC -/

def R.PMC_CTL_SNAP : Fld := ⟨.PMC, 0x0, 0, 1, 0, 1, .WO, 0x0⟩
def R.PMC_CTL_READ_SNAP : Fld := ⟨.PMC, 0x0, 0, 1, 1, 1, .RW, 0x0⟩
def R.PMC_CTL_VECTOR : Fld := ⟨.PMC, 0x0, 0, 1, 2, 11, .RW, 0x0⟩
def R.PMC_SEL_SOURCE : Fld := ⟨.PMC, 0x1000, 8, 128, 0, 12, .RW, 0x0⟩
def R.PMC_SEL_UNIT : Fld := ⟨.PMC, 0x1000, 8, 128, 12, 8, .RW, 0xFF⟩
def R.PMC_SEL_CX : Fld := ⟨.PMC, 0x1000, 8, 128, 20, 5, .RW, 0x10⟩
def R.PMC_SEL_EN : Fld := ⟨.PMC, 0x1000, 8, 128, 25, 1, .RW, 0x0⟩
def R.PMC_SEL_EVT_EN : Fld := ⟨.PMC, 0x1000, 8, 128, 26, 1, .RW, 0x0⟩
def R.PMC_CNT_VALUE : Fld := ⟨.PMC, 0x2000, 8, 128, 0, 56, .RW, 0x0⟩
def R.PMC_CNT_OVF : Fld := ⟨.PMC, 0x2000, 8, 128, 56, 1, .W1C, 0x0⟩

/-- Every field of the PMC block. -/
def pmcFields : List Fld :=
  [R.PMC_CTL_SNAP, R.PMC_CTL_READ_SNAP, R.PMC_CTL_VECTOR, R.PMC_SEL_SOURCE, R.PMC_SEL_UNIT, R.PMC_SEL_CX,
   R.PMC_SEL_EN, R.PMC_SEL_EVT_EN, R.PMC_CNT_VALUE, R.PMC_CNT_OVF]

/-! ### TSU -/

def R.TSU_NOW : Fld := ⟨.TSU, 0x0, 0, 1, 0, 64, .RO, 0x0⟩
def R.TSU_CLAP_RUN : Fld := ⟨.TSU, 0x8, 0, 1, 0, 1, .WO, 0x0⟩
def R.TSU_CLAP_DONE : Fld := ⟨.TSU, 0x8, 0, 1, 1, 1, .RO, 0x0⟩
def R.TSU_CLAP_BUSY : Fld := ⟨.TSU, 0x8, 0, 1, 2, 1, .RO, 0x0⟩
def R.TSU_CLAP_FAIL : Fld := ⟨.TSU, 0x8, 0, 1, 3, 1, .RO, 0x0⟩
def R.TSU_CLAP_MASTER : Fld := ⟨.TSU, 0x8, 0, 1, 4, 16, .RW, 0xFFFF⟩
def R.TSU_CLAP_RTT_NS : Fld := ⟨.TSU, 0x8, 0, 1, 20, 16, .RO, 0x0⟩
def R.TSU_OFFSET : Fld := ⟨.TSU, 0x10, 0, 1, 0, 64, .RO, 0x0⟩

/-- Every field of the TSU block. -/
def tsuFields : List Fld :=
  [R.TSU_NOW, R.TSU_CLAP_RUN, R.TSU_CLAP_DONE, R.TSU_CLAP_BUSY, R.TSU_CLAP_FAIL, R.TSU_CLAP_MASTER,
   R.TSU_CLAP_RTT_NS, R.TSU_OFFSET]

/-! ### DBG -/

def R.DBG_RUSH_CTL_EN : Fld := ⟨.DBG, 0x0, 0, 1, 0, 1, .RW, 0x0⟩
def R.DBG_RUSH_CTL_MODE : Fld := ⟨.DBG, 0x0, 0, 1, 1, 2, .RW, 0x0⟩
def R.DBG_RUSH_CTL_SPILL : Fld := ⟨.DBG, 0x0, 0, 1, 3, 1, .RW, 0x0⟩
def R.DBG_RUSH_CTL_SPILL_CX : Fld := ⟨.DBG, 0x0, 0, 1, 4, 4, .RW, 0x0⟩
def R.DBG_RUSH_CTL_PRE : Fld := ⟨.DBG, 0x0, 0, 1, 8, 8, .RW, 0x80⟩
def R.DBG_RUSH_CTL_CLASSES : Fld := ⟨.DBG, 0x0, 0, 1, 16, 10, .RW, 0x3FF⟩
def R.DBG_RUSH_CTL_REARM : Fld := ⟨.DBG, 0x0, 0, 1, 26, 1, .WO, 0x0⟩
def R.DBG_RUSH_CTL_CX_MASK : Fld := ⟨.DBG, 0x0, 0, 1, 32, 16, .RW, 0xFFFF⟩
def R.DBG_RUSH_TRIG_SOURCES : Fld := ⟨.DBG, 0x8, 0, 1, 0, 6, .RW, 0x0⟩
def R.DBG_RUSH_TRIG_NOW : Fld := ⟨.DBG, 0x8, 0, 1, 6, 1, .WO, 0x0⟩
def R.DBG_RUSH_TRIG_CUT_ON_TRIG : Fld := ⟨.DBG, 0x8, 0, 1, 7, 1, .RW, 0x0⟩
def R.DBG_RUSH_TRIG_TAG : Fld := ⟨.DBG, 0x8, 0, 1, 8, 16, .RW, 0x0⟩
def R.DBG_RUSH_TRIG_TAG_MASK : Fld := ⟨.DBG, 0x8, 0, 1, 24, 16, .RW, 0x0⟩
def R.DBG_RUSH_STAT_STATE : Fld := ⟨.DBG, 0x10, 0, 1, 0, 2, .RO, 0x0⟩
def R.DBG_RUSH_STAT_TRIGGERED : Fld := ⟨.DBG, 0x10, 0, 1, 2, 1, .RO, 0x0⟩
def R.DBG_RUSH_STAT_SPILL_LOST : Fld := ⟨.DBG, 0x10, 0, 1, 3, 1, .RO, 0x0⟩
def R.DBG_RUSH_STAT_LOST : Fld := ⟨.DBG, 0x10, 0, 1, 4, 32, .RO, 0x0⟩
def R.DBG_RUSH_POS_SEQ_NEXT : Fld := ⟨.DBG, 0x18, 0, 1, 0, 32, .RO, 0x0⟩
def R.DBG_RUSH_POS_TRIG_SEQ : Fld := ⟨.DBG, 0x18, 0, 1, 32, 32, .RO, 0x0⟩
def R.DBG_CUT_CTL_NOW : Fld := ⟨.DBG, 0x100, 0, 1, 0, 1, .WO, 0x0⟩
def R.DBG_CUT_CTL_ACCEPT : Fld := ⟨.DBG, 0x100, 0, 1, 1, 1, .RW, 0x0⟩
def R.DBG_CUT_CTL_LEAD_NS : Fld := ⟨.DBG, 0x100, 0, 1, 2, 16, .RW, 0x1388⟩
def R.DBG_CUT_CTL_SET_COUNT : Fld := ⟨.DBG, 0x100, 0, 1, 18, 12, .RW, 0x0⟩
def R.DBG_CUT_CTL_VECTOR : Fld := ⟨.DBG, 0x100, 0, 1, 30, 11, .RW, 0x0⟩
def R.DBG_CUT_SET_BASE : Fld := ⟨.DBG, 0x108, 0, 1, 6, 42, .RW, 0x0⟩
def R.DBG_CUT_AT_AT : Fld := ⟨.DBG, 0x110, 0, 1, 0, 64, .RW, 0x0⟩
def R.DBG_CUT_STAT_ARMED : Fld := ⟨.DBG, 0x118, 0, 1, 0, 1, .RO, 0x0⟩
def R.DBG_CUT_STAT_CUT : Fld := ⟨.DBG, 0x118, 0, 1, 1, 1, .RO, 0x0⟩
def R.DBG_CUT_STAT_LATE : Fld := ⟨.DBG, 0x118, 0, 1, 2, 1, .RO, 0x0⟩
def R.DBG_CUT_STAT_BY_FRAME : Fld := ⟨.DBG, 0x118, 0, 1, 3, 1, .RO, 0x0⟩
def R.DBG_CUT_STAT_ORIGIN : Fld := ⟨.DBG, 0x118, 0, 1, 4, 16, .RO, 0x0⟩
def R.DBG_CUT_STAT_CUT_ID : Fld := ⟨.DBG, 0x118, 0, 1, 20, 32, .RO, 0x0⟩
def R.DBG_CUT_T_T : Fld := ⟨.DBG, 0x120, 0, 1, 0, 64, .RO, 0x0⟩
def R.DBG_IMAGE_SEL_SECTION : Fld := ⟨.DBG, 0x200, 0, 1, 0, 4, .RW, 0x3⟩
def R.DBG_IMAGE_SEL_MIB : Fld := ⟨.DBG, 0x200, 0, 1, 20, 40, .RW, 0x0⟩

/-- Every field of the DBG block. -/
def dbgFields : List Fld :=
  [R.DBG_RUSH_CTL_EN, R.DBG_RUSH_CTL_MODE, R.DBG_RUSH_CTL_SPILL, R.DBG_RUSH_CTL_SPILL_CX, R.DBG_RUSH_CTL_PRE,
   R.DBG_RUSH_CTL_CLASSES, R.DBG_RUSH_CTL_REARM, R.DBG_RUSH_CTL_CX_MASK, R.DBG_RUSH_TRIG_SOURCES,
   R.DBG_RUSH_TRIG_NOW, R.DBG_RUSH_TRIG_CUT_ON_TRIG, R.DBG_RUSH_TRIG_TAG, R.DBG_RUSH_TRIG_TAG_MASK,
   R.DBG_RUSH_STAT_STATE, R.DBG_RUSH_STAT_TRIGGERED, R.DBG_RUSH_STAT_SPILL_LOST, R.DBG_RUSH_STAT_LOST,
   R.DBG_RUSH_POS_SEQ_NEXT, R.DBG_RUSH_POS_TRIG_SEQ, R.DBG_CUT_CTL_NOW, R.DBG_CUT_CTL_ACCEPT,
   R.DBG_CUT_CTL_LEAD_NS, R.DBG_CUT_CTL_SET_COUNT, R.DBG_CUT_CTL_VECTOR, R.DBG_CUT_SET_BASE, R.DBG_CUT_AT_AT,
   R.DBG_CUT_STAT_ARMED, R.DBG_CUT_STAT_CUT, R.DBG_CUT_STAT_LATE, R.DBG_CUT_STAT_BY_FRAME,
   R.DBG_CUT_STAT_ORIGIN, R.DBG_CUT_STAT_CUT_ID, R.DBG_CUT_T_T, R.DBG_IMAGE_SEL_SECTION, R.DBG_IMAGE_SEL_MIB]

/-! ### REC -/

def R.REC_CTL_FREEZE : Fld := ⟨.REC, 0x0, 0, 1, 0, 1, .RW, 0x0⟩
def R.REC_STAT_MODE : Fld := ⟨.REC, 0x8, 0, 1, 0, 1, .RO, 0x0⟩
def R.REC_STAT_MODE_PENDING : Fld := ⟨.REC, 0x8, 0, 1, 1, 1, .RO, 0x0⟩
def R.REC_STAT_KEEP : Fld := ⟨.REC, 0x8, 0, 1, 2, 14, .RO, 0x1⟩
def R.REC_STAT_FROZEN : Fld := ⟨.REC, 0x8, 0, 1, 16, 1, .RO, 0x0⟩
def R.REC_STAT_FREEZE_EXPIRED : Fld := ⟨.REC, 0x8, 0, 1, 17, 1, .W1C, 0x0⟩
def R.REC_STAT_CLEAR_RESULT : Fld := ⟨.REC, 0x8, 0, 1, 18, 2, .RO, 0x0⟩
def R.REC_STAT_QUEUED : Fld := ⟨.REC, 0x8, 0, 1, 20, 9, .RO, 0x0⟩
def R.REC_STAT_SEQ_NEXT : Fld := ⟨.REC, 0x8, 0, 1, 32, 32, .RO, 0x0⟩
def R.REC_NONCE : Fld := ⟨.REC, 0x10, 0, 1, 0, 64, .RO, 0x0⟩
def R.REC_CLEAR_ADDR : Fld := ⟨.REC, 0x18, 0, 1, 6, 42, .WO, 0x0⟩

/-- Every field of the REC block. -/
def recFields : List Fld :=
  [R.REC_CTL_FREEZE, R.REC_STAT_MODE, R.REC_STAT_MODE_PENDING, R.REC_STAT_KEEP, R.REC_STAT_FROZEN,
   R.REC_STAT_FREEZE_EXPIRED, R.REC_STAT_CLEAR_RESULT, R.REC_STAT_QUEUED, R.REC_STAT_SEQ_NEXT, R.REC_NONCE,
   R.REC_CLEAR_ADDR]

/-! ### PWR -/

def R.PWR_CAP_HOST_LIMIT_W : Fld := ⟨.PWR, 0x0, 0, 1, 0, 16, .RW, 0xCE4⟩
def R.PWR_CAP_BOARD_LIMIT_W : Fld := ⟨.PWR, 0x8, 0, 1, 0, 16, .RO, 0xCE4⟩
def R.PWR_CFG_OPMAX : Fld := ⟨.PWR, 0x10, 0, 1, 0, 2, .RW, 0x0⟩
def R.PWR_CFG_CUE_EN : Fld := ⟨.PWR, 0x10, 0, 1, 2, 1, .RW, 0x1⟩

/-- Every field of the PWR block. -/
def pwrFields : List Fld :=
  [R.PWR_CAP_HOST_LIMIT_W, R.PWR_CAP_BOARD_LIMIT_W, R.PWR_CFG_OPMAX, R.PWR_CFG_CUE_EN]

/-! ### SEC -/

def R.SEC_ATT_CTL_GO : Fld := ⟨.SEC, 0x0, 0, 1, 0, 1, .WO, 0x0⟩
def R.SEC_ATT_CTL_BUSY : Fld := ⟨.SEC, 0x0, 0, 1, 1, 1, .RO, 0x0⟩
def R.SEC_ATT_CTL_RESULT : Fld := ⟨.SEC, 0x0, 0, 1, 2, 2, .RO, 0x0⟩
def R.SEC_NONCE : Fld := ⟨.SEC, 0x8, 8, 8, 0, 64, .RW, 0x0⟩

/-- Every field of the SEC block. -/
def secFields : List Fld :=
  [R.SEC_ATT_CTL_GO, R.SEC_ATT_CTL_BUSY, R.SEC_ATT_CTL_RESULT, R.SEC_NONCE]

/-! ### BST -/

def R.BST_CFG_ROUND_H : Fld := ⟨.BST, 0x0, 0, 1, 0, 8, .RO, 0x18⟩
def R.BST_CFG_GAP_MS : Fld := ⟨.BST, 0x0, 0, 1, 8, 16, .RO, 0x64⟩
def R.BST_CFG_EN : Fld := ⟨.BST, 0x0, 0, 1, 24, 1, .RW, 0x0⟩
def R.BST_SAVE_BASE : Fld := ⟨.BST, 0x8, 0, 1, 21, 20, .RW, 0x0⟩
def R.BST_SAVE_PAGES : Fld := ⟨.BST, 0x8, 0, 1, 41, 7, .RW, 0x0⟩
def R.BST_STAT_ACTIVE : Fld := ⟨.BST, 0x10, 0, 1, 0, 1, .RO, 0x0⟩
def R.BST_STAT_NO_SAVE : Fld := ⟨.BST, 0x10, 0, 1, 1, 1, .RO, 0x1⟩
def R.BST_STAT_UNIT : Fld := ⟨.BST, 0x10, 0, 1, 8, 8, .RO, 0x0⟩
def R.BST_STAT_LEFT : Fld := ⟨.BST, 0x10, 0, 1, 16, 16, .RO, 0x0⟩
def R.BST_STAT_ROUNDS : Fld := ⟨.BST, 0x10, 0, 1, 32, 32, .RO, 0x0⟩

/-- Every field of the BST block. -/
def bstFields : List Fld :=
  [R.BST_CFG_ROUND_H, R.BST_CFG_GAP_MS, R.BST_CFG_EN, R.BST_SAVE_BASE, R.BST_SAVE_PAGES, R.BST_STAT_ACTIVE,
   R.BST_STAT_NO_SAVE, R.BST_STAT_UNIT, R.BST_STAT_LEFT, R.BST_STAT_ROUNDS]

/-! ### PX -/

def R.PX_STATUS_SPEED : Fld := ⟨.PX, 0x0, 0, 1, 0, 4, .RO, 0x7⟩
def R.PX_STATUS_WIDTH : Fld := ⟨.PX, 0x0, 0, 1, 4, 4, .RO, 0x8⟩
def R.PX_STATUS_FLIT : Fld := ⟨.PX, 0x0, 0, 1, 8, 1, .RO, 0x1⟩
def R.PX_BAR4_WIN_BASE : Fld := ⟨.PX, 0x8, 0, 1, 30, 11, .RW, 0x0⟩
def R.PX_DMA_RING_BASE : Fld := ⟨.PX, 0x10, 0, 1, 12, 29, .RW, 0x0⟩
def R.PX_DMA_RING_LOG2_SIZE : Fld := ⟨.PX, 0x10, 0, 1, 41, 5, .RW, 0x4⟩
def R.PX_DMA_RING_EN : Fld := ⟨.PX, 0x10, 0, 1, 46, 1, .RW, 0x0⟩
def R.PX_DMA_RING_VECTOR : Fld := ⟨.PX, 0x10, 0, 1, 47, 11, .RW, 0x0⟩
def R.PX_DMA_PTRS_HEAD : Fld := ⟨.PX, 0x18, 0, 1, 0, 32, .RO, 0x0⟩
def R.PX_DMA_PTRS_TAIL : Fld := ⟨.PX, 0x18, 0, 1, 32, 32, .RW, 0x0⟩
def R.PX_DMA_STAT_BUSY : Fld := ⟨.PX, 0x20, 0, 1, 0, 1, .RO, 0x0⟩
def R.PX_DMA_STAT_ERR : Fld := ⟨.PX, 0x20, 0, 1, 1, 1, .RO, 0x0⟩
def R.PX_DMA_STAT_CAUSE : Fld := ⟨.PX, 0x20, 0, 1, 2, 2, .RO, 0x0⟩
def R.PX_DMA_STAT_BAD_TAIL : Fld := ⟨.PX, 0x20, 0, 1, 4, 1, .W1C, 0x0⟩
def R.PX_DMA_STAT_ERR_INDEX : Fld := ⟨.PX, 0x20, 0, 1, 8, 32, .RO, 0x0⟩

/-- Every field of the PX block. -/
def pxFields : List Fld :=
  [R.PX_STATUS_SPEED, R.PX_STATUS_WIDTH, R.PX_STATUS_FLIT, R.PX_BAR4_WIN_BASE, R.PX_DMA_RING_BASE,
   R.PX_DMA_RING_LOG2_SIZE, R.PX_DMA_RING_EN, R.PX_DMA_RING_VECTOR, R.PX_DMA_PTRS_HEAD, R.PX_DMA_PTRS_TAIL,
   R.PX_DMA_STAT_BUSY, R.PX_DMA_STAT_ERR, R.PX_DMA_STAT_CAUSE, R.PX_DMA_STAT_BAD_TAIL,
   R.PX_DMA_STAT_ERR_INDEX]

/-! ### MSIX -/

def R.MSIX_ADDR : Fld := ⟨.MSIX, 0x0, 16, 2048, 0, 64, .RW, 0x0⟩
def R.MSIX_CTRL_DATA : Fld := ⟨.MSIX, 0x8, 16, 2048, 0, 32, .RW, 0x0⟩
def R.MSIX_CTRL_MASK : Fld := ⟨.MSIX, 0x8, 16, 2048, 32, 1, .RW, 0x1⟩
def R.MSIX_PBA_PENDING : Fld := ⟨.MSIX, 0x8000, 8, 32, 0, 64, .RO, 0x0⟩

/-- Every field of the MSIX block. -/
def msixFields : List Fld :=
  [R.MSIX_ADDR, R.MSIX_CTRL_DATA, R.MSIX_CTRL_MASK, R.MSIX_PBA_PENDING]

/-- The fields of a block. -/
def fieldsOf : Blk → List Fld
  | .MGT => mgtFields
  | .PX => pxFields
  | .PWR => pwrFields
  | .TSU => tsuFields
  | .BST => bstFields
  | .NT => ntFields
  | .NCACHE => ncacheFields
  | .XLT => xltFields
  | .CE => ceFields
  | .UD => udFields
  | .SEC => secFields
  | .PMC => pmcFields
  | .CAST => castFields
  | .DBG => dbgFields
  | .REC => recFields
  | .MSIX => msixFields
  | .MA => maFields
  | .SP => spFields
  | .LK => lkFields
  | .CX => cxFields

/-- The block that holds the BAR0 offset `a`, and the instance (R417); none outside every block. -/
def blockAt (a : Nat) : Option (Blk × Nat) :=
  let hit (b : Blk) : Bool :=
    let st := if blkStride b = 0 then blkSize b else blkStride b
    decide (blkBase b ≤ a) && decide (a < blkBase b + st * blkCount b)
  ([Blk.MGT, .PX, .PWR, .TSU, .BST, .NT, .NCACHE, .XLT, .CE, .UD, .SEC, .PMC, .CAST, .DBG, .REC, .MSIX, .MA, .SP, .LK, .CX].find? hit).map fun b =>
    (b, if blkStride b = 0 then 0 else (a - blkBase b) / blkStride b)

/-- Does field `f` lie in the register at offset `o` of its block? -/
def Fld.at? (f : Fld) (o : Nat) : Bool :=
  if f.sub = 0 then o == f.off
  else decide (f.off ≤ o) && (o - f.off) % f.sub == 0 && decide ((o - f.off) / f.sub < f.cnt)

/-- The fields of the register at BAR0 offset `a`; none where no chapter defines a register (R9). -/
def fieldsAt (a : Nat) : List Fld :=
  match blockAt a with
  | none => []
  | some (b, n) => (fieldsOf b).filter fun f => f.at? (a - blkBase b - blkStride b * n)

/-- The value a register holds at release (R8): each field's reset value in its place. -/
def resetWord (a : Nat) : BitVec 64 :=
  (fieldsAt a).foldl (fun w f => w ||| (BitVec.ofNat 64 f.rst <<< f.lo)) 0

end Sys2Proof.Machine
end

