-- ==== Sys2Proof/Machine/State.lean ====
section
/-! DEFINITION. The state of the block: the registers, the memory of every tier, the arrays, the stream processors, the
contexts, the commands in progress, the ports, and the queue of commands that wait at the block's edge. -/

namespace Sys2Proof.Machine

/-- The machine stops with a fault. No meaning raises one: every hardware fault of the manual is a change of state
(R293, R294), so this type has a single constructor that no definition uses. Safe. -/
inductive Fault where
  /-- Raised by nothing; it only gives the type a constructor. Safe: no run reaches it. -/
  | unreachable
deriving DecidableEq, Repr

/-- A command without a meaning. -/
inductive Refusal where
  /-- Raised by an arm of exec whose meaning has not been written. Safe: nothing can be proved of such a command. -/
  | notModelled (mnemonic : String)
deriving DecidableEq, Repr

/-- A tensor descriptor as a command read it (R87). -/
structure Desc where
  tid   : Nat := 0
  kind  : Kind := .w
  fmt   : Fmt := .e2m1
  b16   : Bool := false
  quad  : Bool := false
  laxis : Bool := false
  base  : Nat := 0
  sbase : Nat := 0
  rows  : Nat := 0
  cols  : Nat := 0
deriving DecidableEq, Repr, Inhabited

/-- The convolution generator of a stream processor (R114). -/
structure Conv where
  inH : Nat
  inW : Nat
  kh : Nat
  kw : Nat
  sh : Nat
  sw : Nat
  dh : Nat
  dw : Nat
  pt : Nat
  pb : Nat
  pl : Nat
  pq : Nat
  uh : Nat
  uw : Nat
deriving DecidableEq, Repr, Inhabited

/-- A tile in a weight slot: what names it (R92), and the codes and scale bytes it holds (R80). -/
structure Tile where
  cx      : Nat := 0
  addr    : Nat := 0
  desc    : Desc := {}
  orgRow  : Nat := 0
  orgCol  : Nat := 0
  extRow  : Nat := 0
  extCol  : Nat := 0
  version : Nat := 0
  codes   : List (List Nat) := []
  scales  : List (List Nat) := []
deriving DecidableEq, Repr, Inhabited

/-- The state of a slot (R81). -/
inductive SlotState where
  | empty | loading | ready | active
deriving DecidableEq, Repr, Inhabited

/-- A weight slot of an array. -/
structure Slot where
  state : SlotState := .empty
  tile  : Tile := {}
deriving DecidableEq, Repr, Inhabited

/-- A row of the accumulator ring (R100), and whether an IGRAD product formed it (R156). -/
structure RingRow where
  cx       : Nat
  tid      : Nat
  row      : Nat
  col0     : Nat
  exch     : Bool
  klen     : Nat
  cover    : Nat
  vals     : List Int
  anchors  : List Int
  computed : Nat
  igrad    : Bool
deriving DecidableEq, Repr, Inhabited

/-- A row's partials on their way from the cells to the ring (R99): what RING_ARRIVAL adds. -/
structure Flight where
  cmd   : Nat
  cx    : Nat
  tid   : Nat
  row   : Nat
  col0  : Nat
  cover : Nat
  adds  : List Int
  comp  : Nat
  low   : Nat
  high  : Nat
deriving DecidableEq, Repr, Inhabited

/-- The clock of an array at activity edges (R371, R425): gated, waiting for its turn, ramping, or in full. -/
inductive RampStage where
  | gated | queued | edges4 | edges8 | edges12 | full
deriving DecidableEq, Repr, Inhabited

/-- The clock of an array: its stage, and the time at which the stage began or, in full, at which the last row entered. -/
structure Ramp where
  stage : RampStage := .gated
  since : Nat := 0
deriving DecidableEq, Repr, Inhabited

/-- One matrix array. -/
structure Arr where
  slot0  : Slot := {}
  slot1  : Slot := {}
  ring   : List RingRow := []
  flight : List Flight := []
  ramp   : Ramp := {}
  axis   : Bool := false               -- flow of the last row entered: false N or WGRAD, true T
  lastSlot : Nat := 0                  -- slot written by the load in progress or by the last load
deriving DecidableEq, Repr, Inhabited

/-- What a stream processor's last dispatched command waits for (R126), with the order in which it began. -/
inductive Wait where
  | sem (owner idx value : Nat) (acquire : Bool) (since : Nat)
  | version (owner tid print : Nat) (since : Nat)
  | fence (classes : Nat)
  | step (n : Nat)
deriving DecidableEq, Repr, Inhabited

/-- What a stream processor holds beside its registers. -/
structure Spu where
  step    : Option Nat := none
  conv    : Option Conv := none
  wait    : Option Wait := none
  waitCmd : Option Nat := none
  held    : Bool := false              -- the command at HEAD was held back (ORDER, R82, a full queue)
  halted  : Bool := false              -- it has stopped for a park at a point (R285)
deriving DecidableEq, Repr, Inhabited

/-- How far a dispatched command has come. -/
inductive CmdPhase where
  | queued      -- dispatched, not started; it may be waiting
  | placing     -- a WLOAD with ARRAYS = 0 not yet placed (R118)
  | running     -- started
  | pass1 | exchange   -- UPDATE: before and after its first pass ends (R185)
  | finished    -- all its work is done; completion is due (R127)
deriving DecidableEq, Repr, Inhabited

/-- A tensor identifier's counts, carried to completion (R78). -/
abbrev CountList := List (Nat × Counts)

/-- What an UPDATE carries from its begin to its end (R185, R186), and what a STEP_VERDICT's OR came to (`skipped`). -/
structure Upd where
  t       : Nat := 0
  s       : Int := 0
  anchor  : Int := 0
  w2      : Nat := 0
  g2      : Nat := 0
  u2      : Nat := 0
  low     : Nat := 0
  high    : Nat := 0
  bad     : List Nat := []      -- elements with a non-finite intermediate (R191)
  skipped : Bool := false
  exchanged : Bool := false
  turn    : Nat := 0            -- place in the order in which UPDATEs began (R185)
deriving DecidableEq, Repr, Inhabited

/-- A stash entry that a command touches: the entry, whether the command writes it, whether its read is counted. -/
structure Touch where
  entry   : Nat
  writes  : Bool
  counted : Bool
deriving DecidableEq, Repr, Inhabited

/-- A command that a stream processor has dispatched and that has not completed. Its id is its dispatch number. -/
structure Cmd where
  id      : Nat
  sp      : Nat
  cx      : Nat
  index   : Nat
  w       : Packet
  step    : Option Nat := none
  phase   : CmdPhase := .queued
  arrays  : List Nat := []
  slot    : Nat := 2            -- 0 or 1; 2: not chosen yet; above 2: a slot of a take not restored yet (R290)
  source  : Nat := 0            -- id of the WLOAD whose binding it took (R82)
  desc    : Desc := {}
  desc2   : Desc := {}
  conv    : Option Conv := none
  seed    : Nat := 0
  mask    : Nat := 0xFF         -- CXn.ARRAYS at dispatch: MASK, and PLACE_FIXED in bit 8 (R119)
  pos     : Nat := 0            -- rows entered or drained, per command
  entered : List Nat := []      -- per member of the gang: rows entered
  arrived : Nat := 0
  counts  : CountList := []
  stash   : List Touch := []
  upd     : Upd := {}
  prog    : List Nat := []                 -- a DRAIN's finishing program, read when it starts: 128-bit operations (R130)
  after   : List (Nat × Nat) := []         -- 8-byte values written when it completes: address, value (R139)
  shown   : List (Nat × Nat) := []         -- T128 blocks of the destination that it has begun to write (R443)
  kept    : List (Nat × Nat) := []         -- rows of such blocks, with +0 alone, that wait for the block to be shown
deriving DecidableEq, Repr, Inhabited

/-- A binding of a tile handle: the WLOAD that made it, its arrays and slot once placed (R82). -/
structure Binding where
  handle : Nat
  load   : Nat
  arrays : List Nat
  slot   : Nat
  tile   : Tile := {}
deriving DecidableEq, Repr, Inhabited

/-- The states of a stash entry (R165). -/
inductive StashState where
  | empty | filling | near | offloading | offloaded | recalling
deriving DecidableEq, Repr, Inhabited

/-- A stash table entry, with the pages the controller has placed: (page of the entry, device-physical frame). -/
structure StashEntry where
  mb     : Nat
  bord   : Nat
  size   : Nat
  woff   : Nat
  writes : Nat
  uses   : Nat
  state  : StashState := .empty
  wdone  : Nat := 0
  udone  : Nat := 0
  admNo  : Nat := 0
  held   : Bool := false        -- its micro-batch was admitted and the entry not yet released (R172)
  reads  : Nat := 0             -- counted reads dispatched and not completed
  recalled : Bool := false
  near   : List (Nat × Nat) := []
  pool   : List (Nat × Nat) := []
deriving DecidableEq, Repr, Inhabited

/-- The stash controller of a context. -/
structure Stash where
  entries : List StashEntry := []
  admitted : Nat := 0
  cursor  : Nat × Nat := (0, 0)
  demand  : List Nat := []      -- entries a counted read waits for (R171)
deriving DecidableEq, Repr, Inhabited

/-- A shadow of a page (R193): its page in the context's space, the frame, the step, and who wrote it. -/
structure Shadow where
  vpage  : Nat
  frame  : Nat
  step   : Nat
  print  : Bool
  byMove : Bool
  byUpdate : Bool
deriving DecidableEq, Repr, Inhabited

/-- A pool of frames as ranges (first frame, count) of free ones (R196). -/
abbrev Pool := List (Nat × Nat)

/-- A frame held for a generation (R318). -/
structure HeldFrame where
  frame : Nat
  gen   : Nat
  near  : Bool
deriving DecidableEq, Repr, Inhabited

/-- What a checkpoint engine PUTs: a page of a sweep (R317), an append to a journal peer (R321), a schedule record. -/
inductive CkKind where
  | parity | append | record
deriving DecidableEq, Repr, Inhabited

/-- One send of a checkpoint engine: to which peer and address, from which frame (none: a page of zeros). An append is
three messages one after another, the others are one. -/
structure CkSend where
  kind  : CkKind
  dev   : Nat
  cx    : Nat
  addr  : Nat
  frame : Option Nat := none
  page  : Nat := 0              -- image page, or journaled page
  slot  : Nat := 0              -- of an append: the slot it writes
  tag   : Nat := 0              -- of an append: address of the tag
  gen   : Nat := 0
  step  : Nat := 0
  last  : Bool := true          -- of an append: this is the second peer's
  bytes : Nat := 0              -- of a record: its length
  stage : Nat := 0              -- messages completed
  msg   : Nat := 0              -- the message in progress, 0 where none is
deriving DecidableEq, Repr, Inhabited

/-- The checkpoint engine of a context. -/
structure Ckpt where
  ranges   : List (Nat × Nat × Bool) := []   -- the checkpoint list as checked: first address, pages, PARITY (R309)
  group    : List (Nat × Nat) := []   -- members of the parity accord (R315); none without a PARITY range
  rank     : Nat := 0
  sends    : List CkSend := []        -- of the sweep or of SEND_STRIPES, in order
  journal  : List CkSend := []        -- appends and records
  got0     : Nat := 0                 -- bytes XORed into slot 0 and slot 1 since it was zeroed (R319)
  got1     : Nat := 0
  xored    : Nat := 0                 -- bytes XORed in all
  slots    : List (Nat × Nat × Nat × Nat) := []  -- journaled page, slot, GEN and step of its latest append (R321)
  snap0    : List (Option Nat) := []  -- snapshot table 0: the committed frame of each image page; none: a page of zeros
  snap1    : List (Option Nat) := []
  held     : List HeldFrame := []
  sealing  : Nat := 0                 -- 0 none, 1 seal barrier joined, 2 zeroing, 3 ready barrier joined
  readyOk  : Bool := false            -- the ready barrier of the latest sealed generation has completed
  sendOp   : Bool := false            -- SEND_STRIPES is running (R325)
deriving DecidableEq, Repr, Inhabited

/-- A tile saved by a park, with the arrays and the slot that held it (R288). -/
structure SavedTile where
  arrays : List Nat
  slot   : Nat
  tile   : Tile
deriving DecidableEq, Repr, Inhabited

/-- A take (R288): what a park saves, in the parts that have a meaning of their own. -/
structure Take where
  empty   : Bool := true
  cmds    : List Cmd := []
  binds   : List Binding := []
  tiles   : List SavedTile := []
  rings   : List (Nat × RingRow) := []        -- array, row
deriving DecidableEq, Repr, Inhabited

/-- The verdict of a step: whether it was SKIP and S after it (R67, R70). -/
structure Verdict where
  step : Nat
  skip : Bool
  s    : Int
deriving DecidableEq, Repr, Inhabited

/-- A park that has been decided (R282, R285). -/
inductive Park where
  | none | now | atPoint
deriving DecidableEq, Repr, Inhabited

/-- What a context holds beside its registers and semaphores. -/
structure Ctx where
  binds    : List Binding := []
  ptmem    : Option (List (Nat × Byte)) := none   -- memory as XLT's cached translations see it; none: nothing cached (R280)
  first    : Option Nat := none        -- step of the first STEP_BEGIN (R66, R72)
  oldest   : Nat := 0                  -- the oldest step without a verdict
  closed   : List Nat := []            -- steps closed by STEP_CLOSE (R67)
  verdicts : List Verdict := []
  s0       : Int := 0                  -- S of the first step (R72)
  take     : Take := {}
  rings    : List (Nat × RingRow) := []      -- ring images of a restore not yet reloaded (R290)
  tiles    : List SavedTile := []            -- slot images of a restore not yet reloaded; slot k stands as 3 + k
  park     : Park := .none
  parkAt   : Nat := 0                  -- time at which the park in progress was decided (R284)
  resident : Bool := false             -- it has been RESIDENT since creation (R325)
  stash    : Stash := {}
  shadows  : List Shadow := []
  poolNear : Pool := []
  poolSlow : Pool := []
  ckpt     : Ckpt := {}
deriving DecidableEq, Repr, Inhabited

/-- A message that this device sends or asks for (R253, R254), with the offsets of the frames not yet answered. -/
structure Msg where
  id     : Nat
  cmd    : Option Nat
  cx     : Nat
  dev    : Nat
  rcx    : Nat
  isGet  : Bool
  src    : Nat
  dst    : Nat
  bytes  : Nat
  rpost  : Option Nat
  left   : List Nat            -- offsets not yet answered
  unsent : List Nat            -- of these, not yet sent
  posted : Bool := false       -- the POST frame has been formed
  last   : Nat := 0            -- time of the last progress
  ckpt   : Bool := false
deriving DecidableEq, Repr, Inhabited

/-- An accord entry as read at a dispatch (R257). -/
structure Accord where
  index   : Nat := 0
  members : List (Nat × Nat) := []     -- device, context
  rank    : Nat := 0
  shape   : Nat := 0
  fanout  : Nat := 0
  epoch   : Nat := 0
  area    : Nat := 0
deriving DecidableEq, Repr, Inhabited

/-- What a collective computes. -/
inductive CollOp where
  | reduce | gather | reduceScatter | exchange | barrier | verdict | norms
deriving DecidableEq, Repr, Inhabited

/-- A collective that has been dispatched and has not completed. -/
structure Coll where
  id      : Nat                        -- number of the collective engine's own
  cmd     : Option Nat                 -- the command it runs for, if any
  cx      : Nat
  acc     : Accord
  seq     : Nat
  op      : CollOp
  isMax   : Bool := false
  fmt     : Nat := 3
  aT      : Int := 127
  avec    : Nat := 0
  src     : Nat := 0
  dst     : Nat := 0
  srcD    : Desc := {}
  dstD    : Desc := {}
  count   : Nat := 0
  shard   : List Nat := []             -- extents in units, by rank (vector) or row by row (matrix)
  ready5  : Bool := false              -- a checkpoint barrier: the second of its generation (R319)
  entered : Bool := false              -- it has entered the rendezvous (R260)
  began   : Nat := 0                   -- time of entering
  lastRx  : Nat := 0                   -- time of the last frame of it that arrived
  readyAt : Nat := 0                   -- time at which READY frames were last sent
  ready   : List Nat := []             -- ranks whose READY is held
  dataFrom : List Nat := []            -- ranks from which data has begun
  dataTo  : List Nat := []             -- ranks to which data has begun
  parts   : List (Nat × Nat × List Byte) := []   -- units being reduced: unit, rank, block received
  rx      : Nat := 0                   -- units received
  outbox  : List (Nat × Nat × Nat × List Byte) := []   -- rank, phase, byte offset, payload: formed and not yet allowed out
  vote    : List Byte := []            -- what this member contributes to a verdict or a norm exchange
  votes   : List (Nat × List Byte) := []
  counts  : Counts := {}
deriving DecidableEq, Repr, Inhabited

/-- A fabric port, beside its registers (R239, R243, R246). -/
structure Port where
  nextSeq  : Nat := 0
  retry    : List Frame := []          -- sent and not acknowledged, oldest first
  resends  : Nat := 0
  rxNext   : Nat := 0                  -- the LSEQ expected next
  nakSent  : Bool := false
  ackOwed  : Bool := false
  credits  : List Nat := [0, 0, 0, 0]  -- units left, per channel
  crSeen   : List Nat := [0, 0, 0, 0]  -- last CR_UNITS seen, per channel
  freed    : List Nat := [0, 0, 0, 0]  -- units freed here, per channel
  crNext   : Nat := 0                  -- channel whose count the next frame carries
  lastAck  : Nat := 0                  -- time of the last acknowledgement, or of the first frame outstanding
  since    : Nat := 0                  -- time at which the present state began
  lastAcked : Nat := 0
deriving DecidableEq, Repr, Inhabited

/-- A valid entry of the cast table (R296). -/
structure CastEntry where
  slot   : Nat
  seqId  : Nat
  cx     : Nat
  scx    : Nat
  scoreEn : Bool
  state  : Nat                         -- 0 PREFILL, 1 DECODE, 2 SCORE, 3 PARKED, 4 DONE
  pstate : Nat := 0
  prio   : Nat
  nstop  : Nat
  err    : Bool := false
  inflight : Bool := false
  print  : Nat
  pos    : Nat
  plen   : Nat
  maxlen : Nat
  spos   : Nat
  kvlist : Nat
  stop   : Nat
  tokens : Nat
  admNo  : Nat
  build  : Nat := 0
  gpages : List Nat := []              -- KV pages allocated in the GEN pool, by page of the sequence
  spages : List Nat := []
  gres   : Bool := true                -- its GEN reservation stands
  sres   : Bool := false
deriving DecidableEq, Repr, Inhabited

/-- What leaves the device as one piece: towards the host, the board controller, the fabric outside LSEQ order. -/
inductive Out where
  | msix (vector : Nat)                       -- an MSI-X message (R409)
  | readData (off : Nat) (value : Word)       -- the data of a register read
  | bar4Data (bytes : List Byte)              -- the data of a BAR4 read
  | bar4Abort                                 -- completer abort of a BAR4 read (R406)
  | unsupported                               -- a BAR0 read completed with Unsupported Request status (R405)
  | hostWrite (addr : Nat) (bytes : List Byte)  -- DMA writes to host memory (R407)
  | frame (port : Nat) (f : Frame)            -- a frame put on a port
  | i3c (bytes : List Byte)                   -- a reply on the board controller's bus (R413)
  | ibi (byte : Nat)                          -- an in-band interrupt (R414)
  | nack                                      -- an I3C request not acknowledged
  | config (ok : Bool)                        -- answer to a configuration request (R380)
  | tap (word : Nat)                          -- what the TAP shifts out
  | pin (name : String) (level : Bool)        -- an output pin's new level
deriving DecidableEq, Repr

/-- An event that the recorder writes to the reel store (R351). -/
structure ReelEv where
  typ     : Nat
  unit    : Nat
  cx      : Nat
  payload : List Byte
  time    : Nat
deriving DecidableEq, Repr, Inhabited

/-- The recorder, beside its registers (R351 to R355). -/
structure Rec where
  pos      : Nat := 0                  -- log slots written since the log began
  newest   : Option Nat := none        -- slot of the newest record
  n        : Nat := 0                  -- N of compatibility mode, in force
  imageMode : Bool := false            -- mode and N asked for by the image (R354)
  imageN   : Nat := 1
  held     : Nat := 0                  -- repeats not yet written (R353)
  wroteAt  : Nat := 0                  -- time of the newest record's last write
  queue    : List ReelEv := []         -- events held while FREEZE is 1
  lost     : Nat := 0
  frozeAt  : Nat := 0
  clearDue : Option Nat := none        -- a clear that waits for FREEZE to return to 0
  stopped  : Bool := false             -- PWRFAIL_N has fallen
deriving DecidableEq, Repr, Inhabited

/-- A CUE in force: the arrays it names, the activity it announces, and the time at which its lead ends (R372). -/
structure CueRec where
  arrays : Nat
  load   : Nat
  until_ : Nat
  incr   : Nat := 0                    -- the predicted increase in milliwatts: a free value (log entry 37)
deriving DecidableEq, Repr, Inhabited

/-- The power controller (R362 to R372): its ladder position, the operating point the divider stands at, and its samples. -/
structure Pwr where
  pos      : Nat := 0
  point    : Nat := 0
  samples  : List Nat := []            -- since the last change of L, newest first, at most 2,000, in milliwatts
  limit    : Nat := 3300               -- L at the last sample
  under    : Nat := 0                  -- samples in a row with A at or below L − L/16
  clamp    : Bool := false             -- a clamp episode is on (R368)
  cues     : List CueRec := []
  rampAt   : List Nat := []            -- times at which ramps began (R371)
deriving DecidableEq, Repr, Inhabited

/-- The recorder of rushes, the counters and the cut, beside their registers (R331 to R350). -/
structure Dbg where
  rush     : List (Nat × BitVec 256) := []   -- SRAM slot and record
  count    : Nat := 0                        -- records written since EN was last set
  left     : Option Nat := none              -- CENTRE: records left after the trigger
  spilling : Bool := true                    -- spill has not been lost since EN was last set
  spillOk  : Option (Nat × Nat) := none      -- the spill region as read when first used: base and pages
  snap     : List (Nat × BitVec 64) := []    -- the snapshot of the programmable counters: offset in PMC and value
  cuts     : Nat := 0                        -- cuts ordered by this device
  shifted  : Bool := false                   -- section 7 has been read (R350)
  atT      : List (Nat × BitVec 64) := []    -- at the freeze: the registers of the blocks that go on (R347, R350)
deriving DecidableEq, Repr, Inhabited

/-- The time-stamp unit, beside its registers (R336 to R339). -/
structure Tsu where
  local_   : Nat := 0                        -- the local count
  goal     : Int := 0                        -- the offset that a slewing run moves to
  samples  : List (Nat × Nat × Nat × Nat × Nat) := []   -- sample, T1, T2, T3, T4 of the run in progress
  asked    : Nat := 0                        -- requests sent in the run
  began    : Nat := 0
  ran      : Bool := false                   -- a run has applied its offset since start
deriving DecidableEq, Repr, Inhabited

/-- Periodic self-test (R395): the slices left in the round, and the slice at the front of them. A slice is counted in the
order of the slice table. -/
structure Slice where
  todo     : List Nat := []
  phase    : Nat := 0                  -- of the front slice: 0 not due, 1 due, 2 running
  since    : Nat := 0                  -- time at which that phase began
  began    : Option Nat := none        -- time at which the round began
  ended    : Nat := 0                  -- time at which the last slice ended
deriving DecidableEq, Repr, Inhabited

/-- A near-tier migration in progress (R227): the physical channels are counted 17 × stack + channel. -/
structure Migration where
  src     : Nat
  copying : Bool := false
  since   : Nat := 0                   -- time at which the copy began
deriving DecidableEq, Repr, Inhabited

/-- The memory controllers (R207 to R235). -/
structure Tiers where
  phys      : List (Nat × Nat) := []   -- active channels that stand on another physical channel of their stack
  removed   : List Nat := []           -- active channels that the start map has left out
  migration : Option Migration := none
  waiting   : List Nat := []           -- failing physical channels whose migration has not begun
  held      : Option Nat := none       -- physical near channel held by a retraining
  slowHeld  : Option Nat := none       -- slow channel held by a retraining
  holdEnd   : Nat := 0                 -- time at which the last near hold ended
  misses    : List (Nat × Nat) := []   -- failed retrainings in a row, per physical near channel
  slowMisses : List (Nat × Nat) := []
  offline   : List Nat := []           -- active near channels offline (R229)
  slowOff   : List Nat := []           -- slow channels offline
  recorded  : List Nat := []           -- physical channels recorded for removal
deriving DecidableEq, Repr, Inhabited

/-- The start sequence and the security block, beside their registers (R378 to R402), and the orders of the present CCLK. -/
structure Boot where
  memDone  : Bool := false             -- P5 and P6 of the start in progress have ended
  fabDone  : Bool := false
  image    : List Byte := []           -- the Umdin image in use
  measures : List Byte := []           -- M0 to M5; empty: every measurement is zero (R388)
  xspi1s   : Bool := false             -- the flash is read in 1S-1S-1S in this start (R382)
  report   : List Byte := []           -- the attestation report in SEC's window (R390)
  secOff   : Bool := false             -- SEC's memories were cleared for scan (R394)
  safeAt   : Option Nat := none        -- time of the SAFE entry whose ports are not yet shut down (R400)
  safeTest : Nat := 0                  -- what sent the device to SAFE, as the SAFE record gives it
  pwrfail  : Bool := true              -- PWRFAIL_N is high
  fuses    : List (Nat × Nat) := []    -- fuses that differ from those of the part as delivered
  d3hot    : Bool := false             -- the function is in D3hot (R411)
  seat     : Option Nat := none        -- device number that the first port to reply reported (R251)
  acted    : List (Nat × Nat) := []    -- objects that an order has acted on, with the time (R415)
deriving DecidableEq, Repr, Inhabited

/-- The block. -/
structure State where
  pending : List Instr
  regs    : List (Nat × BitVec 64)
  mem     : List (Nat × Byte)
  bad     : List Nat
  arrs    : Vector Arr 8
  sps     : Vector Spu 32
  cxs     : Vector Ctx 16
  cmds    : List Cmd
  nextCmd : Nat
  msgs    : List Msg
  nextMsg : Nat
  colls   : List Coll
  nextColl : Nat
  cast    : List CastEntry
  admits  : Nat
  builds  : Nat
  ports   : Vector Port 18
  txWait  : List Frame
  nt      : Tiers
  pwr     : Pwr
  dbg     : Dbg
  reel    : List (Nat × BitVec 512)
  recd    : Rec
  outs    : List Out
  free    : Nat
  nonces  : Nat
  tsu     : Tsu
  slice   : Slice
  boot    : Boot
deriving DecidableEq, Repr

/-- The machine right after RELEASE (R8, R379): every register at its reset value, an empty memory, no context, nothing in
progress. NT.PART_0 holds the whole near tier (log entry 3). -/
def State.reset : State where
  pending := []
  regs := [(0x50100, 0x00240000FFFFFFFF#64)]
  mem := []
  bad := []
  arrs := Vector.replicate 8 {}
  sps := Vector.replicate 32 {}
  cxs := Vector.replicate 16 {}
  cmds := []
  nextCmd := 1
  msgs := []
  nextMsg := 1
  colls := []
  nextColl := 1
  cast := []
  admits := 0
  builds := 0
  ports := Vector.replicate 18 {}
  txWait := []
  nt := {}
  pwr := {}
  dbg := {}
  reel := []
  recd := {}
  outs := []
  free := 0
  nonces := 0
  tsu := {}
  slice := {}
  boot := {}

end Sys2Proof.Machine
end

