-- ==== Sys2Proof/Machine/Ops.lean ====
section
/-! DEFINITION. The named operations over registers, memory, engines' states and what leaves the block. -/

namespace Sys2Proof.Machine

-- Registers.

/-- The register word at a BAR0 offset. -/
def State.word (s : State) (a : Nat) : BitVec 64 := smGet resetWord s.regs a

/-- Store a register word. -/
def State.setWord (s : State) (a : Nat) (w : BitVec 64) : State := { s with regs := smPut resetWord s.regs a w }

/-- A word with a field replaced. -/
def putField (w : BitVec 64) (lo wid v : Nat) : BitVec 64 :=
  BitVec.ofNat 64 (w.toNat - bitsAt w.toNat lo wid * 2 ^ lo + v % 2 ^ wid * 2 ^ lo)

/-- The value of a register field, in instance `n` of its block and entry `i`. -/
def State.rd (s : State) (f : Fld) (n : Nat := 0) (i : Nat := 0) : Nat := bitsAt (s.word (f.addr n i)).toNat f.lo f.wid

/-- Replace a register field. -/
def State.wr (s : State) (f : Fld) (v : Nat) (n : Nat := 0) (i : Nat := 0) : State :=
  s.setWord (f.addr n i) (putField (s.word (f.addr n i)) f.lo f.wid v)

/-- A one-bit register field as a truth value. -/
def State.flag (s : State) (f : Fld) (n : Nat := 0) (i : Nat := 0) : Bool := s.rd f n i == 1

/-- A base-address field as an address: the field's bits stand at their own place (for example BASE in bits [47:21]). -/
def State.rdAddr (s : State) (f : Fld) (n : Nat := 0) (i : Nat := 0) : Nat := 2 ^ f.lo * s.rd f n i

/-- Add to a counter field that sticks at its largest value. -/
def State.bump (s : State) (f : Fld) (k : Nat := 1) (n : Nat := 0) (i : Nat := 0) : State :=
  s.wr f (stick (2 ^ f.wid - 1) (s.rd f n i + k)) n i

/-- Set a one-bit register field. -/
def State.setFlag (s : State) (f : Fld) (b : Bool) (n : Nat := 0) (i : Nat := 0) : State := s.wr f (if b then 1 else 0) n i

-- Engines.

/-- Context `n` (n below 16). -/
def State.cx (s : State) (n : Nat) : Ctx := s.cxs.get (Fin.ofNat 16 n)

/-- Change context `n`. -/
def State.updCx (s : State) (n : Nat) (f : Ctx → Ctx) : State :=
  { s with cxs := s.cxs.set (n % 16) (f (s.cx n)) (Nat.mod_lt n (by decide)) }

/-- Stream processor `n` (n below 32). -/
def State.sp (s : State) (n : Nat) : Spu := s.sps.get (Fin.ofNat 32 n)

/-- Change stream processor `n`. -/
def State.updSp (s : State) (n : Nat) (f : Spu → Spu) : State :=
  { s with sps := s.sps.set (n % 32) (f (s.sp n)) (Nat.mod_lt n (by decide)) }

/-- Array `n` (n below 8). -/
def State.arr (s : State) (n : Nat) : Arr := s.arrs.get (Fin.ofNat 8 n)

/-- Change array `n`. -/
def State.updArr (s : State) (n : Nat) (f : Arr → Arr) : State :=
  { s with arrs := s.arrs.set (n % 8) (f (s.arr n)) (Nat.mod_lt n (by decide)) }

/-- Port `n` (n below 18). -/
def State.port (s : State) (n : Nat) : Port := s.ports.get (Fin.ofNat 18 n)

/-- Change port `n`. -/
def State.updPort (s : State) (n : Nat) (f : Port → Port) : State :=
  { s with ports := s.ports.set (n % 18) (f (s.port n)) (Nat.mod_lt n (by decide)) }

/-- A slot of an array: 0 or 1. -/
def Arr.slot (a : Arr) (k : Nat) : Slot := if k = 0 then a.slot0 else a.slot1

/-- Replace a slot of an array. -/
def Arr.setSlot (a : Arr) (k : Nat) (x : Slot) : Arr := if k = 0 then { a with slot0 := x } else { a with slot1 := x }

/-- The dispatched command with a given id. -/
def State.cmd? (s : State) (id : Nat) : Option Cmd := s.cmds.find? fun c => c.id == id

/-- Change the command with a given id. -/
def State.updCmd (s : State) (id : Nat) (f : Cmd → Cmd) : State :=
  { s with cmds := replaceFirst (fun c => c.id == id) f s.cmds }

/-- Bits of a command's packet (R89, R124). -/
def pkt (w : Packet) (lo n : Nat) : Nat := bitsAt w.toNat lo n

/-- One bit of a command's packet. -/
def pktBit (w : Packet) (i : Nat) : Bool := bitAt w.toNat i

/-- The operation code of a command (R124). -/
def opc (w : Packet) : Nat := pkt w 0 8

/-- The local count of the time-stamp unit, in nanoseconds since root lock. -/
def State.clock (s : State) : Nat := s.tsu.local_

/-- The current time stamp: the local count plus TSU.OFFSET (R336). -/
def State.now (s : State) : Nat := ((s.tsu.local_ : Int) + signedOf 64 (s.rd R.TSU_OFFSET)).toNat

-- Free values and what leaves the block.

/-- Take the next free value (log entry 2). -/
def State.takeFree (s : State) : Nat × State := (Config.freeValue s.free, { s with free := s.free + 1 })

/-- A free choice among `n` things; 0 where there is none to choose. -/
def State.pick (s : State) (n : Nat) : Nat × State :=
  if n ≤ 1 then (0, s) else (Config.freeValue s.free % n, { s with free := s.free + 1 })

/-- Something leaves the block. -/
def State.emit (s : State) (o : Out) : State := { s with outs := s.outs ++ [o] }

/-- Raise an MSI-X vector: a masked vector sets its pending bit, an unmasked one sends its message; while the bit is set a
raise does nothing, and in D3hot no message leaves (R409, R411; log entry 21). -/
def State.msix (s : State) (v : Nat) : State :=
  let w := s.word (R.MSIX_PBA_PENDING.addr 0 (v / 64))
  if bitAt w.toNat (v % 64) then s
  else if s.flag R.MSIX_CTRL_MASK 0 v || s.boot.d3hot then
    s.setWord (R.MSIX_PBA_PENDING.addr 0 (v / 64))
      (s.word (R.MSIX_PBA_PENDING.addr 0 (v / 64)) ||| (1#64 <<< (v % 64)))
  else s.emit (.msix v)

/-- Bytes of a page: 2 MiB. -/
def pageBytes : Nat := 0x200000

-- The address map (R16, R17).

/-- First address of the slow tier. -/
def slowBase : Nat := 0x020000000000

/-- First address of scratch. -/
def scratchBase : Nat := 0x080000000000

/-- Bytes of the usable near tier (R17). -/
def State.nearBytes (s : State) : Nat := 2 ^ 30 * s.rd R.MGT_POPULATION_NEAR_GIB

/-- Bytes of the populated slow tier (R17). -/
def State.slowBytes (s : State) : Nat := 2 ^ 37 * s.rd R.MGT_POPULATION_SLOW_PKGS

/-- A range lies in the usable near tier. -/
def State.inNear (s : State) (a n : Nat) : Bool := within a n 0 s.nearBytes

/-- A range lies in the populated slow tier. -/
def State.inSlow (s : State) (a n : Nat) : Bool := within a n slowBase s.slowBytes

/-- A range lies in the domain of partition `p` (R208, R211). -/
def State.inDomain (s : State) (p a n : Nat) : Bool :=
  within a n (2 ^ 30 * s.rd R.NT_PART_BASE_GIB 0 p) (2 ^ 30 * s.rd R.NT_PART_SIZE_GIB 0 p) && s.inNear a n

/-- A range lies in the scratch share of context `c`. -/
def State.inShare (s : State) (c a n : Nat) : Bool :=
  within a n (scratchBase + pageBytes * s.rd R.CX_SCRATCH_BASE c) (pageBytes * s.rd R.CX_SCRATCH_PAGES c)

-- Where an address lies in the tiers (R207 to R209, R234).

/-- The partition whose domain holds a near-tier address. -/
def State.partOf (s : State) (a : Nat) : Nat :=
  ((List.range 16).find? fun p => s.inDomain p a 1).getD 0

/-- Role of physical channel `k` of stack `j`: 0 active, 1 spare free, 2 failing in service, 3 offline or removed. -/
def State.role (s : State) (j k : Nat) : Nat := bitsAt (s.rd R.NT_CHMAP_ROLE 0 j) (2 * k) 2

/-- Physical channel of an active channel NCi (R207): its own, or the one a migration put in its place. -/
def State.physOf (s : State) (i : Nat) : Nat :=
  match s.nt.phys.find? fun p => p.1 == i with
  | some p => p.2
  | none => i / 12

/-- The live active channels of a partition, in ascending order (R208). -/
def State.domainChannels (s : State) (p : Nat) : List Nat :=
  (List.range 192).filter fun i => bitAt (s.rd R.NT_PART_SETS 0 p) (i / 12) && !s.nt.removed.contains i

/-- The interleave of R209: the place in the channel list and the address within the channel, for `c` channels. -/
def interleave (off c : Nat) : Nat × Nat :=
  let g := off / 512
  let o := off % 512
  let l := 16 * c
  let q := g / l
  let r := g % l
  let h := (q % 4096).xor ((q / 4096) % 4096)
  let k := (r + h) % l
  (k % c, (q * 16 + k / c) * 512 + o)

/-- The active near channel and the channel address of a device-physical near-tier address. -/
def State.nearPlace (s : State) (a : Nat) : Nat × Nat :=
  let p := s.partOf a
  let ch := s.domainChannels p
  let (k, loc) := interleave (a - 2 ^ 30 * s.rd R.NT_PART_BASE_GIB 0 p) (max 1 ch.length)
  (nth 0 ch k, loc)

/-- The slow-tier channel and channel address of an L4 address (R234). -/
def State.slowPlace (s : State) (a : Nat) : Nat × Nat := interleave (a - slowBase) (max 1 (4 * s.rd R.MGT_POPULATION_SLOW_PKGS))

-- Channels out of service (R229).

/-- The block at an address lies on a channel that is offline. -/
def State.offlineAt (s : State) (a : Nat) : Bool :=
  if a < slowBase then s.inNear a 1 && s.nt.offline.contains (s.nearPlace a).1
  else s.inSlow a 1 && s.nt.slowOff.contains (s.slowPlace a).1

/-- A block of a range that lies on an offline channel; the interleave moves between channels every 512 bytes. -/
def State.offlineIn (s : State) (a n : Nat) : Option Nat :=
  if (s.nt.offline.isEmpty && s.nt.slowOff.isEmpty) || n = 0 then none else
  (((List.range (ceilDiv (a % 512 + n) 512)).map fun i => a / 512 * 512 + 512 * i).find? fun g => s.offlineAt g).map fun g =>
    max g (a / 64 * 64)

-- Memory: device-physical addresses, one byte a cell.

/-- What an unlisted byte of memory reads as (log entry 1). -/
def memDefault : Nat → Byte := fun _ => 0

/-- The canonical form of the memory. -/
def memWf (m : List (Nat × Byte)) : Bool := smWf memDefault m

/-- `n` bytes from address `a` of a list of cells whose keys rise and lie at `a` or above. -/
def readRun : Nat → Nat → List (Nat × Byte) → List Byte
  | 0, _, _ => []
  | n + 1, a, [] => memDefault a :: readRun n (a + 1) []
  | n + 1, a, (k, v) :: t => if k = a then v :: readRun n (a + 1) t else memDefault a :: readRun n (a + 1) ((k, v) :: t)

/-- `n` bytes from address `a`. -/
def memRead (m : List (Nat × Byte)) (a n : Nat) : List Byte := readRun n a (m.dropWhile fun c => decide (c.1 < a))

/-- The cells of a list of bytes from address `a`: zeros are not listed. -/
def cellsOf : Nat → List Byte → List (Nat × Byte)
  | _, [] => []
  | a, b :: t => if b = memDefault a then cellsOf (a + 1) t else (a, b) :: cellsOf (a + 1) t

/-- Write bytes from address `a`. -/
def memWrite (m : List (Nat × Byte)) (a : Nat) (bs : List Byte) : List (Nat × Byte) :=
  smSplice m a bs.length (cellsOf a bs)

/-- Read device-physical memory. -/
def State.pread (s : State) (a n : Nat) : List Byte := memRead s.mem a n

/-- Read a little-endian number of device-physical memory. -/
def State.preadNat (s : State) (a n : Nat) : Nat := leNat (s.pread a n)

/-- Blocks of 64 bytes that a range covers only in part, and those it replaces wholly (R224). -/
def wholeBlock (a n b : Nat) : Bool := decide (a ≤ b) && decide (b + 64 ≤ a + n)

/-- Write device-physical memory. A write of all 64 bytes of an uncorrectable block makes it good; one of part of it
drops its bytes for that block (R224). -/
def State.pwrite (s : State) (a : Nat) (bs : List Byte) : State :=
  let hit := s.bad.filter fun b => overlaps b 64 a bs.length
  if hit.isEmpty then { s with mem := memWrite s.mem a bs }
  else
    let keep := hit.filter fun b => !wholeBlock a bs.length b
    let m := memWrite s.mem a bs
    -- the bytes of a partly covered uncorrectable block stay as they were
    let m := keep.foldl (fun m b => memWrite m b (memRead s.mem b 64)) m
    { s with mem := m, bad := s.bad.filter fun b => !(overlaps b 64 a bs.length && wholeBlock a bs.length b) }

/-- Write a little-endian number to device-physical memory. -/
def State.pwriteNat (s : State) (a n v : Nat) : State := s.pwrite a (leBytes n v)

/-- An uncorrectable block that a range of `n` bytes at `a` touches; every block of an offline channel is one (R229). -/
def State.badIn (s : State) (a n : Nat) : Option Nat :=
  match s.bad.find? fun b => overlaps b 64 a n with
  | some b => some b
  | none => s.offlineIn a n

/-- Copy one range of device-physical memory onto another, with the blocks that read as uncorrectable. -/
def State.pcopy (s : State) (src n dst : Nat) : State :=
  { s with mem := smCopy s.mem src n dst,
           bad := (s.bad.filter fun b => !(decide (dst ≤ b) && decide (b < dst + n))) ++
             ((s.bad.filter fun b => decide (src ≤ b) && decide (b < src + n)).map fun b => b - src + dst) }

/-- Set a range of device-physical memory to zero. -/
def State.pzero (s : State) (a n : Nat) : State :=
  { s with mem := smErase s.mem a n, bad := s.bad.filter fun b => !(decide (a ≤ b) && decide (b < a + n)) }

-- Contexts.

/-- The state of context `c`, coded as in R281: 0 FREE, 1 PARKED, 2 RESTORING, 3 RESIDENT, 4 PARKING, 5 FAULTED. -/
def State.cxState (s : State) (c : Nat) : Nat := s.rd R.CX_STATUS_STATE c

/-- The context exists: it is neither FREE nor FAULTED (R294). -/
def State.cxLive (s : State) (c : Nat) : Bool := s.cxState c != 0 && s.cxState c != 5

/-- The context is of class LEARN (R23). -/
def State.isLearn (s : State) (c : Nat) : Bool := s.flag R.CX_CTL_CLASS c

/-- Where a semaphore's value stands: its register, or the store of the take area while the context is PARKED, PARKING or
RESTORING (R288, R292). -/
def State.semStored (s : State) (c : Nat) : Bool := s.cxState c == 1 || s.cxState c == 2 || s.cxState c == 4

/-- The address of a semaphore in the store of the take area (R288). -/
def State.semAddr (s : State) (c i : Nat) : Nat := 0x1000 + s.rdAddr R.CX_TAKE_BASE c + 8 * i

/-- A semaphore's value. -/
def State.sem (s : State) (c i : Nat) : Nat :=
  if s.semStored c then s.preadNat (s.semAddr c i) 4 else s.rd R.CX_SEM_VALUE c i

/-- Replace a semaphore's value. -/
def State.setSem (s : State) (c i v : Nat) : State :=
  if s.semStored c then s.pwriteNat (s.semAddr c i) 8 v else s.wr R.CX_SEM_VALUE v c i

/-- The context's semaphore is owned by its stash controller or its checkpoint engine (R173, R311). -/
def State.semOwned (s : State) (c i : Nat) : Bool :=
  (s.flag R.CX_STASH_CTL_EN c && s.flag R.CX_STASH_CTL_ADMIT_EN c && s.rd R.CX_STASH_CTL_ADMIT_SEM c == i) ||
  (s.flag R.CX_CKPT_CTL_EN c && s.rd R.CX_CKPT_CTL_GATE_SEM c == i)

/-- The device serves commands and frames: it is READY, not cut, and PWRFAIL_N is high (R346, R379, R427). -/
def State.live (s : State) : Bool := s.rd R.MGT_START_STATE == 2 && !s.flag R.DBG_CUT_STAT_CUT && !s.recd.stopped

/-- Slices of the slice table, in its order: block index of the first unit, slices, and whether each has a unit of its own
(R395, R417). -/
def sliceTable : List (Nat × Nat × Bool) :=
  [(17, 8, true), (25, 8, true), (33, 16, true), (6, 16, false), (49, 32, true), (81, 32, true), (8, 1, true),
   (13, 1, true), (9, 1, true), (7, 1, true), (5, 204, false), (113, 18, true), (10, 1, true), (147, 3, true),
   (150, 128, false)]

/-- Find a slice in the table: block index, and number among the slices of its row. -/
def sliceIn : List (Nat × Nat × Bool) → Nat → Nat × Nat
  | [], _ => (0, 0)
  | (b, n, own) :: t, k => if k < n then (if own then b + k else b, k) else sliceIn t (k - n)

/-- The block index of slice `k`, and its number within its row of the slice table. -/
def sliceUnit (k : Nat) : Nat × Nat := sliceIn sliceTable k

/-- A self-test slice runs on unit `k` of the table's row that begins at block index `b`: work for the unit waits (R395). -/
def State.testing (s : State) (b k : Nat) : Bool :=
  s.slice.phase == 2 && match s.slice.todo with
    | [] => false
    | x :: _ => sliceUnit x == (if b = 5 ∨ b = 6 ∨ b = 150 then b else b + k, k)

/-- Why a context faults: the code of R293, the address, the refusal reason, the block an uncorrectable read met, and
whether R58 refused the command. -/
structure Cause where
  code   : Nat
  addr   : Nat := 0
  reason : Nat := 0
  block  : Option Nat := none
  pim    : Bool := false
deriving DecidableEq, Repr, Inhabited

/-- Code 0x01. -/
def illegal : Cause := { code := 1 }

/-- Code 0x02. -/
def pageFault (a : Nat) : Cause := { code := 2, addr := a }

/-- Code 0x03, for an address in the context's space and the block found uncorrectable. -/
def uncorrectable (a block : Nat) : Cause := { code := 3, addr := a, block := some block }

/-- Code 0x04. -/
def stashExhausted : Cause := { code := 4 }

/-- What an engine's attempt comes to: a result, a fault of its context, or a wait. -/
inductive Res (α : Type) where
  | ok (a : α)
  | fault (c : Cause)
  | wait
deriving Repr

/-- Go on with a result. -/
def Res.bind {α β : Type} (x : Res α) (f : α → Res β) : Res β :=
  match x with
  | .ok a => f a
  | .fault c => .fault c
  | .wait => .wait

/-- Fail with a cause unless a condition holds. -/
def Res.check (b : Bool) (c : Cause) : Res Unit := if b then .ok () else .fault c

/-- Run over a list, carrying a value. -/
def Res.fold {α β : Type} (f : β → α → Res β) : β → List α → Res β
  | b, [] => .ok b
  | b, x :: t => (f b x).bind fun b' => Res.fold f b' t

/-- Map over a list. -/
def Res.mapM {α β : Type} (f : α → Res β) : List α → Res (List β)
  | [] => .ok []
  | x :: t => (f x).bind fun y => (Res.mapM f t).bind fun ys => .ok (y :: ys)

end Sys2Proof.Machine
end

