-- ==== Sys2Proof/Machine/Reel.lean ====
section
/-! DEFINITION. The reel store and its recorder (R351 to R355). -/

namespace Sys2Proof.Machine

/-- The content of a slot no record was written to (log entry 6). -/
def reelDefault : Nat → BitVec 512 := fun _ => 0

/-- A slot of the reel store. -/
def State.reelSlot (s : State) (i : Nat) : BitVec 512 := smGet reelDefault s.reel i

/-- Write a slot of the reel store. -/
def State.setReelSlot (s : State) (i : Nat) (v : BitVec 512) : State := { s with reel := smPut reelDefault s.reel i v }

/-- The 64 bytes of a reel record (R351, R352). -/
def reelBytes (seq time typ flags rep cx unit : Nat) (payload : List Byte) : List Byte :=
  let body := leBytes 4 seq ++ leBytes 8 time ++ leBytes 1 typ ++ leBytes 1 flags ++ leBytes 2 rep ++ leBytes 1 cx ++
    leBytes 1 unit ++ (payload ++ List.replicate 38 0).take 38
  body ++ leBytes 4 (crc32c body) ++ leBytes 3 0 ++ leBytes 1 ((seq % 256).xor 0xC3)

/-- A record of 64 bytes as a slot's word. -/
def slotOf (bs : List Byte) : BitVec 512 := BitVec.ofNat 512 (leNat bs)

/-- The log slot of the n-th record: the log circulates over slots 16 to 65,535; in compatibility mode the first N
records stay (R354). -/
def State.logSlot (s : State) (k : Nat) : Nat :=
  if s.flag R.REC_STAT_MODE && decide (s.recd.n ≤ k) then 16 + s.recd.n + (k - s.recd.n) % (65520 - s.recd.n)
  else if s.flag R.REC_STAT_MODE then 16 + k
  else 16 + k % 65520

/-- Raise the REPEAT count of the newest record by the held count (R353). -/
def State.flushRepeat (s : State) : State :=
  match s.recd.newest with
  | none => s
  | some slot =>
    if s.recd.held = 0 then s else
    let w := (s.reelSlot slot).toNat
    let rep := stick 0xFFFF (bitsAt w 112 16 + s.recd.held)
    let payload := leBytes 38 (bitsAt w 144 304)
    let bs := reelBytes (bitsAt w 0 32) (bitsAt w 32 64) (bitsAt w 96 8) (bitsAt w 104 8) rep (bitsAt w 128 8) (bitsAt w 136 8) payload
    let s := s.setReelSlot slot (slotOf bs)
    { s with recd := { s.recd with held := 0, wroteAt := s.clock } }

/-- Does an event equal the newest record in TYPE, UNIT, CX and PAYLOAD (R353)? -/
def State.sameAsNewest (s : State) (e : ReelEv) : Bool :=
  match s.recd.newest with
  | none => false
  | some slot =>
    let w := (s.reelSlot slot).toNat
    bitsAt w 96 8 == e.typ && bitsAt w 136 8 == e.unit && bitsAt w 128 8 == e.cx &&
      bitsAt w 144 304 == leNat ((e.payload ++ List.replicate 38 0).take 38)

/-- Write an event to the log: a repeat of the newest record is counted and written at most once a millisecond, another
event first has the held count written and then takes the next slot (R351, R353). -/
def State.logWrite (s : State) (e : ReelEv) : State :=
  if s.sameAsNewest e then
    let s := { s with recd := { s.recd with held := s.recd.held + 1 } }
    if 1000000 + s.recd.wroteAt ≤ s.clock then s.flushRepeat else s
  else
    let s := s.flushRepeat
    let seq := s.rd R.REC_STAT_SEQ_NEXT
    let slot := s.logSlot s.recd.pos
    let flags := if s.flag R.TSU_CLAP_DONE then 1 else 0
    let s := s.setReelSlot slot (slotOf (reelBytes seq e.time e.typ flags 0 e.cx e.unit e.payload))
    let s := s.wr R.REC_STAT_SEQ_NEXT (seq + 1)
    { s with recd := { s.recd with pos := s.recd.pos + 1, newest := some slot, held := 0, wroteAt := s.clock } }

/-- Write a REPAIR record into the slot of its stack, which keeps the newest one (R230, R351). -/
def State.repairWrite (s : State) (e : ReelEv) : State :=
  let seq := s.rd R.REC_STAT_SEQ_NEXT
  let flags := if s.flag R.TSU_CLAP_DONE then 1 else 0
  let stack := leNat (e.payload.take 1) % 12
  (s.setReelSlot (1 + stack) (slotOf (reelBytes seq e.time e.typ flags 0 e.cx e.unit e.payload))).wr R.REC_STAT_SEQ_NEXT (seq + 1)

/-- Write an event: a REPAIR record to its own slot, any other to the log. -/
def State.recWrite (s : State) (e : ReelEv) : State := if e.typ = 0x03 then s.repairWrite e else s.logWrite e

/-- Record an event: written at once, or queued in 256 entries while FREEZE is 1, or counted as lost (R355). -/
def State.reelEvent (s : State) (typ unit cx : Nat) (payload : List Byte) : State :=
  let e : ReelEv := ⟨typ, unit, cx, payload, s.now⟩
  if s.recd.stopped then s
  else if s.flag R.REC_CTL_FREEZE then
    if s.recd.queue.length < 256 then { s with recd := { s.recd with queue := s.recd.queue ++ [e] } }
    else { s with recd := { s.recd with lost := s.recd.lost + 1 } }
  else s.recWrite e

/-- FREEZE returns to 0: the queue is written in order, then one LOST record (R355). -/
def State.thaw (s : State) : State :=
  let s := s.wr R.REC_CTL_FREEZE 0
  let q := s.recd.queue
  let lost := s.recd.lost
  let s := { s with recd := { s.recd with queue := [], lost := 0 } }
  let s := q.foldl State.recWrite s
  if lost = 0 then s else s.recWrite ⟨0x0F, blkIndex .REC, 0xFF, leBytes 4 lost, s.now⟩

/-- No context: byte 16 of a reel record (R351). -/
def noCx : Nat := 0xFF

end Sys2Proof.Machine
end

