-- ==== Sys2Proof/Machine/Trace.lean ====
section
/-! DEFINITION. What every engine reports to: the programmable counters (R334), rushes and their trigger (R340 to R344),
and the order of a cut (R346, R348). -/

namespace Sys2Proof.Machine

/-- The device number of R250. -/
def State.dev (s : State) : Nat := s.rd R.MGT_SEAT_DEV

-- The cut.

/-- Root divider of ACLK at an operating point: 32 GHz ÷ 8, 9, 10, 16. -/
def aclkDiv (point : Nat) : Nat :=
  match point with
  | 0 => 8 | 1 => 9 | 2 => 10 | _ => 16

/-- 40 ACLK periods at the current divider, in whole nanoseconds, rounded up (R346; log entry 20). -/
def State.cutLead (s : State) : Nat := ceilDiv (40 * aclkDiv s.pwr.point) 32

/-- Arm a cut for time stamp `t`; a cut already armed for an earlier or equal time governs (R346). -/
def State.armCut (s : State) (t origin cutId : Nat) (byFrame late : Bool) : State :=
  if s.flag R.DBG_CUT_STAT_CUT then s
  else if s.flag R.DBG_CUT_STAT_ARMED && decide (s.rd R.DBG_CUT_T_T ≤ t) then s
  else
    let s := s.setFlag R.DBG_CUT_STAT_ARMED true
    let s := s.wr R.DBG_CUT_T_T t
    let s := s.setFlag R.DBG_CUT_STAT_BY_FRAME byFrame
    let s := s.setFlag R.DBG_CUT_STAT_LATE late
    let s := s.wr R.DBG_CUT_STAT_ORIGIN origin
    s.wr R.DBG_CUT_STAT_CUT_ID cutId

/-- Arm a timed cut; one less than 40 ACLK ahead takes effect as an immediate one and sets LATE (R346). -/
def State.armTimed (s : State) (t origin cutId : Nat) (byFrame : Bool) : State :=
  if t < s.now + s.cutLead then s.armCut (s.now + s.cutLead) origin cutId byFrame true
  else s.armCut t origin cutId byFrame false

/-- The CUT frame of R348 to a device. -/
def cutFrame (src dst t cutId : Nat) : Frame :=
  { typ := 13, vc := 3, srcDev := src, dstDev := dst,
    payload := leBytes 8 t ++ leBytes 2 src ++ leBytes 4 cutId ++ List.replicate 50 0 }

/-- Send CUT frames to the cut set: they join the frames that wait for a port (R348). -/
def State.sendCuts (s : State) (t cutId : Nat) : State :=
  let n := s.rd R.DBG_CUT_CTL_SET_COUNT
  let base := s.rdAddr R.DBG_CUT_SET_BASE
  { s with txWait := s.txWait ++ (List.range n).map fun i => cutFrame s.dev (s.preadNat (base + 2 * i) 2) t cutId }

/-- An order that is immediate while the cut set is empty, and a cut across devices otherwise (R346, R348). -/
def State.orderCut (s : State) : State :=
  let k := s.dbg.cuts + 1
  let s := { s with dbg := { s.dbg with cuts := k } }
  if s.rd R.DBG_CUT_CTL_SET_COUNT = 0 then s.armCut (s.now + s.cutLead) s.dev k false false
  else
    let t := s.now + s.rd R.DBG_CUT_CTL_LEAD_NS
    (s.armTimed t s.dev k false).sendCuts t k

-- Rushes.

/-- Records that the ring of rushes holds: 1,048,576 in the SRAM, or those of the spill region (R340, R342, R344). -/
def State.rushCap (s : State) : Nat :=
  match s.dbg.spillOk with
  | some (_, pages) => pages * 65536
  | none => 1048576

/-- The content of a rushes slot that no record was written to (log entry 6). -/
def rushDefault : Nat → BitVec 256 := fun _ => 0

/-- Look up the spill region when spill first uses it; a region outside the partition's domain stops spill (R344, R359). -/
def State.spillInit (s : State) : State :=
  if s.flag R.DBG_RUSH_CTL_SPILL && s.dbg.spilling && s.dbg.spillOk.isNone then
    let c := s.rd R.DBG_RUSH_CTL_SPILL_CX
    let base := s.rdAddr R.CX_RUSH_SPILL_BASE c
    let pages := s.rd R.CX_RUSH_SPILL_PAGES c
    if s.cxState c ≠ 0 ∧ s.cxState c ≠ 5 ∧ 0 < pages ∧ s.inDomain (s.rd R.CX_MEMPART_PART c) base (0x200000 * pages) = true then
      { s with dbg := { s.dbg with spillOk := some (base, pages) } }
    else (s.setFlag R.DBG_RUSH_STAT_SPILL_LOST true) |> fun s => { s with dbg := { s.dbg with spilling := false } }
  else s

/-- A context is torn down: spill to its region stops, and rushes go on in the SRAM alone (R344). -/
def State.spillGone (s : State) (c : Nat) : State :=
  if s.flag R.DBG_RUSH_CTL_EN && s.flag R.DBG_RUSH_CTL_SPILL && s.dbg.spilling && s.rd R.DBG_RUSH_CTL_SPILL_CX == c then
    { s.setFlag R.DBG_RUSH_STAT_SPILL_LOST true with dbg := { s.dbg with spilling := false, spillOk := none } }
  else s

/-- Put one record at the next place of the ring. -/
def State.rushPut (s : State) (cls cx sp op tag cmd data : Nat) : State :=
  let s := s.spillInit
  let seq := s.rd R.DBG_RUSH_POS_SEQ_NEXT
  let v := seq % 2 ^ 32 + s.now % 2 ^ 64 * 2 ^ 32 + cx % 16 * 2 ^ 96 + sp % 32 * 2 ^ 100 + cls % 16 * 2 ^ 105 +
    op % 256 * 2 ^ 109 + tag % 2 ^ 16 * 2 ^ 117 + cmd % 2 ^ 32 * 2 ^ 133 + data % 2 ^ 64 * 2 ^ 165
  let i := s.dbg.count % (max 1 s.rushCap)
  let s := match s.dbg.spillOk with
    | some (base, _) => s.pwriteNat (base + 32 * i) 32 v
    | none => { s with dbg := { s.dbg with rush := smPut rushDefault s.dbg.rush i (BitVec.ofNat 256 v) } }
  let s := s.wr R.DBG_RUSH_POS_SEQ_NEXT (seq + 1)
  { s with dbg := { s.dbg with count := s.dbg.count + 1 } }

/-- Record an event of rushes if it is enabled, and stop or freeze under the mode (R340, R342). -/
def State.rush (s : State) (cls cx sp op tag cmd data : Nat) : State :=
  if !s.flag R.DBG_RUSH_CTL_EN || !bitAt (s.rd R.DBG_RUSH_CTL_CLASSES) cls || !bitAt (s.rd R.DBG_RUSH_CTL_CX_MASK) cx then s
  else
    let st := s.rd R.DBG_RUSH_STAT_STATE
    if st = 2 || st = 3 then (if s.rd R.DBG_RUSH_CTL_MODE = 1 then s.bump R.DBG_RUSH_STAT_LOST else s)
    else if s.rd R.DBG_RUSH_CTL_MODE = 1 && decide (s.rushCap ≤ s.dbg.count) then
      (s.wr R.DBG_RUSH_STAT_STATE 2).bump R.DBG_RUSH_STAT_LOST
    else
      let s := s.rushPut cls cx sp op tag cmd data
      match s.dbg.left with
      | none => s
      | some k =>
        let s := { s with dbg := { s.dbg with left := some (k - 1) } }
        if k ≤ 1 then s.wr R.DBG_RUSH_STAT_STATE 3 else s

/-- The trigger of rushes: the first event whose source bit is set marks the record, acts under the mode and may order a
cut (R342, R343). -/
def State.trigger (s : State) (bit cx : Nat) : State :=
  if !bitAt (s.rd R.DBG_RUSH_TRIG_SOURCES) bit || s.flag R.DBG_RUSH_STAT_TRIGGERED then s
  else
    let s := s.setFlag R.DBG_RUSH_STAT_TRIGGERED true
    let st := s.rd R.DBG_RUSH_STAT_STATE
    let s := s.wr R.DBG_RUSH_POS_TRIG_SEQ (s.rd R.DBG_RUSH_POS_SEQ_NEXT)
    let s :=
      if s.flag R.DBG_RUSH_CTL_EN && st != 2 && st != 3 then
        let s := s.rush 9 cx 0 0 0 0 bit
        match s.rd R.DBG_RUSH_CTL_MODE with
        | 1 => s.wr R.DBG_RUSH_STAT_STATE 2
        | 2 =>
          let k := s.rushCap * (256 - s.rd R.DBG_RUSH_CTL_PRE) / 256
          if k = 0 then s.wr R.DBG_RUSH_STAT_STATE 3 else { s with dbg := { s.dbg with left := some k } }
        | _ => s
      else s
    if s.flag R.DBG_RUSH_TRIG_CUT_ON_TRIG then s.orderCut else s

-- Programmable counters.

/-- Add to one programmable counter: it sticks at its largest value, and the first overflow sets OVF and raises its event
(R334). -/
def State.pmcAdd (s : State) (i n : Nat) : State :=
  let v := s.rd R.PMC_CNT_VALUE 0 i + n
  if v < 2 ^ 56 then s.wr R.PMC_CNT_VALUE v 0 i
  else
    let s := s.wr R.PMC_CNT_VALUE (2 ^ 56 - 1) 0 i
    if s.flag R.PMC_CNT_OVF 0 i then s
    else
      let s := s.setFlag R.PMC_CNT_OVF true 0 i
      if s.flag R.PMC_SEL_EVT_EN 0 i then (s.msix (s.rd R.PMC_CTL_VECTOR)).trigger 2 0 else s

/-- The programmable counters whose selection register differs from reset: only these can be enabled. -/
def State.pmcLive (s : State) : List Nat :=
  (s.regs.filter fun r => decide (R.PMC_SEL_EN.addr ≤ r.1) && decide (r.1 < R.PMC_SEL_EN.addr + 8 * 128)).map fun r =>
    (r.1 - R.PMC_SEL_EN.addr) / 8

/-- `n` events of a source, of a unit, attributed to a context (0x10: none) (R334). -/
def State.count (s : State) (src unit cx n : Nat) : State :=
  if n = 0 then s else
  s.pmcLive.foldl (fun s i =>
    if s.flag R.PMC_SEL_EN 0 i && s.rd R.PMC_SEL_SOURCE 0 i == src &&
        (s.rd R.PMC_SEL_UNIT 0 i == unit || (s.rd R.PMC_SEL_UNIT 0 i == 0xFF && decide (0x040 ≤ src))) &&
        (cx == 0x10 || s.rd R.PMC_SEL_CX 0 i == 0x10 || s.rd R.PMC_SEL_CX 0 i == cx) then s.pmcAdd i n else s) s

end Sys2Proof.Machine
end

