-- ==== Sys2Proof/Machine/Clock.lean ====
section
/-! DEFINITION. The passing of time: what a step on an empty queue does (log entry 5). -/

namespace Sys2Proof.Machine

/-- The offset of the time-stamp unit moves towards its goal by at most one nanosecond in every thousand (R339). -/
def slew (off goal : Int) (count : Nat) : Int :=
  if count % 1000 ≠ 0 then off else if off < goal then off + 1 else if goal < off then off - 1 else off

/-- One nanosecond passes: the local count advances, and a slewing offset moves (R336, R339). -/
def State.tick (s : State) : State :=
  let n := s.tsu.local_ + 1
  let s := { s with tsu := { s.tsu with local_ := n } }
  let off := signedOf 64 (s.rd R.TSU_OFFSET)
  if s.tsu.ran && off != s.tsu.goal then s.wr R.TSU_OFFSET (unsignedOf 64 (slew off s.tsu.goal n)) else s

end Sys2Proof.Machine
end

