-- ==== Sys2Proof/Machine/Wirebox.lean ====
section
/-! DEFINITION. Putting frames on ports: credits, sequence numbers, the retry buffer (R240 to R249). -/

namespace Sys2Proof.Machine

/-- Credit units of a frame: 1 + ceil(LEN ÷ 64) (R246). -/
def frameUnits (f : Frame) : Nat := 1 + ceilDiv f.len 64

/-- Bytes of a frame on the wire: header, padded payload, trailer (R240). -/
def frameBytes (f : Frame) : Nat := 64 + roundUp f.len 64

/-- Bytes held in a retry buffer. -/
def Port.held (p : Port) : Nat := (p.retry.map frameBytes).foldl (· + ·) 0

/-- The port's state: 0 DOWN, 1 TRAINING, 2 ROLL, 3 UP, 4 DISABLED (R239). -/
def State.portState (s : State) (p : Nat) : Nat := s.rd R.LK_STATUS_STATE p

/-- The ports work: the device is not cut and its rails hold. -/
def State.portsLive (s : State) : Bool := !s.flag R.DBG_CUT_STAT_CUT && !s.recd.stopped

/-- A frame can leave on a port now: the port is UP, has credits for the whole frame and room to keep it (R243, R246). -/
def State.canSend (s : State) (p : Nat) (f : Frame) : Bool :=
  let q := s.port p
  s.portState p == 3 && !s.testing 113 p && decide (frameUnits f ≤ nth 0 q.credits f.vc) && decide (q.held + frameBytes f ≤ 524288) &&
    decide (q.retry.length < 32768)

/-- A request frame of a message leaves: it is no longer unsent, and the progress interval begins with it where none of its
frames was out (R256). -/
def State.markSent (s : State) (f : Frame) : State :=
  if f.typ != 1 && f.typ != 2 && f.typ != 3 then s else
  { s with msgs := s.msgs.map fun m => if m.id != f.msgId then m else
      { m with last := if m.left.length = m.unsent.length then s.clock else m.last, unsent := m.unsent.erase f.offset } }

/-- Put a frame on a port: it takes the next LSEQ, carries the acknowledgement and one channel's credit count, and stays
in the retry buffer (R240, R243, R246). -/
def State.sendOn (s : State) (p : Nat) (f : Frame) : State :=
  let q := s.port p
  let g := { f with lseq := q.nextSeq % 65536, ackv := decide (0 < q.rxNext), nak := false,
                    ackSeq := (q.rxNext + 65535) % 65536, crVc := q.crNext, crUnits := nth 0 q.freed q.crNext % 2 ^ 14 }
  let s := s.updPort p fun q =>
    { q with nextSeq := q.nextSeq + 1, retry := q.retry ++ [g], ackOwed := false, crNext := (q.crNext + 1) % 4,
             credits := q.credits.modify f.vc (· - frameUnits f),
             lastAck := if q.retry.isEmpty then s.clock else q.lastAck }
  ((s.markSent f).emit (.frame p g)).count 0x060 p 0x10 1

/-- The port that takes a frame: the lowest-numbered one that can (R249). -/
def State.portFor (s : State) (f : Frame) : Option Nat := (List.range 18).find? fun p => s.canSend p f

/-- Send the waiting frames that a port can take now. A frame that must wait holds back later frames of its own channel
alone. -/
def drainFrames : List Frame → State → List Frame → State
  | [], s, kept => { s with txWait := kept.reverse }
  | f :: t, s, kept =>
    if kept.any fun g => g.vc == f.vc then drainFrames t s (f :: kept)
    else match s.portFor f with
      | some p => drainFrames t (s.sendOn p f) kept
      | none => drainFrames t s (f :: kept)

/-- Send what can be sent. -/
def State.drainTx (s : State) : State := if s.txWait.isEmpty then s else drainFrames s.txWait s []

/-- Hand frames to the ports. -/
def State.sendFrames (s : State) (fs : List Frame) : State := { s with txWait := s.txWait ++ fs }

/-- The device is seated (R251). -/
def State.seated (s : State) : Bool := s.flag R.MGT_SEAT_SEATED

end Sys2Proof.Machine
end

