-- ==== Sys2Proof/Machine/Xlate.lean ====
section
/-! DEFINITION. Translation of a context's addresses (R279, R280), shadows (R193 to R196), the pages of the stash window
(R162, R165), and reads and writes of a context's memory. -/

namespace Sys2Proof.Machine

/-- A page as a walk finds it: its frame's address, its attributes, and for a print page its entry of the print page
table. -/
structure Page where
  frame : Nat
  w     : Bool
  cow   : Bool
  prt   : Bool
  index : Nat
  owner : Nat
deriving DecidableEq, Repr, Inhabited

/-- Base of the register region (R16). -/
def registerBase : Nat := 0x090000000000

/-- Address of entry `i` of the print page table. -/
def State.prtAddr (s : State) (i : Nat) : Nat := s.rdAddr R.XLT_PRT_BASE + 8 * i

/-- The memory in which XLT sees the page tables of a context: as they stood when it began to cache translations, or as
they stand where it caches none (R280; log entry 10). -/
def State.tables (s : State) (c : Nat) : List (Nat × Byte) := (s.cx c).ptmem.getD s.mem

/-- Address of the level-2 entry of a page, through the level-1 table as XLT sees it; none where the walk faults. -/
def State.l2Addr (s : State) (c va : Nat) : Option Nat :=
  let m := s.tables c
  let a1 := s.rdAddr R.CX_PT_ROOT c + 8 * (va / 2 ^ 36)
  if !s.inNear a1 8 then none else
  let e1 := leNat (memRead m a1 8)
  if e1 % 4096 != 1 || decide (2 ^ 48 ≤ e1) then none else
  let a2 := e1 - 1 + 8 * (bitsAt va 21 15)
  if s.inNear a2 8 then some a2 else none

/-- An uncorrectable block that a walk meets in the tables (R224); translations that XLT has cached read no table. -/
def State.tableBad (s : State) (c va : Nat) : Option Nat :=
  if (s.cx c).ptmem.isSome then none else
  match s.badIn (s.rdAddr R.CX_PT_ROOT c + 8 * (va / 2 ^ 36)) 8 with
  | some b => some b
  | none => (s.l2Addr c va).bind fun a2 => s.badIn a2 8

/-- Walk the page tables of context `c` for an address (R279). -/
def State.walk (s : State) (c va : Nat) : Res Page :=
  if decide (2 ^ 48 ≤ va) then .fault (pageFault va) else
  match s.tableBad c va with
  | some b => .fault (uncorrectable va b)
  | none =>
  match s.l2Addr c va with
  | none => .fault (pageFault va)
  | some a2 =>
    let e := leNat (memRead (s.tables c) a2 8)
    let v := bitAt e 0
    let w := bitAt e 1
    let cow := bitAt e 2
    let prt := bitAt e 3
    if !v || bitsAt e 4 17 != 0 || bitsAt e 48 16 != 0 || (cow && prt) || (cow && !w) then .fault (pageFault va)
    else if prt then
      let i := bitsAt e 21 22
      if bitsAt e 43 5 != 0 || !s.flag R.XLT_PRT_EN || decide (s.rd R.XLT_PRT_ENTRIES ≤ i) then .fault (pageFault va) else
      match s.badIn (s.prtAddr i) 8 with
      | some b => .fault (uncorrectable va b)
      | none =>
      let p := s.preadNat (s.prtAddr i) 8
      let fr := pageBytes * bitsAt p 0 27
      if !bitAt p 31 || !s.inNear fr pageBytes then .fault (pageFault va)
      else .ok ⟨fr, w, false, true, i, bitsAt p 27 4⟩
    else
      let fr := pageBytes * bitsAt e 21 27
      if overlaps fr pageBytes registerBase 0x4000000 then .fault illegal
      else if s.inDomain (s.rd R.CX_MEMPART_PART c) fr pageBytes || s.inSlow fr pageBytes || s.inShare c fr pageBytes then
        .ok ⟨fr, w, cow, false, 0, c⟩
      else .fault (pageFault va)

/-- The pages a range covers: (address, bytes) of each part that lies in one page. The fuel bounds the number of pages. -/
def pagePieces : Nat → Nat → Nat → List (Nat × Nat)
  | 0, _, _ => []
  | k + 1, va, n =>
    if n = 0 then [] else
    let room := pageBytes - va % pageBytes
    if n ≤ room then [(va, n)] else (va, room) :: pagePieces k (va + room) (n - room)

/-- The pieces of a range of `n` bytes. -/
def pieces (va n : Nat) : List (Nat × Nat) := pagePieces (n / pageBytes + 2) va n

-- The stash window.

/-- First address of the stash window of a context. -/
def State.winBase (s : State) (c : Nat) : Nat := s.rdAddr R.CX_STASH_WIN_BASE c

/-- Pages of the window: up to the last page of any entry. -/
def Stash.winPages (t : Stash) : Nat := (t.entries.map fun e => e.woff + e.size).foldl max 0

/-- The address lies in the stash window of a context whose controller is enabled. -/
def State.inWindow (s : State) (c va : Nat) : Bool :=
  s.flag R.CX_STASH_CTL_EN c && within va 1 (s.winBase c) (pageBytes * (s.cx c).stash.winPages)

/-- The index of the stash entry that owns a window address, and the page within the entry. -/
def State.stashAt (s : State) (c va : Nat) : Option (Nat × Nat) :=
  let p := (va - s.winBase c) / pageBytes
  match (s.cx c).stash.entries.findIdx? fun e => decide (e.woff ≤ p) && decide (p < e.woff + e.size) with
  | none => none
  | some i => some (i, p - (nth default (s.cx c).stash.entries i).woff)

/-- Near pages placed by the stash controller of a context. -/
def Stash.nearUsed (t : Stash) : Nat := (t.entries.map fun e => e.near.length).foldl (· + ·) 0

/-- Pool pages in use by the stash controller of a context. -/
def Stash.poolUsed (t : Stash) : Nat := (t.entries.map fun e => e.pool.length).foldl (· + ·) 0

/-- Free near pages of the stash of a context. -/
def State.stashFree (s : State) (c : Nat) : Nat := s.rd R.CX_STASH_NEAR_PAGES c - (s.cx c).stash.nearUsed

/-- Change a stash entry. -/
def State.updEntry (s : State) (c i : Nat) (f : StashEntry → StashEntry) : State :=
  s.updCx c fun x => { x with stash := { x.stash with entries := x.stash.entries.modify i f } }

/-- The n-th frame of a region of `pages` frames from `base` that a list does not use. -/
def freeFrame (used : List Nat) (base : Nat) : Nat → Nat → Nat → Option Nat
  | 0, _, _ => none
  | pages + 1, k, i =>
    let f := base + pageBytes * i
    if used.contains f then freeFrame used base pages k (i + 1)
    else if k = 0 then some f
    else freeFrame used base pages (k - 1) (i + 1)

/-- Near frames that the stash of a context uses. -/
def Stash.nearFrames (t : Stash) : List Nat := (t.entries.map fun e => e.near.map (·.2)).flatten

/-- Pool frames that the stash of a context uses. -/
def Stash.poolFrames (t : Stash) : List Nat := (t.entries.map fun e => e.pool.map (·.2)).flatten

/-- Take a free near frame of the stash; which one is a free choice (R167). -/
def State.takeNear (s : State) (c : Nat) : Option (Nat × State) :=
  if s.stashFree c = 0 then none else
  let (k, s') := s.pick (s.stashFree c)
  (freeFrame (s.cx c).stash.nearFrames (s.rdAddr R.CX_STASH_NEAR_BASE c) (s.rd R.CX_STASH_NEAR_PAGES c) k 0).map (·, s')

/-- The near entry with the largest key (ADMIT, BORD) that no counted read has reached, among entries of a list: the
victim of R167. -/
def stashVictim (l : List (Nat × StashEntry)) : Option (Nat × StashEntry) :=
  (l.filter fun p => p.2.state == .near && p.2.reads == 0 && p.2.udone == 0).foldl
    (fun m p => match m with
      | none => some p
      | some q => if decide (q.2.admNo < p.2.admNo) || (q.2.admNo == p.2.admNo && decide (q.2.bord < p.2.bord)) then some p
                  else some q) none

/-- The entries of a stash with their indices. -/
def Stash.indexed (t : Stash) : List (Nat × StashEntry) := (List.range t.entries.length).zip t.entries

/-- Something can still free a near page: an offload in progress, one that could begin, or a release (R168). -/
def State.stashHope (s : State) (c : Nat) : Bool :=
  let t := (s.cx c).stash
  t.entries.any (fun e => e.state == .offloading) ||
  ((stashVictim t.indexed).isSome && decide (t.poolUsed < s.rd R.CX_STASH_POOL_PAGES c)) ||
  t.entries.any (fun e => decide (0 < e.reads))

-- Shadows.

/-- What writes: an ordinary command, a MOVE under a step, an UPDATE of a step, a frame from the fabric. -/
inductive WKind where
  | plain
  | move (step : Nat) (cover : List (Nat × Nat))     -- the ranges that the command writes
  | update (step : Nat) (cover : List (Nat × Nat))
deriving DecidableEq, Repr

/-- The shadow of a page of a context. -/
def State.shadow? (s : State) (c va : Nat) : Option Shadow := (s.cx c).shadows.find? fun h => h.vpage == va / pageBytes

/-- Frames of a pool that are free. -/
def Pool.count (p : Pool) : Nat := (p.map (·.2)).foldl (· + ·) 0

/-- Take the k-th free frame of a pool. -/
def Pool.takeAt : Pool → Nat → Option (Nat × Pool)
  | [], _ => none
  | (f, n) :: t, k =>
    if k < n then
      some (f + pageBytes * k,
        (if k = 0 then [] else [(f, k)]) ++ (if k + 1 = n then [] else [(f + pageBytes * (k + 1), n - k - 1)]) ++ t)
    else (Pool.takeAt t (k - n)).map fun r => (r.1, (f, n) :: r.2)

/-- Allocate a shadow frame from the near pool (prints) or the slow pool (update state); which frame is a free choice. -/
def State.takeShadowFrame (s : State) (c : Nat) (near : Bool) : Option (Nat × State) :=
  let p := if near then (s.cx c).poolNear else (s.cx c).poolSlow
  let (k, s') := s.pick p.count
  (p.takeAt k).map fun r =>
    (r.1, s'.updCx c fun x => if near then { x with poolNear := r.2 } else { x with poolSlow := r.2 })

/-- Return a frame to a pool of a context. -/
def State.returnFrame (s : State) (c frame : Nat) (near : Bool) : State :=
  s.updCx c fun x => if near then { x with poolNear := (frame, 1) :: x.poolNear } else { x with poolSlow := (frame, 1) :: x.poolSlow }

/-- The context holds a shadow or a held frame of a pool, so that a write that finds the pool empty waits (R196, R318). -/
def State.poolBusy (s : State) (c : Nat) (near : Bool) : Bool :=
  (s.cx c).shadows.any (fun h => h.print == near) || (s.cx c).ckpt.held.any (fun h => h.near == near)

/-- Change the shadow of a page. -/
def State.updShadow (s : State) (c va : Nat) (f : Shadow → Shadow) : State :=
  s.updCx c fun x => { x with shadows := replaceFirst (fun h => h.vpage == va / pageBytes) f x.shadows }

/-- How far ranges cover an address and what follows it, each range used once at most. -/
def coverEnd : Nat → List (Nat × Nat) → Nat → Nat
  | 0, _, a => a
  | k + 1, rs, a => match rs.find? fun r => decide (r.1 ≤ a) && decide (a < r.1 + r.2) with
    | some r => coverEnd k rs (r.1 + r.2)
    | none => a

/-- Ranges cover the page of an address wholly. -/
def coversPage (rs : List (Nat × Nat)) (va : Nat) : Bool :=
  decide (pageBytes + pageBytes * (va / pageBytes) ≤ coverEnd rs.length rs (pageBytes * (va / pageBytes)))

/-- The frame that a write of a page marked COW or PRT goes to (R193): the shadow of its step, allocated at the first write,
and filled from the committed frame unless the command writes the whole page. -/
def State.shadowFor (s : State) (c va : Nat) (p : Page) (step : Nat) (byUpdate : Bool) (cover : List (Nat × Nat)) :
    Res (State × Nat) :=
  match s.shadow? c va with
  | some h =>
    if h.step = step then
      .ok (s.updShadow c va fun h => { h with byUpdate := h.byUpdate || byUpdate, byMove := h.byMove || !byUpdate }, h.frame)
    else .wait
  | none =>
    match s.takeShadowFrame c p.prt with
    | none => if s.poolBusy c p.prt then .wait else .fault illegal
    | some (f, s) =>
      let whole := coversPage cover va
      match (if whole then none else s.badIn p.frame pageBytes) with
      | some b => .fault (uncorrectable va b)
      | none =>
      let s := if whole then s else s.pcopy p.frame pageBytes f
      .ok (s.updCx c fun x => { x with shadows := x.shadows ++ [⟨va / pageBytes, f, step, p.prt, !byUpdate, byUpdate⟩] }, f)

-- Reads and writes of a context's memory.

/-- Device-physical address that a read of a context's address reaches. `upd` names the step of an UPDATE or COMMIT, which
reads the shadows of its step; every other read sees the committed frame (R194). -/
def State.readAt (s : State) (c va : Nat) (upd : Option Nat := none) : Res Nat :=
  if s.inWindow c va then
    match s.stashAt c va with
    | none => .fault (pageFault va)
    | some (i, p) =>
      match (nth default (s.cx c).stash.entries i).near.find? fun q => q.1 == p with
      | some q => .ok (q.2 + va % pageBytes)
      | none => .fault (pageFault va)
  else
    (s.walk c va).bind fun p =>
      match upd, s.shadow? c va with
      | some st, some h => .ok ((if h.step = st then h.frame else p.frame) + va % pageBytes)
      | _, _ => .ok (p.frame + va % pageBytes)

/-- Read `n` bytes of a context's memory. -/
def State.vread (s : State) (c va n : Nat) (upd : Option Nat := none) : Res (List Byte) :=
  Res.fold (fun acc (q : Nat × Nat) =>
    (s.readAt c q.1 upd).bind fun a =>
      match s.badIn a q.2 with
      | some b => .fault (uncorrectable q.1 b)
      | none => .ok (acc ++ s.pread a q.2)) [] (pieces va n)

/-- Read a little-endian number of a context's memory. -/
def State.vreadNat (s : State) (c va n : Nat) (upd : Option Nat := none) : Res Nat :=
  (s.vread c va n upd).bind fun bs => .ok (leNat bs)

/-- Device-physical address that a write of a context's address reaches, with the state after a shadow or a stash page has
been placed for it. -/
def State.writeAt (s : State) (c va : Nat) (k : WKind) : Res (State × Nat) :=
  if s.inWindow c va then
    match s.stashAt c va with
    | none => .fault (pageFault va)
    | some (i, p) =>
      match (nth default (s.cx c).stash.entries i).near.find? fun q => q.1 == p with
      | some q => .ok (s, q.2 + va % pageBytes)
      | none =>
        match s.takeNear c with
        | some (f, s) =>
          .ok (s.updEntry c i fun e => { e with near := e.near ++ [(p, f)] }, f + va % pageBytes)
        | none => if s.stashHope c then .wait else .fault stashExhausted
  else
    (s.walk c va).bind fun p =>
      if !p.w then .fault (pageFault va)
      else if p.cow || p.prt then
        if !(s.isLearn c && p.owner == c) then .fault (pageFault va) else
        match k with
        | .plain => .fault (pageFault va)
        | .move st cv => (s.shadowFor c va p st false cv).bind fun r => .ok (r.1, r.2 + va % pageBytes)
        | .update st cv => (s.shadowFor c va p st true cv).bind fun r => .ok (r.1, r.2 + va % pageBytes)
      else .ok (s, p.frame + va % pageBytes)

/-- A write of part of an uncorrectable block at a device-physical range, or of a block on an offline channel: the block,
which stays uncorrectable (R224, R229). -/
def State.badMerge (s : State) (a n : Nat) : Option Nat :=
  match s.bad.find? fun b => overlaps b 64 a n && !wholeBlock a n b with
  | some b => some b
  | none => s.offlineIn a n

/-- A write may go on with its next page: so far it went well, or met only uncorrectable blocks that it covers in part
(R224). -/
def Res.goesOn : Res Unit → Bool
  | .ok _ => true
  | .fault k => k.block.isSome
  | .wait => false

/-- How a write stands after one more page went well or met an uncorrectable block: the first fault stays. -/
def Res.also : Res Unit → Res Unit → Res Unit
  | .ok _, r => r
  | r, _ => r

/-- Write bytes to a context's memory. Parts written before a fault or a wait stay written: the answer carries the state
reached and how it ended. -/
def State.vwriteFrom (s : State) (c va : Nat) (bs : List Byte) (k : WKind) : State × Res Unit :=
  (pieces va bs.length).foldl (fun (r : State × Res Unit) (q : Nat × Nat) =>
    if !r.2.goesOn then r else
    match r.1.writeAt c q.1 k with
    | .ok (s', a) =>
      let part := (bs.drop (q.1 - va)).take q.2
      let e : Res Unit := match s'.badMerge a q.2 with
        | some b => .fault (uncorrectable q.1 b)
        | none => .ok ()
      (s'.pwrite a part, r.2.also e)
    | .fault e => (r.1, r.2.also (.fault e))
    | .wait => (r.1, r.2.also .wait)) (s, .ok ())

/-- Write bytes to a context's memory, all of them or none of the effects kept. -/
def State.vwrite (s : State) (c va : Nat) (bs : List Byte) (k : WKind := .plain) : Res State :=
  match s.vwriteFrom c va bs k with
  | (s', .ok _) => .ok s'
  | (_, .fault e) => .fault e
  | (_, .wait) => .wait

/-- Write a little-endian number to a context's memory. -/
def State.vwriteNat (s : State) (c va n v : Nat) (k : WKind := .plain) : Res State := s.vwrite c va (leBytes n v) k

/-- The parts of a copy: each lies in one page of the source and one page of the destination. -/
def copyPieces (src dst n : Nat) : List (Nat × Nat × Nat) :=
  ((pieces src n).map fun q => (pieces (q.1 - src + dst) q.2).map fun r => (r.1 - dst + src, r.1, r.2)).flatten

/-- Copy bytes within a context's memory (R145), part by part in ascending order. -/
def State.vcopyFrom (s : State) (c src dst n : Nat) (k : WKind) : State × Res Unit :=
  (copyPieces src dst n).foldl (fun (r : State × Res Unit) (q : Nat × Nat × Nat) =>
    match r.2 with
    | .ok _ =>
      match r.1.readAt c q.1 with
      | .ok a =>
        match r.1.badIn a q.2.2 with
        | some b => (r.1, .fault (uncorrectable q.1 b))
        | none =>
          match r.1.writeAt c q.2.1 k with
          | .ok (s', d) =>
            match s'.badMerge d q.2.2 with
            | some b => (s'.pwrite d (s'.pread a q.2.2), .fault (uncorrectable q.2.1 b))
            | none => (s'.pcopy a q.2.2 d, .ok ())
          | .fault e => (r.1, .fault e)
          | .wait => (r.1, .wait)
      | .fault e => (r.1, .fault e)
      | .wait => (r.1, .wait)
    | _ => r) (s, .ok ())

/-- The pages of a range are all mapped, and writable and neither COW nor PRT (R79, R257). -/
def State.plainWritable (s : State) (c va n : Nat) : Bool :=
  (pieces va n).all fun q =>
    if s.inWindow c q.1 then false else
    match s.walk c q.1 with
    | .ok p => p.w && !p.cow && !p.prt
    | _ => false

/-- The driver's register write of a page table takes effect for accesses that begin after XLT_INV (R280). -/
def State.dropTranslations (s : State) (c : Nat) : State := s.updCx c fun x => { x with ptmem := none }

/-- XLT caches translations of a context from the first command that is dispatched in it on (log entry 10). -/
def State.cacheTables (s : State) (c : Nat) : State :=
  if (s.cx c).ptmem.isNone then s.updCx c fun x => { x with ptmem := some s.mem } else s

/-- XLT itself changes a level-2 entry: in memory and in what it sees of it. -/
def State.setL2 (s : State) (c a2 v : Nat) : State :=
  let s := s.pwriteNat a2 8 v
  s.updCx c fun x => { x with ptmem := x.ptmem.map fun m => memWrite m a2 (leBytes 8 v) }

end Sys2Proof.Machine
end

