-- ==== Sys2Proof/Machine/Teardown.lean ====
section
/-! DEFINITION. Faults of a context and its teardown (R224, R256, R263, R293, R294, R446). -/

namespace Sys2Proof.Machine

-- Uncorrectable events.

/-- Record an uncorrectable event charged to a context, to the host or to neither: NT.UE or UD.SLC_UE, a reel record and the trigger (R224, R343). A block of scratch
records none. -/
def State.uncorrEvent (s : State) (block : Nat) (by_ : Option Nat) (host : Bool) : State :=
  let cx := by_.getD 0
  let cxb := by_.getD noCx
  let s :=
    if block < slowBase then
      let (i, loc) := s.nearPlace block
      let ph := 17 * (i % 12) + s.physOf i
      let s := s.wr R.NT_UE_CHANNEL ph
      let s := s.wr R.NT_UE_ADDR (loc / 64)
      let s := s.wr R.NT_UE_CX cx
      let s := s.setFlag R.NT_UE_HOST host
      let s := s.setFlag R.NT_UE_VALID true
      s.reelEvent 0x02 (blkIndex .NT) cxb (leBytes 1 0 ++ leBytes 1 ph ++ leBytes 8 loc ++ leBytes 1 (if host then 1 else 0))
    else if block < scratchBase then
      let (ch, loc) := s.slowPlace block
      let s := s.wr R.UD_SLC_UE_CHANNEL ch
      let s := s.wr R.UD_SLC_UE_ADDR (loc / 64)
      let s := s.wr R.UD_SLC_UE_CX cx
      let s := s.setFlag R.UD_SLC_UE_VALID true
      s.reelEvent 0x02 (blkIndex .UD) cxb (leBytes 1 1 ++ leBytes 1 ch ++ leBytes 8 loc ++ leBytes 1 (if host then 1 else 0))
    else s
  s.trigger 3 cx

-- The parts of a teardown.

/-- Return a frame that a page no longer refers to, unless a generation holds it (R318). -/
def State.discardShadow (s : State) (c : Nat) (h : Shadow) : State := s.returnFrame c h.frame h.print

/-- Discard the shadows of a context that satisfy a test; their frames return to the pools (R195, R294). -/
def State.discardShadows (s : State) (c : Nat) (p : Shadow → Bool) : State :=
  let out := (s.cx c).shadows.filter p
  let s := s.updCx c fun x => { x with shadows := x.shadows.filter fun h => !p h }
  out.foldl (fun s h => s.discardShadow c h) s

/-- The collective exchanges one value of each member with every other: BARRIER, STEP_VERDICT, the norm exchange. -/
def Coll.isVote (k : Coll) : Bool := k.op == .barrier || k.op == .verdict || k.op == .norms

/-- Members hold the same S, or the same anchor A_N (R67, R187). -/
def Coll.agree (k : Coll) : Bool :=
  let tail := if k.op = .norms then 24 else 1
  (dedup ((k.vote :: k.votes.map (·.2)).map fun v => v.drop tail)).length ≤ 1

/-- Members are known to hold different values of S or A_N. -/
def Coll.differs (k : Coll) : Bool := k.isVote && !k.agree

/-- The COLL_ABORT of a collective to a rank (R263). Where members disagree in S or A_N its PHASE is that of the exchange, so
that every member faults as an illegal command (R67, R187; log entry 45). -/
def collAbortFrame (s : State) (k : Coll) (m : Nat × Nat) : Frame :=
  { typ := 9, vc := 3, srcDev := s.dev, dstDev := m.1, srcCx := k.cx, dstCx := m.2, job := s.rd R.CX_REMOTE_JOB k.cx,
    accord := k.acc.index, collSeq := k.seq, epoch := k.acc.epoch,
    phase := if k.differs then (if k.op = .norms then 5 else 4) else 0 }

/-- The other members of an accord, by (device, context). -/
def Accord.others (a : Accord) : List (Nat × Nat) :=
  ((List.range a.members.length).zip a.members).filterMap fun p => if p.1 = a.rank then none else some p.2

/-- A collective fails on this member: an abort goes to every other member, and the failure is counted (R263). -/
def State.abortColl (s : State) (k : Coll) : State :=
  let s := { s with colls := s.colls.filter fun x => x.id != k.id }
  let s := s.bump R.CE_STAT_ABORTS
  let s := s.sendFrames (k.acc.others.map (collAbortFrame s k))
  s.rush 5 k.cx 0 0 0 0 80

/-- Release an entry of the stash (R166, R294): its pages leave the window and its counts return to zero. -/
def StashEntry.release (e : StashEntry) : StashEntry :=
  { e with state := .empty, wdone := 0, udone := 0, held := false, reads := 0, recalled := false, near := [], pool := [] }

/-- A slot is pinned for a context: a binding or a dispatched command of it names the slot (R83). -/
def State.pinnedBy (s : State) (c a k : Nat) : Bool :=
  (s.cx c).binds.any (fun b => b.slot == k && b.arrays.contains a) ||
  s.cmds.any (fun x => x.cx == c && x.slot == k && x.arrays.contains a && (opc x.w == 1 || opc x.w == 2 || opc x.w == 3 || opc x.w == 4) &&
    x.phase != .finished)

/-- A slot is pinned (R83). -/
def State.pinned (s : State) (a k : Nat) : Bool := (List.range 16).any fun c => s.pinnedBy c a k

/-- Free what a context holds in an array: its ring rows, rows in flight, and the slots it pinned (R294). -/
def State.clearArray (s : State) (c a : Nat) : State :=
  let p0 := s.pinnedBy c a 0
  let p1 := s.pinnedBy c a 1
  let n := ((s.arr a).ring.filter fun r => r.cx == c).length
  let s := s.updArr a fun x =>
    { x with ring := x.ring.filter fun r => r.cx != c,
             flight := x.flight.filter fun r => r.cx != c,
             slot0 := if p0 then {} else x.slot0,
             slot1 := if p1 then {} else x.slot1 }
  s.count 0x013 a c n

/-- The stream processors bound to a context (R120). -/
def State.boundSps (s : State) (c : Nat) : List Nat := (List.range 32).filter fun n => s.rd R.SP_RING_CTL_CX n == c

/-- The semaphore that print holds of context `c` for print `p` use (R301): context and index. -/
def State.holdSem (s : State) (c p : Nat) : Nat × Nat :=
  let m := s.rd R.CAST_POOLCFG_HOLD_CX 0 c
  (m, (s.rd R.CX_PRINTS_HOLD_SEM m + p % 4) % 256)

/-- An entry keeps a hold on its print: it is in PREFILL, DECODE or PARKED (R301); one that was PARKED in SCORE has given it
back already (log entry 32). -/
def CastEntry.holds (e : CastEntry) : Bool := e.state == 0 || e.state == 1 || (e.state == 3 && e.pstate != 2)

/-- Prints declared by valid entries of a context that keep a hold. -/
def State.heldPrints (s : State) (c : Nat) : List Nat :=
  dedup ((s.cast.filter fun e => e.cx == c && e.holds).map (·.print))

/-- CAST gives back one hold of print `p` made for context `c` (R301). -/
def State.releaseHold (s : State) (c p : Nat) : State :=
  if s.flag R.CAST_POOLCFG_HOLD_EN 0 c then
    let h := s.holdSem c p
    s.setSem h.1 h.2 (s.sem h.1 h.2 - 1)
  else s

/-- The semaphores of a context come back from the store of its take area (R290, R292). -/
def State.semLoad (s : State) (c : Nat) : State :=
  let base := 0x1000 + s.rdAddr R.CX_TAKE_BASE c
  (List.range 256).foldl (fun s i => s.wr R.CX_SEM_VALUE (s.preadNat (base + 8 * i) 4) c i) s

/-- The fault fields of a stream processor at a fault of its context (R293): FAULTED is set on the one whose command
faulted. -/
def State.markSp (s : State) (n : Nat) (c : Cause) (spx : Option (Nat × Nat)) : State :=
  let idx := match spx with
    | some (m, i) => if m = n then i else s.rd R.SP_PTRS_HEAD n
    | none => s.rd R.SP_PTRS_HEAD n
  let s := match spx with
    | some (m, _) => if m = n then s.setFlag R.SP_STATUS_FAULTED true n else s
    | none => s
  let s := s.wr R.SP_STATUS_FAULT_CODE c.code n
  let s := s.wr R.SP_STATUS_FAULT_INDEX idx n
  s.updSp n fun u => { u with wait := none, waitCmd := none, held := false, halted := false }

/-- A frame not yet sent that carries a message or collective data of context `c`. -/
def requestOf (c : Nat) (f : Frame) : Bool :=
  f.srcCx == c && (f.typ == 1 || f.typ == 2 || f.typ == 3 || f.typ == 7 || f.typ == 8)

/-- A context faults: it is torn down at once, in the order of R294, and becomes FAULTED. The stream processor and command
number are those of the faulting command, where there is one. Nothing happens to a context that does not exist. -/
def State.faultCx (s : State) (c : Nat) (k : Cause) (spx : Option (Nat × Nat) := none) : State :=
  if !s.cxLive c then s else
  let s := match k.block with
    | some b => s.uncorrEvent b (some c) false
    | none => s
  let s := if s.semStored c then s.semLoad c else s
  let s := if k.pim then s.bump R.CX_NUMERIC_PIM_REFUSED 1 c else s
  -- 1. dispatch stops
  let s := (s.boundSps c).foldl (fun s n => s.markSp n k spx) s
  -- 3. collectives fail on every member, messages are abandoned
  let s := (s.colls.filter fun x => x.cx == c).foldl (fun s x => s.abortColl x) s
  let s := { s with msgs := s.msgs.filter fun m => m.cx != c, txWait := s.txWait.filter fun f => !requestOf c f }
  -- 5. arrays, then 2. and 4. the commands themselves
  let s := (List.range 8).foldl (fun s a => s.clearArray c a) s
  let s := { s with cmds := s.cmds.filter fun x => x.cx != c }
  let s := s.discardShadows c fun _ => true
  let s := s.updCx c fun x =>
    { x with binds := [], take := {}, rings := [], tiles := [], park := .none,
             stash := { x.stash with entries := x.stash.entries.map StashEntry.release, demand := [] },
             ckpt := { x.ckpt with sends := [], journal := [], sealing := 0, sendOp := false,
                                   held := x.ckpt.held.filter fun h => decide (h.gen ≤ s.rd R.CX_CKPT_STAT_SEALED c) } }
  let s := if s.flag R.CX_CKPT_OPSTAT_BUSY c then (s.setFlag R.CX_CKPT_OPSTAT_BUSY false c).wr R.CX_CKPT_OPSTAT_RESULT 4 c else s
  -- 6. print holds
  let s := (s.heldPrints c).foldl (fun s p => s.releaseHold c p) s
  let s := s.spillGone c
  -- 7. FAULTED
  let s := s.wr R.CX_STATUS_STATE 5 c
  let s := s.setFlag R.CX_STATUS_WAIT_DEAD false c
  let s := s.wr R.CX_STATUS_FAULT_CODE k.code c
  let s := s.wr R.CX_STATUS_FAULT_SP (match spx with | some (n, _) => n | none => 0) c
  let s := s.wr R.CX_FAULT_ADDR (if k.code = 2 ∨ k.code = 3 then k.addr else 0) c
  let s := s.wr R.CX_FAULT_REASON (if k.code = 5 then k.reason else 0) c
  let s := s.msix (s.rd R.CX_CTL_VECTOR c)
  let (n, i) := spx.getD (0, 0)
  let s := s.reelEvent 0x0A (blkIndex .CX + c) c (leBytes 1 k.code ++ leBytes 1 n ++ leBytes 4 i ++ leBytes 8 k.addr)
  let s := s.rush 3 c n 0 0 i k.code
  s.trigger 0 c

/-- A command's context faults on it. -/
def State.faultCmd (s : State) (x : Cmd) (k : Cause) : State := s.faultCx x.cx k (some (x.sp, x.index))

end Sys2Proof.Machine
end

