-- ==== Sys2Proof/Machine/Tensor.lean ====
section
/-! DEFINITION. Tensors in memory: descriptors (R62, R87), T128 storage and the scale plane (R85, R86), exchange rows. -/

namespace Sys2Proof.Machine

/-- The formats a kind admits (R62). -/
def kindAdmits (k : Kind) (f : Fmt) : Bool :=
  match k, f with
  | .w, .e2m1 | .w, .w2 | .w, .e3m2 | .w, .e2m3 | .w, .e4m3 | .w, .e5m2 | .w, .bf16 => true
  | .a, .e2m1 | .a, .e3m2 | .a, .e2m3 | .a, .e4m3 | .a, .e5m2 | .a, .bf16 | .a, .fp32 => true
  | .s, .e2m1 | .s, .e3m2 | .s, .e2m3 | .s, .e4m3 | .s, .e5m2 | .s, .bf16 => true
  | .g, .e2m1 | .g, .e3m2 | .g, .e2m3 | .g, .e4m3 | .g, .e5m2 | .g, .bf16 | .g, .fp32 | .g, .es32 | .g, .es64 => true
  | .m, .e4m3 | .m, .lv8 => true
  | .p, .e2m1 | .p, .w2 | .p, .e3m2 | .p, .e2m3 | .p, .e4m3 | .p, .e5m2 => true
  | _, _ => false

/-- The format carries a stored scale (R60). -/
def Fmt.scaled (f : Fmt) : Bool := f.emax.isSome

/-- An exchange format (R51, R54). -/
def Fmt.isEs (f : Fmt) : Bool := f == .es32 || f == .es64

/-- A descriptor's 32 bytes as a number: the descriptor, or none where R87 or R62 refuses it. -/
def parseDesc (v : Nat) : Option Desc :=
  match Kind.ofCode (bitsAt v 24 3), Fmt.ofCode (bitsAt v 27 4) with
  | some k, some f =>
    let d : Desc := { tid := bitsAt v 0 24, kind := k, fmt := f, b16 := bitAt v 31, quad := bitAt v 32, laxis := bitAt v 33,
                      base := bitsAt v 64 48, sbase := bitsAt v 128 48, rows := bitsAt v 192 32, cols := bitsAt v 224 32 }
    if bitsAt v 34 30 != 0 || bitsAt v 112 16 != 0 || bitsAt v 176 16 != 0 then none
    else if d.b16 && f != .e2m1 then none
    else if d.base % 4096 != 0 || (f.scaled && d.sbase % 64 != 0) then none
    else if d.rows == 0 || d.cols == 0 then none
    else if !kindAdmits k f then none
    else some d
  | _, _ => none

/-- Read and check a tensor descriptor of a context (R87). -/
def State.readDesc (s : State) (c a : Nat) (upd : Option Nat := none) : Res Desc :=
  if a % 32 != 0 then .fault illegal else
  (s.vreadNat c a 32 upd).bind fun v =>
    match parseDesc v with
    | some d => .ok d
    | none => .fault illegal

/-- Block size b of a descriptor (R34). -/
def Desc.b (d : Desc) : Nat := if d.b16 then 16 else 32

/-- The tensor is square-blocked: its kind is W, S, G or P, and it carries scales or is BF16; the block shape of an FP32
tensor governs nothing (R62). -/
def Desc.square (d : Desc) : Bool := (d.kind == .w || d.kind == .s || d.kind == .g || d.kind == .p) && d.fmt != .fp32

/-- T128 blocks in a row of blocks (R85). -/
def Desc.bc (d : Desc) : Nat := ceilDiv d.cols 128

/-- Bytes of a T128 block's elements (R86). -/
def Desc.blockBytes (d : Desc) : Nat := 2048 * d.fmt.bits

/-- Scale bytes of a T128 block (R86). -/
def Desc.scaleBytes (d : Desc) : Nat :=
  if !d.fmt.scaled then 0 else if d.square then (128 / d.b) * (128 / d.b) else 128 * (128 / d.b)

/-- Bytes of one row of an exchange tensor (R51, R54, R85). -/
def Desc.esRowBytes (d : Desc) : Nat := ceilDiv d.cols 32 * (if d.fmt == .es32 then 132 else 260)

/-- Bytes of the element range of a tensor. -/
def Desc.extent (d : Desc) : Nat :=
  if d.fmt.isEs then d.rows * d.esRowBytes else ceilDiv d.rows 128 * d.bc * d.blockBytes

/-- Bytes of the scale plane of a tensor. -/
def Desc.scaleExtent (d : Desc) : Nat := ceilDiv d.rows 128 * d.bc * d.scaleBytes

/-- Address of the bytes of row `r` of the T128 block that holds column `c` (R85). -/
def Desc.rowAddr (d : Desc) (r c : Nat) : Nat :=
  d.base + ((r / 128) * d.bc + c / 128) * d.blockBytes + (r % 128) * (16 * d.fmt.bits)

/-- Address of the scale byte of element (r, c) (R86). -/
def Desc.scaleAddr (d : Desc) (r c : Nat) : Nat :=
  let k := 128 / d.b
  d.sbase + ((r / 128) * d.bc + c / 128) * d.scaleBytes +
    (if d.square then (r % 128 / d.b) * k + c % 128 / d.b
     else if d.laxis then (r % 128 / d.b) * 128 + c % 128
     else (r % 128) * k + c % 128 / d.b)

/-- The codes of a run of packed elements (R28). -/
def unpack (bits : Nat) (bs : List Byte) (i n : Nat) : List Nat :=
  let v := leNat bs
  (List.range n).map fun j => bitsAt v ((i + j) * bits) bits

/-- Pack codes from bit 0 upwards (R28). -/
def pack (bits : Nat) (codes : List Nat) : List Byte :=
  leBytes (ceilDiv (codes.length * bits) 8) (codes.foldr (fun c v => c % 2 ^ bits + v * 2 ^ bits) 0)

/-- The T128 column blocks that columns c0 to c0 + n − 1 touch: (first column, columns) in each. -/
def colRuns : Nat → Nat → Nat → List (Nat × Nat)
  | 0, _, _ => []
  | k + 1, c, n =>
    if n = 0 then [] else
    let room := 128 - c % 128
    if n ≤ room then [(c, n)] else (c, room) :: colRuns k (c + room) (n - room)

/-- Codes of columns c0 to c0 + n − 1 of row r; zero beyond the extent (R85). -/
def State.readCodes (s : State) (cx : Nat) (d : Desc) (r c0 n : Nat) (upd : Option Nat := none) : Res (List Nat) :=
  if d.rows ≤ r then .ok (List.replicate n 0) else
  Res.fold (fun acc (q : Nat × Nat) =>
    let live := min q.2 (d.cols - q.1)
    if live = 0 then .ok (acc ++ List.replicate q.2 0) else
    let off := (q.1 % 128) * d.fmt.bits / 8
    let last := ceilDiv ((q.1 % 128 + live) * d.fmt.bits) 8
    (s.vread cx (d.rowAddr r q.1 + off) (last - off) upd).bind fun bs =>
      -- columns start on a whole byte where c0 is a multiple of 4
      let skip := ((q.1 % 128) * d.fmt.bits - off * 8) / d.fmt.bits
      .ok (acc ++ unpack d.fmt.bits bs skip live ++ List.replicate (q.2 - live) 0)) [] (colRuns (n / 128 + 2) c0 n)

/-- The scale byte of element (r, c): 127, for 2^0, where the format carries none. -/
def State.readScale (s : State) (cx : Nat) (d : Desc) (r c : Nat) (upd : Option Nat := none) : Res Nat :=
  if d.fmt.scaled then s.vreadNat cx (d.scaleAddr r c) 1 upd else .ok 127

/-- The scale bytes of columns c0 to c0 + n − 1 of row r, one per column; equal neighbours are read once. -/
def State.readScales (s : State) (cx : Nat) (d : Desc) (r c0 n : Nat) (upd : Option Nat := none) : Res (List Nat) :=
  if !d.fmt.scaled then .ok (List.replicate n 127)
  else if !d.square && d.laxis then
    Res.mapM (fun j => if d.cols ≤ c0 + j then .ok 127 else s.readScale cx d r (c0 + j) upd) (List.range n)
  else
    let b := d.b
    let g0 := c0 / b
    let gs := (List.range (ceilDiv (c0 + n) b - g0)).map (g0 + ·)
    (Res.mapM (fun g => if d.cols ≤ g * b then .ok 127 else s.readScale cx d r (g * b) upd) gs).bind fun xs =>
      .ok ((List.range n).map fun j => nth 127 xs ((c0 + j) / b - g0))

/-- A state reached and how the writes so far ended: what was written before a fault or a wait stays. -/
abbrev Writing := State × Res Unit

/-- Write bytes, keeping what was written before a fault or a wait. -/
def putBytes (r : Writing) (c va : Nat) (bs : List Byte) (k : WKind) : Writing :=
  match r.2 with
  | .ok _ => if bs.isEmpty then r else r.1.vwriteFrom c va bs k
  | _ => r

/-- Codes with +0 beyond the extent up to the end of the T128 block where the run reaches the last column (R85). -/
def padCodes (d : Desc) (c0 : Nat) (codes : List Nat) : List Nat :=
  if d.cols ≤ c0 + codes.length then codes ++ List.replicate (roundUp (c0 + codes.length) 128 - (c0 + codes.length)) 0 else codes

/-- Write the codes of columns c0 onwards of row r; the first column stands on a whole byte (R85). -/
def putCodes (st : Writing) (cx : Nat) (d : Desc) (r c0 : Nat) (codes : List Nat) (k : WKind) :
    Writing :=
  let all := padCodes d c0 codes
  (colRuns (all.length / 128 + 2) c0 all.length).foldl (fun st (q : Nat × Nat) =>
    putBytes st cx (d.rowAddr r q.1 + (q.1 % 128) * d.fmt.bits / 8) (pack d.fmt.bits ((all.drop (q.1 - c0)).take q.2)) k) st

/-- The rows a write of row r covers: r, and with the tensor's last row those beyond the extent in its T128 block. -/
def Desc.padRows (d : Desc) (r : Nat) : List Nat :=
  if r + 1 = d.rows then (List.range (roundUp d.rows 128 - d.rows)).map (d.rows + ·) else []

/-- Write row r and, with the last row, +0 in the rows beyond the extent (R85). -/
def putRow (st : Writing) (cx : Nat) (d : Desc) (r c0 : Nat) (codes : List Nat) (k : WKind) :
    Writing :=
  let st := putCodes st cx d r c0 codes k
  (d.padRows r).foldl (fun st p => putCodes st cx d p c0 (codes.map fun _ => 0) k) st

/-- Write one scale byte. -/
def putScale (st : Writing) (cx : Nat) (d : Desc) (r c v : Nat) (k : WKind) : Writing :=
  if d.fmt.scaled then putBytes st cx (d.scaleAddr r c) (leBytes 1 v) k else st

/-- Address of the exchange block of column group g of row r (R85). -/
def Desc.esAddr (d : Desc) (r g : Nat) : Nat := d.base + r * d.esRowBytes + g * (if d.fmt == .es32 then 132 else 260)

/-- The exact values of an exchange block, with its anchor (ES64) and members (R51, R54). -/
def esBlockVals (es32 : Bool) (aT : Int) (bs : List Byte) : List Dy × Int × Nat :=
  let v := leNat bs
  if es32 then
    let d := bitsAt v 1024 8
    ((List.range 32).map fun j => ⟨signedOf 32 (bitsAt v (32 * j) 32), aT - d - 30⟩, aT, bitsAt v 1040 16)
  else
    let a := signedOf 16 (bitsAt v 2048 16)
    ((List.range 32).map fun j => ⟨signedOf 64 (bitsAt v (64 * j) 64), a - 35⟩, a, bitsAt v 2064 16)

/-- The byte ranges a tensor occupies: elements and scale plane (R164). -/
def Desc.ranges (d : Desc) : List (Nat × Nat) :=
  if d.fmt.scaled then [(d.base, d.extent), (d.sbase, d.scaleExtent)] else [(d.base, d.extent)]

end Sys2Proof.Machine
end

