-- ==== Sys2Proof/Machine/Sync.lean ====
section
/-! DEFINITION. Semaphores and waits (R147 to R151), health counts and step marks (R66, R76 to R79), and the completion of
a command (R124, R127). -/

namespace Sys2Proof.Machine

/-- Context of a 12-bit semaphore name (R147). -/
def semOwner (n : Nat) : Nat := n / 256 % 16

/-- Index of a 12-bit semaphore name (R147). -/
def semIndex (n : Nat) : Nat := n % 256

/-- A command of context `c` may name the semaphores and version table of context `m` (R147). -/
def State.granted (s : State) (c m : Nat) : Bool := m == c || (s.cxLive m && bitAt (s.rd R.CX_SYNC_GRANT m) c)

/-- Add to a semaphore; none where the sum would pass 0xFFFF_FFFF (R148). -/
def State.post (s : State) (m i v : Nat) : Option State :=
  if s.sem m i + v < 2 ^ 32 then some ((s.setSem m i (s.sem m i + v)).count 0x070 0xFF m 1) else none

-- Steps.

/-- The step is closed for its context: no command of it may be dispatched any more (R67). -/
def State.stepClosed (s : State) (c st : Nat) : Bool :=
  s.isLearn c && (s.cx c).first.isSome && ((s.cx c).closed.contains st || decide (st < (s.cx c).oldest))

/-- The verdict of a step has completed. -/
def Ctx.verdictOf (x : Ctx) (st : Nat) : Option Verdict := x.verdicts.find? fun v => v.step == st

/-- The loss-scale exponent that SEED commands and UPDATEs of a step use: fixed by the verdict of the step before, or by
S_INIT for the first step; none while that verdict is open (R71, R184). -/
def Ctx.sFor (x : Ctx) (st : Nat) : Option Int :=
  if x.first = some st then some x.s0
  else match x.verdicts.find? fun v => v.step + 1 == st with
    | some v => some v.s
    | none => none

/-- An overflow of a LEARN context's command sets the mark of its step (R66). -/
def State.markStep (s : State) (c : Nat) (st : Option Nat) : State :=
  match st with
  | none => s
  | some n =>
    if !s.isLearn c then s
    else if n = (s.cx c).oldest then s.setFlag R.CX_VERDICT_MARK_CUR true c
    else if n = (s.cx c).oldest + 1 then s.setFlag R.CX_VERDICT_MARK_NEXT true c
    else s

/-- A kind whose overflows mark a step (R62). -/
def Kind.marks (k : Kind) : Bool := k == .a || k == .s || k == .g

/-- Counts against a tensor, added to what a command carries (R78). -/
def addCount (l : CountList) (tid : Nat) (c : Counts) : CountList :=
  if tid = 0 || c.none then l
  else match l.find? fun p => p.1 == tid with
    | some _ => replaceFirst (fun p => p.1 == tid) (fun p => (p.1, p.2.add c)) l
    | none => l ++ [(tid, c)]

/-- A command counts events against a tensor of a kind: they join its counts, and an overflow in an A, S or G tensor marks
its step (R64, R66, R76). -/
def State.countFor (s : State) (id : Nat) (tid : Nat) (kind : Kind) (c : Counts) : State :=
  match s.cmd? id with
  | none => s
  | some x =>
    let s := s.updCmd id fun x => { x with counts := addCount x.counts tid c }
    if c.overflow && kind.marks then s.markStep x.cx x.step else s

/-- Add one command's counts to the health table entry of a tensor (R77 to R79). -/
def State.healthAdd (s : State) (c : Nat) (st : Option Nat) (tid : Nat) (k : Counts) : State :=
  let s := s.count 0x0A0 0xFF c k.wlow
  let s := s.count 0x0A1 0xFF c k.sat
  let s := s.count 0x0A2 0xFF c k.nonfin
  if tid = 0 || !s.flag R.CX_HEALTH_EN c then s else
  let a := s.rdAddr R.CX_HEALTH_BASE c + 32 * tid
  if !s.plainWritable c a 32 then s.bump R.CX_HEALTH_DROPPED 1 c else
  match s.vreadNat c a 32 with
  | .ok v =>
    let sat32 (old n : Nat) : Nat := stick 0xFFFFFFFF (old + n)
    let z := sat32 (bitsAt v 0 32) k.zero
    let sa := sat32 (bitsAt v 32 32) (k.sat + 0)
    let nf := sat32 (bitsAt v 64 32) k.nonfin
    let wl := sat32 (bitsAt v 96 32) k.wlow
    let wh := sat32 (bitsAt v 128 32) k.whigh
    let tot := sat32 (bitsAt v 160 32) k.total
    let stuck := bitAt v 192 || [z, sa, nf, wl, wh, tot].any (· == 0xFFFFFFFF)
    let clamp := bitAt v 193 || k.clamp
    let last := if s.isLearn c then st.getD 0 else 0
    let bs := leBytes 4 z ++ leBytes 4 sa ++ leBytes 4 nf ++ leBytes 4 wl ++ leBytes 4 wh ++ leBytes 4 tot ++
      leBytes 4 ((if stuck then 1 else 0) + (if clamp then 2 else 0)) ++ leBytes 4 last
    match s.vwrite c a bs with
    | .ok s' => s'
    | _ => s.bump R.CX_HEALTH_DROPPED 1 c
  | _ => s.bump R.CX_HEALTH_DROPPED 1 c

-- The stash table as the controller writes it.

/-- Code of a stash entry's state (R165). -/
def stashCode : StashState → Nat
  | .empty => 0 | .filling => 1 | .near => 2 | .offloading => 3 | .offloaded => 4 | .recalling => 5

/-- Write the dynamic fields of a stash entry into the table (R162); a table page that cannot be written is left (log entry
11). -/
def State.stashStore (s : State) (c i : Nat) : State :=
  let e := nth default (s.cx c).stash.entries i
  let a := s.rdAddr R.CX_STASH_TABLE_BASE c + 32 * i + 16
  match s.vwrite c a (leBytes 2 (stashCode e.state) ++ leBytes 2 e.wdone ++ leBytes 2 e.udone ++ leBytes 2 0 ++
      leBytes 4 e.admNo ++ leBytes 4 0) with
  | .ok s' => s'
  | _ => s

/-- Change a stash entry and write it out; a change of state is an event of rushes (R340). -/
def State.stashSet (s : State) (c i : Nat) (f : StashEntry → StashEntry) : State :=
  let old := (nth default (s.cx c).stash.entries i).state
  let s := s.updEntry c i f
  let new := (nth default (s.cx c).stash.entries i).state
  let s := s.stashStore c i
  if old = new then s else s.rush 6 c 0 0 0 0 i

/-- A command that touched stash entries has completed: WDONE and UDONE rise, an entry becomes NEAR or is released (R166). -/
def State.stashDone (s : State) (c : Nat) (ts : List Touch) : State :=
  ts.foldl (fun s t =>
    s.stashSet c t.entry fun e =>
      let e := if t.writes then { e with wdone := e.wdone + 1 } else e
      let e := if t.writes && e.wdone == e.writes && e.state == .filling then { e with state := .near } else e
      let e := if t.counted then { e with udone := e.udone + 1, reads := e.reads - 1 } else e
      if t.counted && e.udone == e.uses then e.release else e) s

-- Completion.

/-- The class bit of FENCE that an opcode belongs to (R151); 5 for the synchronisation commands, which no bit covers. -/
def fenceClass (op : Nat) : Nat :=
  if op ≤ 0x05 && 1 ≤ op then 0 else if op == 0x10 || op == 0x11 then 1 else if 0x20 ≤ op && op ≤ 0x24 then 2
  else if 0x30 ≤ op && op ≤ 0x34 then 3 else if 0x40 ≤ op && op ≤ 0x43 then 5 else 4

/-- The header post of a completed command (R124, R148): one that would overflow, or that names an owned semaphore,
faults. -/
def State.headerPost (s : State) (x : Cmd) : State :=
  if !pktBit x.w 8 then s else
  let i := pkt x.w 9 8
  if s.semOwned x.cx i then s.faultCmd x illegal else
  match s.post x.cx i 1 with
  | some s' => s'
  | none => s.faultCmd x illegal

/-- A command completes (R127): its health additions, its stash counts, the unbinding that LAST asks for, then its header
post, then its interrupt. It leaves the list of commands in progress. -/
def State.complete (s : State) (x : Cmd) : State :=
  let s := x.counts.foldl (fun s p => s.healthAdd x.cx x.step p.1 p.2) s
  let s := s.stashDone x.cx x.stash
  let s := if (opc x.w == 2 || opc x.w == 3) && pktBit x.w 154 then
      s.updCx x.cx fun c => { c with binds := c.binds.filter fun b => !(b.handle == pkt x.w 64 6 && b.load == x.source) }
    else s
  let s := { s with cmds := s.cmds.filter fun y => y.id != x.id }
  let s := s.rush 1 x.cx x.sp (opc x.w) (pkt x.w 32 16) x.index (16 + x.sp)
  let s := s.headerPost x
  if s.cxState x.cx == 5 then s
  else if pktBit x.w 18 then s.msix (s.rd R.SP_RING_CTL_VECTOR x.sp) else s

/-- Put a dispatched command on the list of commands in progress. -/
def State.addCmd (s : State) (x : Cmd) : State := { s with cmds := s.cmds ++ [x] }

-- Waits.

/-- Commands of a stream processor that have not completed, other than the one it waits in. -/
def State.earlier (s : State) (sp : Nat) : List Cmd :=
  s.cmds.filter fun x => x.sp == sp && (s.sp sp).waitCmd != some x.id

/-- Address of a version entry (R150). -/
def State.versionAddr (s : State) (m tid : Nat) : Nat := s.rdAddr R.CX_SYNC_VERSION_BASE m + 8 * tid

/-- The last committed print number of a tensor in a context's version table; none where the table cannot be read. -/
def State.version (s : State) (m tid : Nat) : Option Nat :=
  match s.vreadNat m (s.versionAddr m tid) 4 with
  | .ok v => some v
  | _ => none

/-- A wait is satisfied now, leaving aside the order among acquiring waiters (R126, R149 to R151). -/
def State.waitMet (s : State) (sp : Nat) (w : Wait) : Bool :=
  match w with
  | .sem m i v _ _ => decide (v ≤ s.sem m i)
  | .version m tid p _ => s.cxState m != 0 && (match s.version m tid with | some v => decide (p ≤ v) | none => false)
  | .fence k => (s.earlier sp).all fun x => !(k == 0 || bitAt k (fenceClass (opc x.w)))
  | .step n => decide (n ≤ (s.cx (s.rd R.SP_RING_CTL_CX sp)).oldest + 1)

/-- A wait that acquires a semaphore: the semaphore. -/
def Wait.acquires : Wait → Option (Nat × Nat)
  | .sem m i _ true _ => some (m, i)
  | _ => none

/-- A WAIT_VERSION, which is evaluated at COMMITs and polls rather than at every event (R150). -/
def Wait.polled : Wait → Bool
  | .version _ _ _ _ => true
  | _ => false

/-- When a wait began: earlier first, ties by context, then by stream processor (R149). -/
def Wait.since : Wait → Nat
  | .sem _ _ _ _ n => n
  | .version _ _ _ n => n
  | _ => 0

/-- A STEP_BEGIN of a LEARN context copies PIM into PIM_ACTIVE (R59). -/
def State.copyPim (s : State) (c : Nat) : State := s.wr R.CX_NUMERIC_PIM_ACTIVE (s.rd R.CX_NUMERIC_PIM c) c

/-- A wait of context `c` names a context that is gone (R295). -/
def State.deadWait (s : State) (c : Nat) : Bool :=
  (s.boundSps c).any fun n => match (s.sp n).wait with
    | some (.sem o _ _ _ _) => s.cxState o == 0
    | some (.version o _ _ _) => s.cxState o == 0
    | _ => false

/-- WAIT_DEAD goes back to 0 with the last such wait. -/
def State.clearDead (s : State) (c : Nat) : State :=
  if s.flag R.CX_STATUS_WAIT_DEAD c && !s.deadWait c then s.setFlag R.CX_STATUS_WAIT_DEAD false c else s

/-- End the wait of a stream processor; the command it waited in completes. -/
def State.endWait (s : State) (sp : Nat) : State :=
  let u := s.sp sp
  let c := s.rd R.SP_RING_CTL_CX sp
  let s := match u.wait with
    | some (.sem m i v true _) => s.setSem m i (s.sem m i - v)
    | _ => s
  let s := (s.updSp sp fun u => { u with wait := none, waitCmd := none }).clearDead c
  let s := s.count 0x071 0xFF c 1
  let s := s.rush 2 c sp 0 0 (s.rd R.SP_PTRS_HEAD sp) 0
  match u.waitCmd.bind s.cmd? with
  | some x =>
    let s := match u.wait with
      | some (.step n) => (s.copyPim c).updSp sp fun u => { u with step := some n }
      | _ => s
    s.complete x
  | none => s

/-- The stream processors of RESIDENT contexts that wait, in the order in which they began. -/
def State.waiters (s : State) : List (Nat × Wait) :=
  sortBy (fun p => p.2.since) ((List.range 32).filterMap fun n =>
    match (s.sp n).wait with
    | some w => if s.cxState (s.rd R.SP_RING_CTL_CX n) == 3 then some (n, w) else none
    | none => none)

/-- One pass over the waiters: a waiter that acquires is served only if no acquiring waiter of the same semaphore stands
before it (R149). -/
def wakePass : List (Nat × Wait) → List (Nat × Nat) → State → Bool → State × Bool
  | [], _, s, moved => (s, moved)
  | (n, w) :: t, blocked, s, moved =>
    match w.acquires with
    | some k =>
      if blocked.contains k then wakePass t blocked s moved
      else if s.waitMet n w && (s.sp n).wait == some w then wakePass t blocked (s.endWait n) true
      else wakePass t (k :: blocked) s moved
    | none =>
      if s.waitMet n w && (s.sp n).wait == some w then wakePass t blocked (s.endWait n) true
      else wakePass t blocked s moved

/-- Re-evaluate waits until nothing moves: those that do not acquire first, then those that do. The fuel bounds the
rounds: each round that moves something ends at least one of at most 32 waits. -/
def wakeLoop : Nat → State → State
  | 0, s => s
  | k + 1, s =>
    let ws := s.waiters.filter fun p => !p.2.polled
    let r := wakePass ((ws.filter fun p => p.2.acquires.isNone) ++ ws.filter fun p => p.2.acquires.isSome) [] s false
    if r.2 then wakeLoop k r.1 else r.1

/-- Re-evaluate every wait but those of WAIT_VERSION. -/
def State.wake (s : State) : State := wakeLoop 64 s

/-- Evaluate the WAIT_VERSION of a stream processor of a RESIDENT context again (R150); an entry that cannot be read faults the
waiting context (R18), one of a context that is gone leaves it waiting (R295). -/
def State.pollVersion (s : State) (n : Nat) : State :=
  match (s.sp n).wait with
  | some (.version m tid p _) =>
    let c := s.rd R.SP_RING_CTL_CX n
    if s.cxState c != 3 || !s.cxLive m then s else
    match s.vreadNat m (s.versionAddr m tid) 4 with
    | .ok v => if p ≤ v then s.endWait n else s
    | .fault k => s.faultCx c k ((s.sp n).waitCmd.bind s.cmd? |>.map fun x => (x.sp, x.index))
    | .wait => s
  | _ => s

/-- Evaluate the WAIT_VERSIONs that name the table of a context, at a COMMIT by it (R150). -/
def State.pollOwner (s : State) (m : Nat) : State :=
  (List.range 32).foldl (fun s n => match (s.sp n).wait with
    | some (.version o _ _ _) => if o = m then s.pollVersion n else s
    | _ => s) s

/-- The order in which waits begin, as one number (R149). -/
def State.waitOrder (s : State) (sp : Nat) : Nat := s.clock * 1024 + s.rd R.SP_RING_CTL_CX sp * 32 + sp

end Sys2Proof.Machine
end

