-- ==== Sys2Proof/Machine/Stashctl.lean ====
section
/-! DEFINITION. The stash controller of a context: what a command touches, admission, offload and recall (R162 to R175). -/

namespace Sys2Proof.Machine

-- What a command touches.

/-- The window range of an entry: its first address and its bytes. -/
def State.entryRange (s : State) (c : Nat) (e : StashEntry) : Nat × Nat :=
  (s.winBase c + pageBytes * e.woff, pageBytes * e.size)

/-- One of the ranges intersects the entry's window pages (R164). -/
def State.hitsEntry (s : State) (c : Nat) (e : StashEntry) (rs : List (Nat × Nat)) : Bool :=
  let w := s.entryRange c e
  rs.any fun r => overlaps r.1 r.2 w.1 w.2

/-- The stash entries that a command touches, by the ranges it reads and those it writes, with the checks made at dispatch
(R164, R166, R173). -/
def State.touches (s : State) (c : Nat) (reads writes : List (Nat × Nat)) : Res (List Touch) :=
  if !s.flag R.CX_STASH_CTL_EN c then .ok [] else
  Res.fold (fun acc (p : Nat × StashEntry) =>
    if s.hitsEntry c p.2 writes then
      if p.2.state != .empty && p.2.state != .filling then .fault illegal
      else if s.flag R.CX_STASH_CTL_ADMIT_EN c && p.2.state == .empty && !p.2.held then .fault illegal
      else .ok (acc ++ [⟨p.1, true, false⟩])
    else if s.hitsEntry c p.2 reads then
      if p.2.state == .empty then .fault illegal
      else if p.2.state == .filling then .ok acc
      else .ok (acc ++ [⟨p.1, false, true⟩])
    else .ok acc) [] (s.cx c).stash.indexed

-- Admission.

/-- Pages that the micro-batches admitted hold (R172). -/
def Stash.heldPages (t : Stash) : Nat := ((t.entries.filter fun e => e.held).map (·.size)).foldl (· + ·) 0

/-- Pages of the entries of a micro-batch slot. -/
def Stash.footprint (t : Stash) (slot : Nat) : Nat := ((t.entries.filter fun e => e.mb == slot).map (·.size)).foldl (· + ·) 0

/-- The test of an admission of a slot (R172). -/
def State.admissible (s : State) (c slot : Nat) : Bool :=
  let t := (s.cx c).stash
  let mine := t.entries.filter fun e => e.mb == slot
  mine.all (fun e => e.state == .empty && !e.held) &&
  (mine.isEmpty || !(t.entries.any fun e => e.held) ||
    decide (t.footprint slot + t.heldPages ≤ s.rd R.CX_STASH_NEAR_PAGES c + s.rd R.CX_STASH_POOL_PAGES c))

/-- Micro-batch slots: 0 means 256. -/
def State.mbSlots (s : State) (c : Nat) : Nat :=
  if s.rd R.CX_STASH_CTL_MB_SLOTS c = 0 then 256 else s.rd R.CX_STASH_CTL_MB_SLOTS c

/-- The micro-batch slot of the next admission (R172). -/
def State.nextSlot (s : State) (c : Nat) : Nat := (s.cx c).stash.admitted % s.mbSlots c

/-- Grant an admission to a slot: its entries are held, and the admission semaphore takes the number (R172, R173). -/
def State.grantSlot (s : State) (c slot : Nat) : State :=
  let k := (s.cx c).stash.admitted + 1
  let s := s.updCx c fun x =>
    { x with stash := { x.stash with admitted := k, entries := x.stash.entries.map fun e =>
        if e.mb = slot then { e with held := true, admNo := k } else e } }
  if s.flag R.CX_STASH_CTL_ADMIT_EN c then s.setSem c (s.rd R.CX_STASH_CTL_ADMIT_SEM c) (k % 2 ^ 32) else s

/-- A writing command opens the entries it touches that are EMPTY and admitted; with ADMIT_EN = 0 it first asks for the
admission of the slot (R165, R174). -/
def State.openEntry (s : State) (c : Nat) (t : Touch) : State :=
  if !t.writes then s else
  let e := nth default (s.cx c).stash.entries t.entry
  if e.state != .empty then s else
  let s := if !e.held && !s.flag R.CX_STASH_CTL_ADMIT_EN c && s.admissible c e.mb then s.grantSlot c e.mb else s
  if (nth default (s.cx c).stash.entries t.entry).held then s.stashSet c t.entry fun e => { e with state := .filling } else s

/-- A counted read is dispatched: the cursor moves at an entry's first, an offload is cancelled, an offloaded entry is
asked back (R166, R170, R171, R175). -/
def State.countRead (s : State) (c : Nat) (t : Touch) : State :=
  if !t.counted then s else
  let e := nth default (s.cx c).stash.entries t.entry
  let s := if e.reads = 0 ∧ e.udone = 0 then
      s.updCx c fun x => { x with stash := { x.stash with cursor := (e.admNo, e.bord) } } else s
  let s := s.stashSet c t.entry fun e =>
    { e with reads := e.reads + 1, state := if e.state = .offloading then .near else e.state }
  if e.state == .offloaded && !((s.cx c).stash.demand.contains t.entry) then
    s.updCx c fun x => { x with stash := { x.stash with demand := x.stash.demand ++ [t.entry] } }
  else s

/-- What the dispatch of a command does to the entries it touches. -/
def State.stashDispatch (s : State) (c : Nat) (ts : List Touch) : State :=
  ts.foldl (fun s t => (s.openEntry c t).countRead c t) s

/-- The stash lets a dispatched command run: the entries it writes are open, those it reads are NEAR (R166, R174). The
state carries an admission made on the way. -/
def State.stashReady (s : State) (c : Nat) (ts : List Touch) : State × Bool :=
  let s := ts.foldl (fun s t => s.openEntry c t) s
  (s, ts.all fun t =>
    let e := nth default (s.cx c).stash.entries t.entry
    if t.writes then e.state != .empty else e.state == .near || e.state == .filling)

-- Offload and recall.

/-- Free pool pages of the stash of a context. -/
def State.poolFree (s : State) (c : Nat) : Nat := s.rd R.CX_STASH_POOL_PAGES c - (s.cx c).stash.poolUsed

/-- Take a free pool frame of the stash; which one is a free choice (R167). -/
def State.takePool (s : State) (c : Nat) : Option (Nat × State) :=
  if s.poolFree c = 0 then none else
  let (k, s') := s.pick (s.poolFree c)
  (freeFrame (s.cx c).stash.poolFrames (s.rdAddr R.CX_STASH_POOL_BASE c) (s.rd R.CX_STASH_POOL_PAGES c) k 0).map (·, s')

/-- Key order of entries: ADMIT first, then BORD. -/
def keyLt (a b : Nat × Nat) : Bool := decide (a.1 < b.1) || (a.1 == b.1 && decide (a.2 < b.2))

/-- The key of an entry. -/
def StashEntry.key (e : StashEntry) : Nat × Nat := (e.admNo, e.bord)

/-- Begin the offload of an entry: it becomes OFFLOADING (R165, R167). -/
def State.beginOffload (s : State) (c i : Nat) : State := s.stashSet c i fun e => { e with state := .offloading }

/-- Begin a recall: a near page is placed for each page of the pool, and the entry becomes RECALLING (R165, R170). -/
def State.beginRecall (s : State) (c i : Nat) : State :=
  let e := nth default (s.cx c).stash.entries i
  let s := e.pool.foldl (fun s p => match s.takeNear c with
    | some (f, s') => s'.updEntry c i fun e => { e with near := e.near ++ [(p.1, f)] }
    | none => s) s
  let s := s.updCx c fun x => { x with stash := { x.stash with demand := x.stash.demand.filter (· != i) } }
  s.stashSet c i fun e => { e with state := .recalling }

/-- The command whose counted read waits for an entry. -/
def State.readerOf (s : State) (c i : Nat) : Option Cmd :=
  s.cmds.find? fun x => x.cx == c && x.stash.any fun t => t.counted && t.entry == i

/-- The first demand recall is placed, or makes room by an offload, or faults its context (R171). -/
def State.demandTurn (s : State) (c : Nat) : State :=
  let t := (s.cx c).stash
  match t.demand with
  | [] => s
  | i :: _ =>
    if t.entries.any fun e => e.state == .recalling then s else
    let e := nth default t.entries i
    if e.pool.length ≤ s.stashFree c then s.beginRecall c i
    else if t.entries.any fun e => e.state == .offloading then s
    else
      match stashVictim (t.indexed.filter fun p => keyLt e.key p.2.key) with
      | some v =>
        if 0 < s.poolFree c then s.beginOffload c v.1
        else if t.indexed.any fun p => p.1 != i && decide (0 < p.2.reads) then s
        else match s.readerOf c i with
          | some x => s.faultCmd x stashExhausted
          | none => s.faultCx c stashExhausted
      | none =>
        if t.indexed.any fun p => p.1 != i && decide (0 < p.2.reads) then s
        else match s.readerOf c i with
          | some x => s.faultCmd x stashExhausted
          | none => s.faultCx c stashExhausted

/-- An offload begins when the free near pages are fewer than LOW_WATER, or none is left (R167; log entry 13). -/
def State.offloadTurn (s : State) (c : Nat) : State :=
  let t := (s.cx c).stash
  if s.stashFree c < max 1 (s.rd R.CX_STASH_CTL_LOW_WATER c) ∧ !(t.entries.any fun e => e.state == .offloading) ∧
      0 < s.poolFree c then
    match stashVictim t.indexed with
    | some v => s.beginOffload c v.1
    | none => s
  else s

/-- The recall ahead of need of R170. -/
def State.recallTurn (s : State) (c : Nat) : State :=
  let t := (s.cx c).stash
  if !t.demand.isEmpty || t.entries.any (fun e => e.state == .recalling) then s else
  let above := t.indexed.filter fun p => p.2.state == .offloaded && keyLt t.cursor p.2.key
  let least := above.foldl (fun (m : Option (Nat × StashEntry)) p => match m with
    | none => some p
    | some q => if keyLt p.2.key q.2.key then some p else some q) none
  match least with
  | none => s
  | some (i, e) =>
    let ahead := ((t.entries.filter fun x => x.state == .near && x.recalled && x.reads == 0 && x.udone == 0).map
      (·.size)).foldl (· + ·) 0
    if s.rd R.CX_STASH_CTL_LOW_WATER c + e.size ≤ s.stashFree c ∧ ahead + e.size ≤ s.rd R.CX_STASH_CTL_RECALL_PAGES c
    then s.beginRecall c i else s

/-- What the controller of a context begins now; none begins while the context is not RESIDENT. -/
def State.stashTurn (s : State) (c : Nat) : State :=
  if !s.flag R.CX_STASH_CTL_EN c || s.cxState c != 3 then s else
  let s := s.demandTurn c
  if s.cxState c != 3 then s else (s.offloadTurn c).recallTurn c

/-- Every controller begins what it can. -/
def State.stashTurns (s : State) : State := (List.range 16).foldl (fun s c => s.stashTurn c) s

end Sys2Proof.Machine
end

