-- ==== Sys2Proof/Machine/Residency.lean ====
section
/-! DEFINITION. Which contexts are resident: effective priority, parks and restores (R281 to R292). -/

namespace Sys2Proof.Machine

/-- Context `x` has a wait that names context `m` (R283). -/
def State.waitsOn (s : State) (x m : Nat) : Bool :=
  (s.boundSps x).any fun n => match (s.sp n).wait with
    | some (.sem o _ _ _ _) => o == m
    | some (.version o _ _ _) => o == m
    | _ => false

/-- Context `x` donates its priority to context `m` (R283). -/
def State.donates (s : State) (x m : Nat) : Bool :=
  x != m && s.cxLive x && (s.cxState m == 1 || s.cxState m == 4) && s.flag R.CX_CTL_RUN m && s.waitsOn x m

/-- The pairs (donor, donee). -/
def State.donations (s : State) : List (Nat × Nat) :=
  ((List.range 16).filter fun x => s.cxLive x && (s.boundSps x).any fun n => (s.sp n).wait.isSome).flatMap fun x =>
    (((List.range 16).filter fun m => s.donates x m).map fun m => (x, m))

/-- Raise priorities along donations, a number of rounds. -/
def raisePrios (ds : List (Nat × Nat)) : Nat → List Nat → List Nat
  | 0, ps => ps
  | k + 1, ps =>
    raisePrios ds k (ds.foldl (fun ps d => ps.set d.2 (max (nth 0 ps d.2) (nth 0 ps d.1))) ps)

/-- The effective priority of every context (R283). -/
def State.effPrios (s : State) : List Nat :=
  raisePrios s.donations 16 ((List.range 16).map fun c => s.rd R.CX_CTL_PRIO c)

/-- Contexts that inherit from a set of contexts, a number of rounds. -/
def reachFrom (ds : List (Nat × Nat)) : Nat → List Nat → List Nat
  | 0, xs => xs
  | k + 1, xs => reachFrom ds k (dedup (xs ++ (ds.filter fun d => xs.contains d.1).map (·.2)))

/-- The scratch shares of two contexts have a frame in common (R282). -/
def State.conflict (s : State) (c d : Nat) : Bool :=
  c != d && overlaps (s.rd R.CX_SCRATCH_BASE c) (s.rd R.CX_SCRATCH_PAGES c) (s.rd R.CX_SCRATCH_BASE d) (s.rd R.CX_SCRATCH_PAGES d)

/-- The values of a context's semaphores as they stand in the store: 256 entries of 8 bytes (R288). -/
def State.semImage (s : State) (c : Nat) : List Byte :=
  (List.range 256).flatMap fun i => leBytes 8 (s.word (R.CX_SEM_VALUE.addr c i)).toNat

/-- A park is decided: the context becomes PARKING and its semaphores move to the store (R281, R286, R292). -/
def State.parkNow (s : State) (c : Nat) : State :=
  let im := s.semImage c
  let s := s.wr R.CX_STATUS_STATE 4 c
  let s := s.updCx c fun x => { x with park := .none, parkAt := s.clock }
  let s := (s.boundSps c).foldl (fun s n => s.updSp n fun u => { u with held := false, halted := false }) s
  s.pwrite (0x1000 + s.rdAddr R.CX_TAKE_BASE c) im

/-- A park by priority: at once, or at a point of the program with AT_POINT = 1 (R285). -/
def State.parkByPriority (s : State) (c : Nat) : State :=
  if s.flag R.CX_CTL_RUN c && s.flag R.CX_CTL_AT_POINT c then s.updCx c fun x => { x with park := .atPoint } else s.parkNow c

/-- A stream processor has stopped for a park at a point (R285). -/
def State.spStopped (s : State) (n : Nat) : Bool :=
  !s.flag R.SP_RING_CTL_EN n || s.flag R.SP_STATUS_FAULTED n || s.rd R.SP_PTRS_HEAD n == s.rd R.SP_PTRS_TAIL n ||
    (s.sp n).wait.isSome || (s.sp n).held || (s.sp n).halted

/-- Commands that a park stops at a point of their own (R286). -/
def preemptible (op : Nat) : Bool :=
  op == 0x01 || op == 0x02 || op == 0x03 || op == 0x04 || op == 0x10 || op == 0x11 || op == 0x20 || op == 0x21 || op == 0x22

/-- Parks at a point: a processor that stands idle or waits stops, and once all have stopped and every pre-emptible
command has completed the park goes on (R285). -/
def State.pointParks (s : State) : State :=
  (List.range 16).foldl (fun s c =>
    if s.cxState c != 3 || (s.cx c).park != .atPoint then s else
    let s := (s.boundSps c).foldl (fun s n => if s.spStopped n then s.updSp n fun u => { u with halted := true } else s) s
    if (s.boundSps c).all (fun n => (s.sp n).halted) && !(s.cmds.any fun x => x.cx == c && preemptible (opc x.w)) then
      s.parkNow c else s) s

/-- Context `r`, resident, gives way to context `c` (R282). -/
def State.givesWay (s : State) (ps : List Nat) (ds : List (Nat × Nat)) (c r : Nat) : Bool :=
  !s.flag R.CX_CTL_RUN r || (!s.flag R.CX_CTL_NOPREEMPT r && decide (nth 0 ps r < nth 0 ps c)) ||
    (!s.flag R.CX_CTL_NOPREEMPT r && (reachFrom ds 16 [r]).contains c)

/-- Evaluate the conditions of R282 and let the take sequencer begin a restore (R284). -/
def State.residency (s : State) : State :=
  let live := (List.range 16).filter fun c => s.cxLive c
  if live.isEmpty then s else
  let s := live.foldl (fun s c => if s.cxState c == 3 && !s.flag R.CX_CTL_RUN c then s.parkNow c else s) s
  let ps := s.effPrios
  let ds := s.donations
  let want := sortBy (fun c => 15 - nth 0 ps c) (live.filter fun c => s.cxState c == 1 && s.flag R.CX_CTL_RUN c)
  let s := want.foldl (fun s c =>
    let rs := live.filter fun r => s.cxState r == 3 && s.conflict c r
    if rs.all fun r => s.givesWay ps ds c r then
      rs.foldl (fun s r => if (s.cx r).park == .none then s.parkByPriority r else s) s
    else s) s
  let s := s.pointParks
  if live.any fun c => s.cxState c == 4 || s.cxState c == 2 then s else
  match want.find? fun c => !(live.any fun r => (s.cxState r == 3) && s.conflict c r) with
  | some c => (s.wr R.CX_STATUS_STATE 2 c)
  | none => s

-- What a restore still has to reload.

/-- The slot index on which a saved tile can stand now: preferably the one that still holds it READY (R290). -/
def State.reloadSlot (s : State) (t : SavedTile) : Option Nat :=
  let free (k : Nat) : Bool := t.arrays.all fun a => !s.pinned a k
  let same (k : Nat) : Bool := t.arrays.all fun a => ((s.arr a).slot k).state == .ready && ((s.arr a).slot k).tile == t.tile
  match [t.slot % 2, 1 - t.slot % 2].find? fun k => free k && same k with
  | some k => some k
  | none => [0, 1].find? free

/-- Put a saved tile into a slot, and let the handles and commands that name it name that slot. -/
def State.reloadTile (s : State) (c : Nat) (t : SavedTile) (k : Nat) : State :=
  let s := t.arrays.foldl (fun s a => s.updArr a fun x => x.setSlot k { state := .ready, tile := t.tile }) s
  let hit (as : List Nat) (n : Nat) : Bool := as == t.arrays && n == 3 + t.slot
  let s := s.updCx c fun x =>
    { x with tiles := x.tiles.filter (· != t),
             binds := x.binds.map fun b => if hit b.arrays b.slot then { b with slot := k } else b }
  { s with cmds := s.cmds.map fun x => if x.cx = c ∧ hit x.arrays x.slot = true then { x with slot := k } else x }

/-- Reload what can be reloaded: ring images into free rows of their arrays, slot images into free slots (R290). -/
def State.reload (s : State) : State :=
  (List.range 16).foldl (fun s c =>
    if s.cxState c != 3 then s else
    let s := (s.cx c).rings.foldl (fun s (p : Nat × RingRow) =>
      if (s.arr p.1).ring.length < 512 then
        (s.updArr p.1 fun a => { a with ring := a.ring ++ [p.2] }).updCx c fun x => { x with rings := x.rings.erase p }
      else s) s
    (s.cx c).tiles.foldl (fun s t => match s.reloadSlot t with
      | some k => s.reloadTile c t k
      | none => s) s) s

/-- What follows every command at once: waits are evaluated again, takes reload, contexts park or begin a restore, stash
controllers begin offloads and recalls, and frames that a port can take leave. -/
def State.settle (s : State) : State :=
  let s := if s.live then s.wake.reload.residency.stashTurns else s
  if s.portsLive then s.drainTx else s

end Sys2Proof.Machine
end

