-- ==== Sys2Proof/Machine/Streams.lean ====
section
/-! DEFINITION. The dispatch of a stream processor's commands (R120 to R126), and what every dispatched command shares. -/

namespace Sys2Proof.Machine

/-- The operation codes of the table of R125. -/
def listedOpcs : List Nat :=
  [0x00, 0x01, 0x02, 0x03, 0x04, 0x05, 0x10, 0x11, 0x20, 0x21, 0x22, 0x23, 0x24, 0x30, 0x31, 0x32, 0x33, 0x34,
   0x40, 0x41, 0x42, 0x43, 0x50, 0x51, 0x52, 0x53, 0x54, 0x55, 0x60]

/-- Entries of a ring: LOG2_SIZE outside 6 to 20 acts as 6 (R123). -/
def State.ringSize (s : State) (n : Nat) : Nat :=
  let l := s.rd R.SP_RING_CTL_LOG2_SIZE n
  if 6 ≤ l ∧ l ≤ 20 then 2 ^ l else 64

/-- The context that a stream processor is bound to. -/
def State.cxOf (s : State) (n : Nat) : Nat := s.rd R.SP_RING_CTL_CX n

/-- A stream processor can dispatch: the block is READY and not cut, fetch is enabled, its context is RESIDENT, a command
is available, and no wait holds it back (R120, R126, R281). -/
def State.canDispatch (s : State) (n : Nat) : Bool :=
  s.live && s.flag R.SP_RING_CTL_EN n && !s.flag R.SP_STATUS_FAULTED n && s.cxState (s.cxOf n) == 3 &&
    s.rd R.SP_PTRS_HEAD n != s.rd R.SP_PTRS_TAIL n && (s.sp n).wait.isNone && !(s.sp n).halted && !s.testing 49 n

/-- Address of the ring entry at HEAD (R120). -/
def State.entryAddr (s : State) (n : Nat) : Nat :=
  s.rdAddr R.SP_RING_BASE_BASE n + 64 * (s.rd R.SP_PTRS_HEAD n % s.ringSize n)

/-- The command at HEAD, read from the usable near tier; elsewhere a page fault (R120). -/
def State.fetch (s : State) (n : Nat) : Res Packet :=
  let va := s.entryAddr n
  (s.readAt (s.cxOf n) va).bind fun a =>
    if !s.inNear a 64 then .fault (pageFault va) else
    match s.badIn a 64 with
    | some b => .fault (uncorrectable va b)
    | none => .ok (BitVec.ofNat 512 (s.preadNat a 64))

/-- The header's reserved bits are zero (R124, R89). -/
def headerOk (w : Packet) : Bool := pkt w 19 13 == 0 && pkt w 48 16 == 0

/-- Reserved bit ranges of a command, each a first bit and a width, are all zero. -/
def rsvZero (w : Packet) (rs : List (Nat × Nat)) : Bool := rs.all fun r => pkt w r.1 r.2 == 0

/-- A command of a stream processor as it would be dispatched now. -/
def State.newCmd (s : State) (n : Nat) (w : Packet) : Cmd :=
  { id := s.nextCmd, sp := n, cx := s.cxOf n, index := s.rd R.SP_PTRS_HEAD n, w := w, step := (s.sp n).step,
    conv := (s.sp n).conv, seed := s.rd R.CX_SEED (s.cxOf n), 
    mask := s.rd R.CX_ARRAYS_MASK (s.cxOf n) + 256 * s.rd R.CX_ARRAYS_PLACE_FIXED (s.cxOf n) }

/-- Mark or unmark that the command at HEAD is held back. -/
def State.setHeld (s : State) (n : Nat) (b : Bool) : State := s.updSp n fun u => { u with held := b }

/-- What every dispatch does: HEAD counts, the number is taken, rushes record it, and a matching TAG triggers (R120, R340,
R343). -/
def State.dispatched (s : State) (x : Cmd) : State :=
  let s := (s.setHeld x.sp false).cacheTables x.cx
  let s := s.wr R.SP_PTRS_HEAD (x.index + 1) x.sp
  let s := { s with nextCmd := s.nextCmd + 1 }
  let s := s.rush 0 x.cx x.sp (opc x.w) (pkt x.w 32 16) x.index (16 + x.sp)
  let mask := s.rd R.DBG_RUSH_TRIG_TAG_MASK
  if (pkt x.w 32 16).land mask = s.rd R.DBG_RUSH_TRIG_TAG then s.trigger 1 x.cx else s

/-- Dispatch the command at HEAD of stream processor `n` if its row of the table is the one asked for. `prep` makes the
checks and reads of the dispatch and fills in the command; `run` is what the dispatch does. A fault tears the context down
before HEAD counts; a wait leaves the command at HEAD. -/
def dispatch (n : Nat) (want : Packet → Bool) (prep : State → Cmd → Res Cmd) (run : State → Cmd → State) (s : State) :
    State :=
  if !s.canDispatch n then s else
  let c := s.cxOf n
  let here := some (n, s.rd R.SP_PTRS_HEAD n)
  match s.fetch n with
  | .fault k => (s.faultCx c k here).settle
  | .wait => s
  | .ok w =>
    if !listedOpcs.contains (opc w) then (s.faultCx c illegal here).settle
    else if !want w then s
    else if !headerOk w then (s.faultCx c illegal here).settle
    else if pktBit w 17 && !(s.earlier n).isEmpty then s.setHeld n true
    else
      let x := s.newCmd n w
      if opc w != 0x51 && x.step.any fun st => s.stepClosed c st then
        (s.faultCx c illegal here).settle
      else match prep s x with
        | .fault k => (s.faultCx c k here).settle
        | .wait => s.setHeld n true
        | .ok x => (run (s.dispatched x) x).settle

/-- A command that completes at dispatch. -/
def completeNow (s : State) (x : Cmd) : State := s.complete x

/-- A command that joins the commands in progress, with what its dispatch does to the stash. -/
def enqueue (s : State) (x : Cmd) : State := (s.addCmd x).stashDispatch x.cx x.stash

/-- Begin a wait of a stream processor, unless it is met at once (R126). The command completes when the wait ends. -/
def beginWait (s : State) (x : Cmd) (w : Wait) : State :=
  let s := s.addCmd x
  let s := s.updSp x.sp fun u => { u with wait := some w, waitCmd := some x.id }
  if w.polled then s.pollVersion x.sp else s

/-- A command does not go on while its context is not RESIDENT, or the block is not READY or is cut. -/
def State.cmdRuns (s : State) (x : Cmd) : Bool := s.live && s.cxState x.cx == 3

/-- Commands of an array's queue that have been dispatched and not begun; each queue holds 16 (R122). -/
def State.queueFull (s : State) (a : Nat) (side : List Nat) : Bool :=
  decide (16 ≤ (s.cmds.filter fun x => side.contains (opc x.w) && x.arrays.contains a && x.phase == .queued).length)

/-- The binding of a handle of a context (R82). -/
def State.binding (s : State) (c h : Nat) : Option Binding := (s.cx c).binds.find? fun b => b.handle == h

/-- The binding that a command naming a handle takes at its dispatch: an unbound handle is illegal, and one whose WLOAD
has not been placed is waited for (R82). -/
def State.takeBinding (s : State) (c h : Nat) : Res Binding :=
  match s.binding c h with
  | none => .fault illegal
  | some b =>
    match s.cmd? b.load with
    | some x => if x.phase = .placing then .wait else .ok b
    | none => .ok b

/-- A rule of partition-invariant mode: a breach is illegal and is counted (R58). -/
def State.pimCheck (s : State) (c : Nat) (ok : Bool) : Res Unit :=
  Res.check (!s.flag R.CX_NUMERIC_PIM_ACTIVE c || ok) { illegal with pim := true }

end Sys2Proof.Machine
end

