-- ==== Sys2Proof/Machine/Arrays.lean ====
section
/-! DEFINITION. The load side and the stream side of the arrays: WLOAD, STREAM, WGRAD, CONVGEN, placement, loading, row
entry and ring arrival (04_matrix_arrays.md). -/

namespace Sys2Proof.Machine

-- Gangs, slots, tiles.

/-- The sets of arrays that a gang of 2^g may use (R13). -/
def gangSets (g : Nat) : List (List Nat) :=
  match g with
  | 0 => (List.range 8).map fun a => [a]
  | 1 => [[0, 1], [2, 3], [4, 5], [6, 7]]
  | _ => [[0, 1, 2, 3], [4, 5, 6, 7]]

/-- The arrays of a mask. -/
def maskArrays (m : Nat) : List Nat := (List.range 8).filter fun a => bitAt m a

/-- The mask of a list of arrays. -/
def arraysMask (l : List Nat) : Nat := (l.map fun a => 2 ^ a).foldl (· + ·) 0

/-- The formats of a stationary tile: FMT 0 to 6 (R91). -/
def Fmt.tiles : Fmt → Bool
  | .lv8 | .fp32 | .es32 | .es64 => false
  | _ => true

/-- The identity of the tile that a WLOAD names (R90, R92). -/
def tileOf (x : Cmd) (d : Desc) : Tile :=
  { cx := x.cx, addr := pkt x.w 96 48, desc := d, orgRow := pkt x.w 144 32, orgCol := pkt x.w 176 32,
    extRow := pkt x.w 208 11, extCol := pkt x.w 219 10, version := pkt x.w 256 32 }

/-- Two tiles that REUSE takes for one (R92). -/
def Tile.same (a b : Tile) : Bool :=
  a.cx == b.cx && a.addr == b.addr && a.orgRow == b.orgRow && a.orgCol == b.orgCol && a.extRow == b.extRow &&
    a.extCol == b.extCol && a.desc.fmt == b.desc.fmt && a.version == b.version

/-- A slot index that satisfies a WLOAD by REUSE on a set of arrays (R92). -/
def State.reuseSlot (s : State) (x : Cmd) (members : List Nat) : Option Nat :=
  if !pktBit x.w 80 then none else
  [0, 1].find? fun k => members.all fun a =>
    s.flag R.MA_WLOAD_CFG_REUSE_EN a && !s.pinned a k && ((s.arr a).slot k).state == .ready &&
      ((s.arr a).slot k).tile.same (tileOf x x.desc)

/-- The slot index that a load takes on a set of arrays: unpinned in every member, one that is EMPTY in every member before
one that is not, slot 0 before slot 1 (R113, R118). -/
def State.freeSlot (s : State) (members : List Nat) : Option Nat :=
  let ok := [0, 1].filter fun k => members.all fun a => !s.pinned a k
  match ok.find? fun k => members.all fun a => ((s.arr a).slot k).state == .empty with
  | some k => some k
  | none => ok.head?

/-- A WLOAD's slot is known: its binding and the commands that took the binding name it (R82). -/
def State.assignSlot (s : State) (c id : Nat) (members : List Nat) (k : Nat) : State :=
  let s := s.updCx c fun x =>
    { x with binds := x.binds.map fun b => if b.load = id then { b with arrays := members, slot := k } else b }
  { s with cmds := s.cmds.map fun y =>
      if y.id = id ∨ (y.source = id ∧ y.cx = c) then { y with arrays := members, slot := k } else y }

-- WLOAD.

/-- The checks of a WLOAD at dispatch (R89 to R91, R119). -/
def prepWload (s : State) (x : Cmd) : Res Cmd :=
  let w := x.w
  let g := pkt w 70 2
  let named := pkt w 72 8
  let members := maskArrays named
  let er := pkt w 208 11
  let ec := pkt w 219 10
  (Res.check (rsvZero w [(83, 13), (229, 27), (288, 224)] && g != 3 &&
    (named == 0 || ((gangSets g).contains members && named.land (x.mask % 256) == named))) illegal).bind fun _ =>
  (s.readDesc x.cx (pkt w 96 48)).bind fun d =>
  (Res.check (d.square && d.fmt.tiles && decide (1 ≤ er) && decide (er ≤ (if d.fmt = .w2 then 1792 else 896)) &&
    decide (1 ≤ ec) && decide (ec ≤ 896) && pkt w 144 32 % d.b == 0 && pkt w 176 32 % d.b == 0) illegal).bind fun _ =>
  (s.touches x.cx d.ranges []).bind fun ts =>
  if members.any fun a => s.queueFull a [1] then .wait
  else .ok { x with desc := d, arrays := members, stash := ts, phase := if named = 0 then .placing else .queued }

/-- A WLOAD whose tile stands in a slot already: the slot is bound and pinned, and the command is done (R92). -/
def State.satisfyReuse (s : State) (x : Cmd) (members : List Nat) (k : Nat) : State :=
  let s := s.assignSlot x.cx x.id members k
  let s := s.updCmd x.id fun y => { y with phase := .finished }
  members.foldl (fun s a => s.count 0x012 a x.cx 1) s

/-- A WLOAD is dispatched: it binds its handle, and REUSE may satisfy it (R82, R92). -/
def runWload (s : State) (x : Cmd) : State :=
  let s := enqueue s x
  let h := pkt x.w 64 6
  let s := s.updCx x.cx fun c =>
    { c with binds := (c.binds.filter fun b => b.handle != h) ++ [⟨h, x.id, x.arrays, 2, tileOf x x.desc⟩] }
  if x.phase = .placing then s else
  match s.reuseSlot x x.arrays with
  | some k => s.satisfyReuse x x.arrays k
  | none => s

/-- WLOAD. -/
def execWload (sp : Fin 32) (s : State) : Host.Outcome State Fault Refusal :=
  .next (dispatch sp (fun w => opc w == 0x01) prepWload runWload s)

-- Placement (R118).

/-- Scratch bank of a device-physical address. -/
def scratchBank (a : Nat) : Nat := (a - scratchBase) / 0x1000000

/-- The T128 blocks that a tile covers, as device addresses of the context and bytes. -/
def Tile.blocks (t : Tile) : List (Nat × Nat) :=
  let d := t.desc
  let r1 := min (t.orgRow + t.extRow) d.rows
  let c1 := min (t.orgCol + t.extCol) d.cols
  let rows := (List.range (ceilDiv r1 128 - t.orgRow / 128)).map (t.orgRow / 128 + ·)
  let cols := (List.range (ceilDiv c1 128 - t.orgCol / 128)).map (t.orgCol / 128 + ·)
  rows.flatMap fun r => cols.map fun c => (d.base + (r * d.bc + c) * d.blockBytes, d.blockBytes)

/-- Bytes of a tile's source that lie in the scratch banks beside the arrays of a set. -/
def State.besideBytes (s : State) (t : Tile) (members : List Nat) : Nat :=
  (t.blocks.map fun q => match s.readAt t.cx q.1 with
    | .ok a => if scratchBase ≤ a ∧ members.contains (scratchBank a / 2) = true then q.2 else 0
    | _ => 0).foldl (· + ·) 0

/-- Bytes of READY tiles in the slots of a set that could later satisfy REUSE for a context. -/
def State.reusableBytes (s : State) (c : Nat) (members : List Nat) : Nat :=
  ((members.flatMap fun a => [(s.arr a).slot0, (s.arr a).slot1]).map fun x =>
    if x.state = .ready ∧ x.tile.cx = c then x.tile.extRow * x.tile.extCol * x.tile.desc.fmt.bits / 8 else 0).foldl (· + ·) 0

/-- Rows queued on the stream sides of a set. -/
def State.queuedRows (s : State) (members : List Nat) : Nat :=
  ((s.cmds.filter fun y => (opc y.w == 2 || opc y.w == 3) && y.arrays.any fun a => members.contains a).map fun y =>
    pkt y.w 192 32 - y.pos).foldl (· + ·) 0

/-- The rank of a candidate in the order of R118, as numbers to compare in turn: smaller is better. -/
def State.placeRank (s : State) (x : Cmd) (members : List Nat) : List Nat :=
  let reuse := if (s.reuseSlot x members).isSome then 0 else 1
  if bitAt x.mask 8 then [reuse]
  else [reuse, 2 ^ 40 - s.besideBytes (tileOf x x.desc) members, s.reusableBytes x.cx members, s.queuedRows members]

/-- Order of ranks. -/
def rankLt : List Nat → List Nat → Bool
  | a :: s, b :: t => decide (a < b) || (a == b && rankLt s t)
  | _, _ => false

/-- The set of arrays on which a WLOAD is placed now; none while no set has a free slot index (R118). -/
def State.placeOn (s : State) (x : Cmd) : Option (List Nat) :=
  let cands := (gangSets (pkt x.w 70 2)).filter fun m =>
    (arraysMask m).land (x.mask % 256) == arraysMask m && (s.freeSlot m).isSome
  cands.foldl (fun best m => match best with
    | none => some m
    | some b => if rankLt (s.placeRank x m) (s.placeRank x b) then some m else some b) none

/-- A WLOAD is placed: on a tile that REUSE finds, or on a free slot (R118). -/
def placeWload (s : State) (id : Nat) : State :=
  match s.cmd? id with
  | none => s
  | some x =>
    if x.phase ≠ .placing ∨ s.cmdRuns x = false then s else
    match s.placeOn x with
    | none => s
    | some m =>
      let s := s.updCmd id fun y => { y with phase := .queued, arrays := m }
      match s.reuseSlot x m with
      | some k => (s.satisfyReuse x m k).settle
      | none =>
        match s.freeSlot m with
        | some k => (s.assignSlot x.cx id m k).settle
        | none => s

/-- PLACEMENT. -/
def execPlacement (id : Nat) (s : State) : Host.Outcome State Fault Refusal := .next (placeWload s id)

-- Loading.

/-- A WLOAD stands at the head of the load side of each of its arrays, and no load is in progress there (R88). -/
def State.loadHead (s : State) (x : Cmd) : Bool :=
  (s.cmds.filter fun y => opc y.w == 1 && y.phase != .finished && y.phase != .placing &&
    y.arrays.any fun a => x.arrays.contains a).head?.any fun y => y.id == x.id

/-- Begin writing a slot: it becomes LOADING in every array of the gang (R81, R84, R113). -/
def State.beginLoad (s : State) (x : Cmd) (k : Nat) : State :=
  let s := s.assignSlot x.cx x.id x.arrays k
  let s := s.updCmd x.id fun y => { y with phase := .running }
  x.arrays.foldl (fun s a => s.updArr a fun r =>
    { (r.setSlot k { state := .loading, tile := tileOf x x.desc }) with lastSlot := k }) s

/-- A WLOAD whose turn has come begins when its slot is available (R84); REUSE may still satisfy it. -/
def beginWload (s : State) (id : Nat) : State :=
  match s.cmd? id with
  | none => s
  | some x =>
    if opc x.w ≠ 1 ∨ x.phase ≠ .queued ∨ s.cmdRuns x = false ∨ s.loadHead x = false then s else
    match s.stashReady x.cx x.stash with
    | (s, false) => s
    | (s, true) =>
      if x.slot < 2 then (s.beginLoad x x.slot).settle
      else match s.reuseSlot x x.arrays with
        | some k => (s.satisfyReuse x x.arrays k).settle
        | none => match s.freeSlot x.arrays with
          | some k => (s.beginLoad x k).settle
          | none => s.settle

/-- WLOAD_BEGIN. -/
def execWloadBegin (id : Nat) (s : State) : Host.Outcome State Fault Refusal := .next (beginWload s id)

/-- A tile row r, column c lies within the tensor's extent. -/
def Tile.inside (t : Tile) (r c : Nat) : Bool := decide (t.orgRow + r < t.desc.rows) && decide (t.orgCol + c < t.desc.cols)

/-- The scale byte of tile element (r, c): 127 where the format carries none. -/
def Tile.scale (t : Tile) (r c : Nat) : Nat :=
  if t.desc.fmt.scaled then nth 127 (nth [] t.scales (r / t.desc.b)) (c / t.desc.b) else 127

/-- The value of tile element (r, c), unscaled; +0 beyond the tensor (R91). -/
def Tile.elem (t : Tile) (r c : Nat) : FV :=
  if t.inside r c then elemValue t.desc.fmt t.desc.quad (nth 0 (nth [] t.codes r) c) else .num false 0 0

/-- Tile element (r, c) counts as non-finite where it is read from memory (R31). -/
def Tile.nonfin (t : Tile) (r c : Nat) : Bool := t.inside r c && ((t.elem r c).finite == false || t.scale r c == 0xFF)

/-- Read a tile from memory: its codes and its square scales (R80, R86). -/
def State.readTile (s : State) (t : Tile) : Res Tile :=
  let d := t.desc
  (Res.mapM (fun r => s.readCodes t.cx d (t.orgRow + r) t.orgCol t.extCol) (List.range t.extRow)).bind fun codes =>
  if !d.fmt.scaled then .ok { t with codes := codes } else
  (Res.mapM (fun i => Res.mapM (fun j =>
      if d.rows ≤ t.orgRow + i * d.b ∨ d.cols ≤ t.orgCol + j * d.b then .ok 127
      else s.readScale t.cx d (t.orgRow + i * d.b) (t.orgCol + j * d.b))
    (List.range (ceilDiv t.extCol d.b))) (List.range (ceilDiv t.extRow d.b))).bind fun sc =>
  .ok { t with codes := codes, scales := sc }

/-- Elements of a tile that count as non-finite. -/
def Tile.nonfinCount (t : Tile) : Nat :=
  ((List.range t.extRow).map fun r => ((List.range t.extCol).filter fun c => t.nonfin r c).length).foldl (· + ·) 0

/-- The last bytes and scales of a tile land: the slot becomes READY in every array of the gang (R81, R93). The load reads
its source here (log entry 14). -/
def commitSlot (s : State) (id : Nat) : State :=
  match s.cmd? id with
  | none => s
  | some x =>
    if opc x.w ≠ 1 ∨ x.phase ≠ .running ∨ s.cmdRuns x = false then s else
    match s.readTile (tileOf x x.desc) with
    | .wait => s
    | .fault k => (s.faultCmd x k).settle
    | .ok t =>
      let s := x.arrays.foldl (fun s a => (s.updArr a fun r => r.setSlot x.slot { state := .ready, tile := t }).count 0x011 a x.cx 1) s
      let s := s.updCmd id fun y => { y with phase := .finished }
      (s.countFor id x.desc.tid x.desc.kind { nonfin := t.nonfinCount }).settle

/-- SLOT_COMMIT. -/
def execSlotCommit (id : Nat) (s : State) : Host.Outcome State Fault Refusal := .next (commitSlot s id)

-- Convolution by address generation (R114, R115).

/-- The window height and width of generated rows. -/
def Conv.outH (v : Conv) : Nat := ((v.inH - 1) * v.uh + 1 + v.pt + v.pb - v.dh * (v.kh - 1) - 1) / v.sh + 1

/-- The window width of generated rows. -/
def Conv.outW (v : Conv) : Nat := ((v.inW - 1) * v.uw + 1 + v.pl + v.pq - v.dw * (v.kw - 1) - 1) / v.sw + 1

/-- The window fits the input at least once in both directions. -/
def Conv.fits (v : Conv) : Bool :=
  decide (v.dh * (v.kh - 1) + 1 ≤ (v.inH - 1) * v.uh + 1 + v.pt + v.pb) &&
  decide (v.dw * (v.kw - 1) + 1 ≤ (v.inW - 1) * v.uw + 1 + v.pl + v.pq)

/-- Source row and column of element k of generated row g, over C channels; none where it is zero by padding or insertion. -/
def Conv.locate (v : Conv) (c g k : Nat) : Option (Nat × Nat) :=
  let n := g / (v.outH * v.outW)
  let oh := g / v.outW % v.outH
  let ow := g % v.outW
  let pos := k / c
  let y : Int := (oh * v.sh + pos / v.kw * v.dh : Nat) - (v.pt : Int)
  let x : Int := (ow * v.sw + pos % v.kw * v.dw : Nat) - (v.pl : Int)
  if y < 0 ∨ x < 0 then none else
  let y := y.toNat
  let x := x.toNat
  if (v.inH - 1) * v.uh + 1 ≤ y ∨ (v.inW - 1) * v.uw + 1 ≤ x ∨ y % v.uh ≠ 0 ∨ x % v.uw ≠ 0 then none
  else some (n * v.inH * v.inW + y / v.uh * v.inW + x / v.uw, k % c)

/-- The fields of CONVGEN. -/
def convOf (w : Packet) : Conv :=
  { inH := pkt w 64 16, inW := pkt w 80 16, kh := pkt w 96 4, kw := pkt w 100 4, sh := pkt w 104 4, sw := pkt w 108 4,
    dh := pkt w 112 4, dw := pkt w 116 4, pt := pkt w 120 4, pb := pkt w 124 4, pl := pkt w 128 4, pq := pkt w 132 4,
    uh := pkt w 136 4, uw := pkt w 140 4 }

/-- The checks of CONVGEN: only the four zero borders may be 0 (R114). -/
def prepConvgen (_ : State) (x : Cmd) : Res Cmd :=
  let v := convOf x.w
  (Res.check (rsvZero x.w [(144, 368)] &&
    [v.inH, v.inW, v.kh, v.kw, v.sh, v.sw, v.dh, v.dw, v.uh, v.uw].all (· != 0)) illegal).bind fun _ => .ok x

/-- CONVGEN sets the generator of its stream processor and completes. -/
def runConvgen (s : State) (x : Cmd) : State :=
  completeNow (s.updSp x.sp fun u => { u with conv := some (convOf x.w) }) x

/-- CONVGEN. -/
def execConvgen (sp : Fin 32) (s : State) : Host.Outcome State Fault Refusal :=
  .next (dispatch sp (fun w => opc w == 0x05) prepConvgen runConvgen s)

-- STREAM and WGRAD at dispatch.

/-- The command is a WGRAD. -/
def Cmd.wgrad (x : Cmd) : Bool := opc x.w == 3

/-- The command flows along axis T. -/
def Cmd.axisT (x : Cmd) : Bool := !x.wgrad && pktBit x.w 70

/-- The command is a STREAM of the input gradient. -/
def Cmd.igrad (x : Cmd) : Bool := opc x.w == 2 && pkt x.w 71 3 == 1

/-- Where streamed rows come from: 0 range, 1 list, 2 generator; a WGRAD's is a range (R96, R110). -/
def Cmd.rowsrc (x : Cmd) : Nat := if x.wgrad then 0 else pkt x.w 78 2

/-- The mask mode of a WGRAD (R110). -/
def Cmd.maskMode (x : Cmd) : Nat := if x.wgrad then pkt x.w 78 2 else 0

/-- What a command covers through its tile (R95): reduction range [k0, k1), first output column, number of output columns. -/
structure Geo where
  k0   : Nat
  k1   : Nat
  oc0  : Nat
  nout : Nat
deriving DecidableEq, Repr

/-- The column origin of the bin (R95). -/
def Geo.col0 (g : Geo) : Nat := g.oc0 / 32 * 32

/-- The geometry of a command through a tile; HALF moves the output origin by 896 tile rows (log entry 15). -/
def geoOf (x : Cmd) (t : Tile) : Geo :=
  if x.axisT then
    let half := pkt x.w 77 1
    let n := t.extRow - 896 * half
    { k0 := t.orgCol, k1 := t.orgCol + t.extCol, oc0 := t.orgRow + 896 * half, nout := if n < 896 then n else 896 }
  else { k0 := t.orgRow, k1 := t.orgRow + t.extRow, oc0 := t.orgCol, nout := t.extCol }

/-- KRED0 and KLEN. -/
def Cmd.kred0 (x : Cmd) : Nat := pkt x.w 256 32

/-- The declared length. -/
def Cmd.klen (x : Cmd) : Nat := pkt x.w 288 32

/-- The checks of R115 on the window of a generated source. -/
def convOk (x : Cmd) (src : Desc) : Bool :=
  if x.rowsrc ≠ 2 then true else
  match x.conv with
  | none => false
  | some v =>
    src.cols % src.b == 0 && src.rows % (v.inH * v.inW) == 0 && v.fits &&
      decide (x.kred0 + x.klen ≤ v.kh * v.kw * src.cols)

/-- The operand checks of a STREAM or WGRAD against its tile (R35, R36, R95, R97, R110, R156). -/
def operandsOk (x : Cmd) (t : Tile) (src : Desc) : Bool :=
  let g := geoOf x t
  let b16 := src.b16 || t.desc.b16
  (if x.wgrad then t.desc.kind == .g && src.kind == .s
   else !x.igrad || (src.kind == .g && (t.desc.kind == .w || t.desc.kind == .p))) &&
  (src.square || !src.fmt.scaled || !src.laxis) &&
  (pairEf src.fmt t.desc.fmt t.desc.quad b16).isSome && src.fmt != .w2 &&
  (x.wgrad || pkt x.w 77 1 == 0 || (x.axisT && t.desc.fmt == .w2)) && convOk x src &&
  decide (x.kred0 ≤ g.k0) && decide (g.k1 ≤ x.kred0 + x.klen) && decide (g.oc0 - g.col0 + g.nout ≤ 896)

/-- The field checks of a STREAM (R94, R97). -/
def streamFieldsOk (w : Packet) : Bool :=
  let p := pkt w 71 3
  rsvZero w [(155, 5), (480, 32)] && (p == 0 || p == 1 || p == 3 || p == 4) && pkt w 74 2 != 3 && pkt w 78 2 != 3 &&
  (p != 1 || pktBit w 70) && (p != 3 || pkt w 78 2 == 1)

/-- The field checks of a WGRAD (R110). -/
def wgradFieldsOk (w : Packet) : Bool :=
  rsvZero w [(155, 5), (480, 32), (70, 1), (71, 3), (77, 1)] && pkt w 74 2 != 3 && pkt w 78 2 != 3

/-- The field checks that STREAM and WGRAD share (R94, R40, R104). -/
def rowFieldsOk (w : Packet) : Bool :=
  pkt w 128 24 != 0 && pkt w 192 32 != 0 && pkt w 288 32 != 0 && decide (pkt w 288 32 ≤ 2 ^ 31) && pkt w 432 48 % 64 == 0

/-- The checks of a STREAM or WGRAD at dispatch. -/
def prepRows (fieldsOk : Packet → Bool) (s : State) (x : Cmd) : Res Cmd :=
  (Res.check (fieldsOk x.w && rowFieldsOk x.w) illegal).bind fun _ =>
  (s.takeBinding x.cx (pkt x.w 64 6)).bind fun b =>
  (s.readDesc x.cx (pkt x.w 80 48)).bind fun d =>
  (s.pimCheck x.cx (x.kred0 % 32 == 0)).bind fun _ =>
  (Res.check (operandsOk x b.tile d && (arraysMask b.arrays).land (x.mask % 256) == arraysMask b.arrays) illegal).bind fun _ =>
  (s.touches x.cx d.ranges []).bind fun ts =>
  if b.arrays.any fun a => s.queueFull a [2, 3] then .wait
  else .ok { x with desc := d, desc2 := b.tile.desc, arrays := b.arrays, slot := b.slot, source := b.load, stash := ts,
                    entered := b.arrays.map fun _ => 0 }

/-- STREAM. -/
def execStream (sp : Fin 32) (s : State) : Host.Outcome State Fault Refusal :=
  .next (dispatch sp (fun w => opc w == 0x02) (prepRows streamFieldsOk) enqueue s)

/-- WGRAD. -/
def execWgrad (sp : Fin 32) (s : State) : Host.Outcome State Fault Refusal :=
  .next (dispatch sp (fun w => opc w == 0x03) (prepRows wgradFieldsOk) enqueue s)

-- Rows of a command, by member of its gang.

/-- The place of an array in a gang. -/
def Cmd.member (x : Cmd) (a : Nat) : Nat := (x.arrays.findIdx? (· == a)).getD 0

/-- The streamed row that member j enters as its t-th (R113). -/
def rowOf (g j t : Nat) : Nat := (t / 32 * g + j) * 32 + t % 32

/-- The next row that array `a` enters for a command. -/
def Cmd.nextRow (x : Cmd) (a : Nat) : Nat := rowOf x.arrays.length (x.member a) (nth 0 x.entered (x.member a))

/-- The command has rows left to enter on array `a`. -/
def Cmd.rowsLeft (x : Cmd) (a : Nat) : Bool := decide (x.nextRow a < pkt x.w 192 32)

/-- The stream side of an array: the commands with rows left to enter, in dispatch order. -/
def State.streamSide (s : State) (a : Nat) : List Cmd :=
  s.cmds.filter fun x => (opc x.w == 2 || opc x.w == 3) && x.arrays.contains a && x.rowsLeft a

/-- A command's slot holds its tile, and its stash entries are near (R84, R112). -/
def State.rowReady (s : State) (x : Cmd) (a : Nat) : Bool :=
  decide (x.slot < 2) && (((s.arr a).slot x.slot).state == .ready || ((s.arr a).slot x.slot).state == .active) &&
    (s.stashReady x.cx x.stash).2 &&
    !(s.cmds.any fun y => y.id == x.source && y.phase != .finished)

/-- The command whose row enters next: the head of the stream side, unless it is a running WGRAD at a multiple of 512
entered rows that yields to a STREAM that is ready (R112). -/
def State.nextEntering (s : State) (a : Nat) : Option Cmd :=
  match s.streamSide a with
  | [] => none
  | h :: t =>
    let n := nth 0 h.entered (h.member a)
    if h.wgrad && decide (0 < n) && n % 512 == 0 then
      match t.find? fun x => !x.wgrad && s.rowReady x a && s.cmdRuns x with
      | some x => some x
      | none => some h
    else some h

-- Streamed operands.

/-- A streamed element as the array reads it (R31): its value in steps, zero where it is non-finite; its scale exponent;
whether it lies in the tensor; whether it counts as non-finite. -/
structure Elt where
  m    : Int
  exp  : Option Int
  live : Bool
  nf   : Bool
deriving DecidableEq, Repr, Inhabited

/-- An element from its code and scale byte. For BF16 the exponent is that of the element itself (R35). -/
def eltOf (f : Fmt) (quad : Bool) (code scale : Nat) : Elt :=
  let v := elemValue f quad code
  let bad := !v.finite || (f.scaled && scale == 0xFF)
  let m := if bad then 0 else arrayInt f v
  let e : Option Int :=
    if f = .bf16 then (if m = 0 then some (-133) else some (flog2 m.natAbs (-133)))
    else if scale = 0xFF then none else some ((scale : Int) - 127)
  ⟨m, e, true, bad⟩

/-- An element that is zero by padding, or lies beyond the extent. -/
def eltZero : Elt := ⟨0, none, false, false⟩

/-- One element of a tensor (R85). -/
def State.readElt (s : State) (c : Nat) (d : Desc) (r k : Nat) : Res Elt :=
  if d.rows ≤ r ∨ d.cols ≤ k then .ok eltZero else
  (s.readCodes c d r k 1).bind fun cs => (s.readScale c d r k).bind fun sc => .ok (eltOf d.fmt d.quad (nth 0 cs 0) sc)

/-- A run of elements along a tensor row. -/
def State.readElts (s : State) (c : Nat) (d : Desc) (r k0 n : Nat) : Res (List Elt) :=
  (s.readCodes c d r k0 n).bind fun cs => (s.readScales c d r k0 n).bind fun scs =>
    .ok ((List.range n).map fun j => if d.rows ≤ r ∨ d.cols ≤ k0 + j then eltZero else eltOf d.fmt d.quad (nth 0 cs j) (nth 127 scs j))

/-- The streamed elements k0 to k0 + n − 1 of row p of a command (R96, R110, R115); a source row or column beyond the
tensor is illegal when it is reached. -/
def State.streamElts (s : State) (x : Cmd) (p k0 n : Nat) : Res (List Elt) :=
  let d := x.desc
  let row0 := pkt x.w 160 32
  if x.wgrad then
    if d.cols ≤ row0 + p then .fault illegal else
    Res.mapM (fun j => s.readElt x.cx d (k0 + j) (row0 + p)) (List.range n)
  else match x.rowsrc with
    | 2 =>
      match x.conv with
      | none => .fault illegal
      | some v =>
        if d.rows / (v.inH * v.inW) ≤ (row0 + p) / (v.outH * v.outW) then .fault illegal else
        Res.mapM (fun j =>
          if v.kh * v.kw * d.cols ≤ k0 + j then .ok eltZero else
          match v.locate d.cols (row0 + p) (k0 + j) with
          | none => .ok eltZero
          | some q => s.readElt x.cx d q.1 q.2) (List.range n)
    | 1 =>
      (s.vreadNat x.cx (pkt x.w 384 48 + 4 * (row0 + p)) 4).bind fun r =>
        if d.rows ≤ r then .fault illegal else s.readElts x.cx d r k0 n
    | _ => if d.rows ≤ row0 + p then .fault illegal else s.readElts x.cx d (row0 + p) k0 n

/-- The larger of two exponents, where none takes no part. -/
def maxExp (a b : Option Int) : Option Int :=
  match a, b with
  | some x, some y => some (max x y)
  | some x, none => some x
  | none, y => y

/-- The largest exponent of a list of elements. -/
def maxElts (l : List Elt) : Option Int := l.foldl (fun m e => maxExp m e.exp) none

/-- The largest streamed scale exponent over [ka, kz) (R39). A BF16 block is read whole (R35). -/
def State.streamExp (s : State) (x : Cmd) (b p ka kz : Nat) : Res (Option Int) :=
  let ext := if x.wgrad then x.desc.rows else if x.rowsrc = 2 then (x.conv.map fun v => v.kh * v.kw * x.desc.cols).getD 0 else x.desc.cols
  let kz := min kz ext
  if kz ≤ ka then .ok none else
  if x.desc.fmt = .bf16 then
    let k0 := ka / b * b
    (s.streamElts x p k0 (roundUp kz b - k0)).bind fun l => .ok (maxElts l)
  else (s.streamElts x p ka (kz - ka)).bind fun l => .ok (maxElts l)

/-- The largest stationary scale exponent over reduction range [ka, kz) and column group [o0, o0 + 32), from the scale plane
in memory, or for BF16 from the elements (R39, R98). -/
def State.statExp (s : State) (x : Cmd) (t : Tile) (b ka kz o0 : Nat) : Res (Option Int) :=
  let d := t.desc
  let rc (k o : Nat) : Nat × Nat := if x.axisT then (o, k) else (k, o)
  let ext := if x.axisT then d.cols else d.rows
  let kz := min kz ext
  if kz ≤ ka then .ok none else
  if d.fmt = .bf16 then
    let k0 := ka / b * b
    Res.fold (fun m k => Res.fold (fun m o =>
      let q := rc k o
      (s.readElt x.cx d q.1 q.2).bind fun e => .ok (maxExp m e.exp)) m ((List.range 32).map (o0 + ·))) none
      ((List.range (roundUp kz b - k0)).map (k0 + ·))
  else
    let kb0 := ka / d.b
    Res.fold (fun m kb => Res.fold (fun m o =>
      let q := rc (kb * d.b) o
      if d.rows ≤ q.1 ∨ d.cols ≤ q.2 then .ok m else
      (s.readScale x.cx d q.1 q.2).bind fun sc => .ok (maxExp m (if sc = 0xFF then none else some ((sc : Int) - 127)))) m
      (if d.b = 16 then [o0, o0 + 16] else [o0])) none ((List.range (ceilDiv kz d.b - kb0)).map (kb0 + ·))

/-- The same over the tile's own blocks, for the check of R42. -/
def tileExp (x : Cmd) (t : Tile) (g : Geo) (o0 : Nat) : Option Int :=
  let lo := max o0 g.oc0
  let hi := min (o0 + 32) (g.oc0 + g.nout)
  (List.range (g.k1 - g.k0)).foldl (fun m k => (List.range (hi - lo)).foldl (fun m j =>
    let o := lo + j
    let (r, c) := if x.axisT then (o - t.orgRow, k) else (k, o - t.orgCol)
    if t.inside r c then maxExp m (eltOf t.desc.fmt t.desc.quad (nth 0 (nth [] t.codes r) c) (t.scale r c)).exp else m) m) none

-- Masks (R111).

/-- One bit of a bitmap in the context's memory. -/
def State.maskBit (s : State) (c base i : Nat) : Res Bool :=
  (s.vreadNat c (base + i / 8) 1).bind fun v => .ok (bitAt v (i % 8))

/-- The column groups of the bin, of 28, into which a row adds partials; none of them where the row does not enter. -/
def State.liveGroups (s : State) (x : Cmd) (t : Tile) (g : Geo) (outRow : Nat) : Res (List Nat) :=
  let first := (g.oc0 - g.col0) / 32
  let last := ceilDiv (g.oc0 - g.col0 + g.nout) 32
  let gs := (List.range (last - first)).map (first + ·)
  let base := pkt x.w 384 48
  match x.maskMode with
  | 0 => .ok gs
  | 1 => (s.maskBit x.cx base outRow).bind fun b => .ok (if b then gs else [])
  | _ =>
    let bc := ceilDiv t.desc.cols 128
    Res.fold (fun acc k => (s.maskBit x.cx base (outRow / 128 * bc + (g.col0 + 32 * k) / 128)).bind fun b =>
      .ok (if b then acc ++ [k] else acc)) [] gs

-- Anchors of a new bin (R39 to R41, R98).

/-- Signed 16-bit values of a vector in memory. -/
def anchorsAt (bs : List Byte) : List Int :=
  (List.range 28).map fun i => signedOf 16 (leNat ((bs.drop (2 * i)).take 2))

/-- The anchor of a row and a group from the two maxima of R39; one that no block decides is open (log entry 16). -/
def anchorOf (ef : Int) (sa sb : Option Int) : Int := match sa, sb with
  | some u, some v => u + v + ef
  | _, _ => (Config.openAnchor sa sb).toInt

/-- The opening anchors of a row, one for each group. -/
def State.openAnchors (s : State) (x : Cmd) (t : Tile) (g : Geo) (b : Nat) (ef : Int) (p : Nat) : Res (List Int) :=
  match pkt x.w 74 2 with
  | 2 => .ok (List.replicate 28 (signedOf 16 (pkt x.w 320 16)))
  | 1 => (s.vread x.cx (pkt x.w 336 48 + 56 * p) 56).bind fun bs => .ok (anchorsAt bs)
  | _ =>
    let kz := x.kred0 + x.klen
    (s.streamExp x b p x.kred0 kz).bind fun sa =>
    Res.mapM (fun i => (s.statExp x t b x.kred0 kz (g.col0 + 32 * i)).bind fun sb => .ok (anchorOf ef sa sb)) (List.range 28)

-- Spill row images (R104).

/-- Bytes of a spill row image. -/
def imageBytes : Nat := 14464

/-- The bytes of a row image. -/
def imageOf (r : RingRow) : List Byte :=
  (r.vals.flatMap fun n => leBytes 16 (unsignedOf 128 n)) ++ (r.anchors.flatMap fun a => leBytes 2 (unsignedOf 16 a)) ++
    leBytes 4 r.cover ++ leBytes 4 r.klen ++ leBytes 1 (if r.exch then 1 else 0) ++ leBytes 3 r.tid ++ leBytes 4 r.row ++
    leBytes 4 r.col0 ++ leBytes 4 r.computed ++ List.replicate 48 0

/-- A row image read back, for a context. -/
def imageRow (c : Nat) (bs : List Byte) : RingRow :=
  let at_ (o n : Nat) : Nat := leNat ((bs.drop o).take n)
  { cx := c, tid := at_ 14401 3, row := at_ 14404 4, col0 := at_ 14408 4, exch := at_ 14400 1 % 2 == 1,
    klen := at_ 14396 4, cover := at_ 14392 4,
    vals := (List.range 896).map fun i => signedOf 128 (leNat ((bs.drop (16 * i)).take 16)),
    anchors := anchorsAt (bs.drop 14336), computed := at_ 14412 4 % 2 ^ 28, igrad := false }

-- Row entry.

/-- The bin's tag (R100). -/
def RingRow.tagged (r : RingRow) (c tid row col0 : Nat) : Bool := r.cx == c && r.tid == tid && r.row == row && r.col0 == col0

/-- The accumulation's grid (R43). -/
def State.exchGrid (s : State) (x : Cmd) : Bool := s.flag R.CX_NUMERIC_PIM_ACTIVE x.cx || pktBit x.w 76

/-- The partials of one output column: what it adds to n, window-low and window-high counts (R37, R44, R45). -/
def columnAdd (x : Cmd) (t : Tile) (g : Geo) (exch : Bool) (b : Nat) (anchors : List Int) (els : List Elt) (o : Nat) :
    Int × Nat × Nat :=
  let a := nth 0 anchors ((o - g.col0) / 32)
  let step := stepExp x.desc.fmt + stepExp t.desc.fmt
  let fixed := pkt x.w 74 2 == 2
  let blocks := (List.range (ceilDiv g.k1 b - g.k0 / b)).map (g.k0 / b + ·)
  blocks.foldl (fun (acc : Int × Nat × Nat) kb =>
    let lo := max g.k0 (kb * b)
    let hi := min g.k1 (kb * b + b)
    let rc (k : Nat) : Nat × Nat := if x.axisT then (o - t.orgRow, k - g.k0) else (k - g.k0, o - t.orgCol)
    let m := (List.range (hi - lo)).foldl (fun (m : Int) j =>
      let e := nth eltZero els (lo + j - g.k0)
      if e.m = 0 then m else
      let q := rc (lo + j)
      m + e.m * (if t.scale q.1 q.2 = 0xFF ∧ t.desc.fmt.scaled = true then 0 else arrayInt t.desc.fmt (t.elem q.1 q.2))) 0
    if m = 0 then acc else
    let q := rc lo
    let sa : Int := if x.desc.fmt.scaled then ((List.range (hi - lo)).findSome? fun j => (nth eltZero els (lo + j - g.k0)).exp).getD 0 else 0
    let sb : Int := if t.desc.fmt.scaled then (t.scale q.1 q.2 : Int) - 127 else 0
    let r := addPartial exch fixed a m (step + sa + sb)
    (acc.1 + r.1, acc.2.1 + r.2.1, acc.2.2 + r.2.2)) (0, 0, 0)

/-- What a row's entry is made of: the groups it adds into, its elements, the anchors of the accumulation, and the bin if it
opens one. -/
structure Entering where
  groups  : List Nat
  els     : List Elt
  anchors : List Int
  bin     : Option RingRow
deriving Repr

/-- A coverage that contributions in flight have already taken on a bin. -/
def Arr.inFlight (a : Arr) (c tid row col0 : Nat) : Nat :=
  ((a.flight.filter fun f => f.cx == c && f.tid == tid && f.row == row && f.col0 == col0).map (·.cover)).foldl (· + ·) 0

/-- The recipe check of R42 for the groups a row adds into; FIXED mode makes none. -/
def recipeOk (x : Cmd) (t : Tile) (g : Geo) (ef : Int) (sa : Option Int) (anchors : List Int) (groups : List Nat) : Bool :=
  pkt x.w 74 2 == 2 || groups.all fun i =>
    match sa, tileExp x t g (g.col0 + 32 * i) with
    | some u, some v => decide (u + v + ef ≤ nth 0 anchors i)
    | _, _ => true

/-- Enter row p of a command on array `a`: join or open its bin, or wait for a free ring row (R101, R102, R105). An empty list
of groups says that the row is masked and does not enter. -/
def State.enterRow (s : State) (a : Nat) (x : Cmd) (p : Nat) : Res Entering :=
  let t := ((s.arr a).slot x.slot).tile
  let g := geoOf x t
  let outRow := pkt x.w 224 32 + p
  let tid := pkt x.w 128 24
  match pairEf x.desc.fmt t.desc.fmt t.desc.quad (x.desc.b16 || t.desc.b16) with
  | none => .fault illegal
  | some (ef, b) =>
    (s.liveGroups x t g outRow).bind fun groups =>
    if groups.isEmpty then .ok ⟨[], [], [], none⟩ else
    (s.streamElts x p g.k0 (g.k1 - g.k0)).bind fun els =>
    (s.streamExp x b p g.k0 g.k1).bind fun sa =>
    let arr := s.arr a
    match arr.ring.find? fun r => r.tagged x.cx tid outRow g.col0 with
    | some r =>
      if r.exch != s.exchGrid x || r.klen != x.klen ||
          decide (x.klen < r.cover + arr.inFlight x.cx tid outRow g.col0 + (g.k1 - g.k0)) ||
          !recipeOk x t g ef sa r.anchors groups then .fault illegal
      else .ok ⟨groups, els, r.anchors, none⟩
    | none =>
      if (s.cx x.cx).rings.any fun r => r.1 == a && r.2.tagged x.cx tid outRow g.col0 then .wait
      else if 512 ≤ arr.ring.length then .wait
      else
        let seed := pkt x.w 432 48
        if seed ≠ 0 then
          (s.vread x.cx (seed + imageBytes * p) imageBytes).bind fun bs =>
          let r := imageRow x.cx bs
          if r.tid != tid || r.row != outRow % 2 ^ 32 || r.col0 != g.col0 || r.exch != s.exchGrid x || r.klen != x.klen ||
              decide (x.klen < r.cover + (g.k1 - g.k0)) || !recipeOk x t g ef sa r.anchors groups then .fault illegal
          else .ok ⟨groups, els, r.anchors, some { r with row := outRow, igrad := x.igrad }⟩
        else
          (s.openAnchors x t g b ef p).bind fun anchors =>
          if decide (x.klen < g.k1 - g.k0) || !recipeOk x t g ef sa anchors groups then .fault illegal
          else .ok ⟨groups, els, anchors, some
            { cx := x.cx, tid := tid, row := outRow, col0 := g.col0, exch := s.exchGrid x, klen := x.klen, cover := 0,
              vals := List.replicate 896 0, anchors := anchors, computed := 0, igrad := x.igrad }⟩

/-- The sums of a row, of all 896 columns of the bin. -/
def rowAdds (s : State) (x : Cmd) (t : Tile) (e : Entering) : List (Int × Nat × Nat) :=
  let g := geoOf x t
  let b := match pairEf x.desc.fmt t.desc.fmt t.desc.quad (x.desc.b16 || t.desc.b16) with | some q => q.2 | none => 32
  (List.range 896).map fun j =>
    let o := g.col0 + j
    if g.oc0 ≤ o ∧ o < g.oc0 + g.nout ∧ e.groups.contains (j / 32) = true then
      columnAdd x t g (s.exchGrid x) b e.anchors e.els o
    else (0, 0, 0)

/-- One more row of a command has been taken from array `a`'s stream side. -/
def Cmd.tookRow (x : Cmd) (a : Nat) : Cmd :=
  { x with entered := x.entered.modify (x.member a) (· + 1), pos := x.pos + 1, phase := .running }

/-- All rows of a command have been taken and those that entered have arrived. -/
def Cmd.rowsDone (x : Cmd) : Bool := x.arrays.all fun a => !x.rowsLeft a

/-- A slot returns to READY when no row of any command passes through it (R81). -/
def State.leaveSlot (s : State) (a k : Nat) : State :=
  let busy := (s.arr a).flight.any fun f => s.cmds.any fun y => y.id == f.cmd && y.slot == k
  let more := s.cmds.any fun y => (opc y.w == 2 || opc y.w == 3) && y.slot == k && y.arrays.contains a && y.phase == .running &&
    y.rowsLeft a
  if busy || more then s
  else s.updArr a fun r => match (r.slot k).state with
    | .active => r.setSlot k { r.slot k with state := .ready }
    | _ => r

/-- A command whose rows have all arrived is done. -/
def State.finishRows (s : State) (id : Nat) : State :=
  match s.cmd? id with
  | none => s
  | some x =>
    if x.rowsDone && !((List.range 8).any fun a => (s.arr a).flight.any fun f => f.cmd == id) then
      s.updCmd id fun y => { y with phase := .finished }
    else s

-- Ramps (R371).

/-- Ramps that began in the last 250 ns. -/
def State.recentRamps (s : State) : Nat := (s.pwr.rampAt.filter fun t => decide (s.clock < t + 250)).length

/-- An array begins its ramp, or waits for its turn: at most two begin in any 250 ns. -/
def State.beginRamp (s : State) (a : Nat) : State :=
  if s.recentRamps < 2 then
    let s := { s with pwr := { s.pwr with rampAt := (s.pwr.rampAt.filter fun t => decide (s.clock < t + 250)) ++ [s.clock] } }
    s.updArr a fun r => { r with ramp := ⟨.edges4, s.clock⟩ }
  else s.updArr a fun r => { r with ramp := ⟨.queued, s.clock⟩ }

/-- A command may enter a row: its context is RESIDENT, or is PARKING and the command has not reached a multiple of 512
(R103, R286). -/
def State.mayEnter (s : State) (x : Cmd) : Bool :=
  s.live && !x.arrays.any (s.testing 17) && (s.cxState x.cx == 3 || (s.cxState x.cx == 4 && x.pos % 512 != 0))

/-- A streamed row enters an array: it joins or opens a bin and its sums set out for the ring; a gated array first ramps; a
row that must wait does not enter (R84, R99, R101, R102, R371). -/
def rowEntry (s : State) (a : Nat) : State :=
  match s.nextEntering a with
  | none => s
  | some x =>
    if s.mayEnter x = false ∨ s.rowReady x a = false then s else
    match (s.arr a).ramp.stage with
    | .gated => s.beginRamp a
    | .full =>
      let p := x.nextRow a
      match s.enterRow a x p with
      | .wait => s
      | .fault k => (s.faultCmd x k).settle
      | .ok e =>
        let s := s.updCmd x.id fun y => y.tookRow a
        if e.groups.isEmpty then (s.finishRows x.id).settle else
        let t := ((s.arr a).slot x.slot).tile
        let g := geoOf x t
        let adds := rowAdds s x t e
        let fl : Flight :=
          { cmd := x.id, cx := x.cx, tid := pkt x.w 128 24, row := pkt x.w 224 32 + p, col0 := g.col0, cover := g.k1 - g.k0,
            adds := adds.map (·.1), comp := (e.groups.map fun i => 2 ^ i).foldl (· + ·) 0,
            low := (adds.map fun q => q.2.1).foldl (· + ·) 0, high := (adds.map fun q => q.2.2).foldl (· + ·) 0 }
        let s := s.updArr a fun r =>
          { (r.setSlot x.slot { r.slot x.slot with state := .active }) with
            ring := match e.bin with | some b => r.ring ++ [b] | none => r.ring,
            flight := r.flight ++ [fl], axis := x.axisT, ramp := ⟨.full, s.clock⟩ }
        let s := s.count 0x010 a x.cx 1
        (s.countFor x.id x.desc.tid x.desc.kind { nonfin := (e.els.filter fun q => q.nf).length }).settle
    | _ => s

/-- ROW_ENTRY. -/
def execRowEntry (a : Fin 8) (s : State) : Host.Outcome State Fault Refusal := .next (rowEntry s a)

-- Ring arrival.

/-- Add a row in flight to its bin (R99, R101, R443). -/
def RingRow.take (r : RingRow) (f : Flight) : RingRow :=
  { r with vals := (r.vals.zip f.adds).map fun p => p.1 + p.2, cover := r.cover + f.cover,
           computed := r.computed.lor f.comp }

/-- The oldest row in flight of an array reaches the ring: its sums are added, its coverage counts, its window events count
against the output tensor, of kind A for a forward product and G for a gradient (R44, R45, R442). -/
def ringArrival (s : State) (a : Nat) : State :=
  if !s.live then s else
  match (s.arr a).flight with
  | [] => s
  | f :: rest =>
    let s := s.updArr a fun r =>
      { r with flight := rest, ring := replaceFirst (fun q => q.tagged f.cx f.tid f.row f.col0) (fun q => q.take f) r.ring }
    let kind : Kind := match s.cmd? f.cmd with | some x => if x.wgrad || x.igrad then .g else .a | none => .a
    let s := s.countFor f.cmd f.tid kind { wlow := f.low, whigh := f.high }
    let s := match s.cmd? f.cmd with | some x => s.leaveSlot a x.slot | none => s
    (s.finishRows f.cmd).settle

/-- RING_ARRIVAL. -/
def execRingArrival (a : Fin 8) (s : State) : Host.Outcome State Fault Refusal := .next (ringArrival s a)

end Sys2Proof.Machine
end

