-- ==== Sys2Proof/Machine/Cast.lean ====
section
/-! DEFINITION. The cast table and CALLSHEET (R296 to R305). -/

namespace Sys2Proof.Machine

-- Entries (R296).

/-- KV pages of a sequence: one for each 256 tokens. -/
def CastEntry.npg (e : CastEntry) : Nat := ceilDiv e.maxlen 256

/-- Tokens held once decoding has begun (R298). -/
def CastEntry.held (e : CastEntry) : Nat := e.pos + 1

/-- The admission fields of an entry's 64 bytes, as the entry of a slot. -/
def castOf (v slot adm : Nat) : CastEntry :=
  { slot := slot, seqId := bitsAt v 0 64, cx := bitsAt v 64 4, scx := bitsAt v 68 4, scoreEn := bitAt v 72, state := 0,
    prio := bitsAt v 80 4, nstop := bitsAt v 84 4, print := bitsAt v 96 32, pos := 0, plen := bitsAt v 160 32,
    maxlen := bitsAt v 192 32, spos := 0, kvlist := bitsAt v 256 48, stop := bitsAt v 304 48, tokens := bitsAt v 352 48,
    admNo := adm, sres := bitAt v 72 }

/-- The fields of an entry offered for admission lie in their ranges (R296, R297). -/
def castFieldsOk (c v : Nat) : Bool :=
  bitsAt v 64 4 == c && bitsAt v 74 3 == 0 && bitsAt v 90 6 == 0 && bitsAt v 128 32 == 0 && bitsAt v 224 32 == 0 &&
    bitsAt v 464 48 == 0 && decide (2 ≤ bitsAt v 192 32) && decide (bitsAt v 192 32 ≤ 2 ^ 24) &&
    decide (1 ≤ bitsAt v 160 32) && decide (bitsAt v 160 32 < bitsAt v 192 32)

/-- A truth value as a bit. -/
def bitOf (b : Bool) : Nat := if b then 1 else 0

/-- The 64 bytes of a valid entry (R296). -/
def CastEntry.bytes (e : CastEntry) : List Byte :=
  leBytes 8 e.seqId ++ leBytes 1 (e.cx + 16 * e.scx) ++
    leBytes 3 (bitOf e.scoreEn + 2 + 4 * e.state + 32 * e.pstate + 256 * e.prio + 4096 * e.nstop + 65536 * bitOf e.err +
      131072 * bitOf e.inflight) ++
    leBytes 4 e.print ++ leBytes 4 e.pos ++ leBytes 4 e.plen ++ leBytes 4 e.maxlen ++ leBytes 4 e.spos ++ leBytes 6 e.kvlist ++
    leBytes 6 e.stop ++ leBytes 6 e.tokens ++ leBytes 4 e.admNo ++ leBytes 4 e.build ++ leBytes 6 0

/-- The valid entries of a context, in ascending ADMIT. -/
def State.castOfCx (s : State) (c : Nat) : List CastEntry := sortBy (·.admNo) (s.cast.filter fun e => e.cx == c)

/-- Replace the entry of a slot. -/
def State.setEntry (s : State) (e : CastEntry) : State := { s with cast := replaceFirst (fun x => x.slot == e.slot) (fun _ => e) s.cast }

/-- Print holds that no entry of a context keeps any more are given back (R301): `old` are those kept before. -/
def State.dropHolds (s : State) (c : Nat) (old : List Nat) : State :=
  (old.filter fun p => !(s.heldPrints c).contains p).foldl (fun s p => s.releaseHold c p) s

-- Pools (R296, R297).

/-- KV pages reserved in the pool of a context. -/
def State.kvReserved (s : State) (n : Nat) : Nat :=
  (s.cast.map fun e => (if e.cx = n ∧ e.gres = true then e.npg else 0) + (if e.scx = n ∧ e.sres = true then e.npg else 0)).foldl (· + ·) 0

/-- KV pages in use in the pool of a context. -/
def State.kvUsed (s : State) (n : Nat) : List Nat :=
  s.cast.flatMap fun e => (if e.cx = n then e.gpages else []) ++ (if e.scx = n then e.spages else [])

/-- KV pages of the pool of a context. -/
def State.kvPages (s : State) (n : Nat) : Nat := s.rd R.CAST_POOLCFG_PAGES 0 n

/-- The k-th number that a rising list leaves out. -/
def kthFree (used : List Nat) (k : Nat) : Nat := used.foldl (fun c u => if u ≤ c then c + 1 else c) k

/-- Take a free page of a pool; which one is a free choice. -/
def State.takeKv (s : State) (n : Nat) : Nat × State :=
  let used := sortBy id (dedup (s.kvUsed n))
  let (k, s) := s.pick (s.kvPages n - used.length)
  (kthFree used k, s)

/-- Free pages of a pool. -/
def State.kvFree (s : State) (n : Nat) : Nat := s.kvPages n - (dedup (s.kvUsed n)).length

-- ADMIT (R297, R301).

/-- Why an entry cannot be admitted: the reason code of R297, or 0. -/
def State.admitStop (s : State) (e : CastEntry) : Nat :=
  if 8192 ≤ s.cast.length then 1
  else if s.kvPages e.cx < s.kvReserved e.cx + e.npg then 2
  else if e.scoreEn && decide (s.kvPages e.scx < s.kvReserved e.scx + (if e.scx = e.cx then e.npg else 0) + e.npg) then 3
  else if s.cast.any fun x => x.cx == e.cx && x.seqId == e.seqId then 4
  else 0

/-- The first entry of a context that declares a print makes its hold (R301). -/
def State.makeHold (s : State) (c p : Nat) : Res State :=
  if !s.flag R.CAST_POOLCFG_HOLD_EN 0 c || (s.heldPrints c).contains p then .ok s else
  let h := s.holdSem c p
  if !s.granted c h.1 then .fault illegal else
  match s.post h.1 h.2 1 with
  | some s => .ok s
  | none => .fault illegal

/-- How a CALLSHEET operation went: the state reached, the count done, the reason, and how it ended. What was done before a
fault stays. -/
structure CastRun where
  s    : State
  done : Nat := 0
  why  : Nat := 0
  stop : Bool := false
  res  : Res Unit := .ok ()

/-- Admit one entry. -/
def admitOne (c a : Nat) (r : CastRun) (i : Nat) : CastRun :=
  if r.stop then r else
  match r.s.vreadNat c (a + 64 * i) 64 with
  | .fault k => { r with stop := true, res := .fault k }
  | .wait => { r with stop := true, res := .wait }
  | .ok v =>
    if !castFieldsOk c v then { r with stop := true, res := .fault illegal } else
    let e := castOf v 0 (r.s.admits + 1)
    let y := r.s.admitStop e
    if y ≠ 0 then { r with stop := true, why := y } else
    match r.s.makeHold c e.print with
    | .fault k => { r with stop := true, res := .fault k }
    | .wait => { r with stop := true, res := .wait }
    | .ok s =>
      let (k, s) := s.pick (8192 - s.cast.length)
      let e := { e with slot := kthFree (sortBy id (s.cast.map (·.slot))) k }
      { r with s := { s with cast := s.cast ++ [e], admits := s.admits + 1 }, done := r.done + 1 }

/-- ADMIT. -/
def castAdmitRun (s : State) (c a n : Nat) : CastRun := (List.range n).foldl (admitOne c a) { s := s }

-- BUILD (R303, R304).

/-- First position and end of the rows that an entry brings into a sheet (R298, R299). -/
def CastEntry.span (e : CastEntry) : Nat × Nat :=
  if e.state = 0 then (e.pos, min (e.pos + 2048) e.plen)
  else if e.state = 1 then (e.pos, e.pos + 1)
  else (e.spos, min (e.spos + 2048) e.held)

/-- Rows that an entry costs. -/
def CastEntry.cost (e : CastEntry) : Nat := e.span.2 - e.span.1

/-- The context that consumes the rows of an entry. -/
def CastEntry.user (e : CastEntry) : Nat := if e.state = 2 then e.scx else e.cx

/-- The pages that the rows of an entry need: positions that are multiples of 256. -/
def CastEntry.fresh (e : CastEntry) : Nat := ceilDiv e.span.2 256 - ceilDiv e.span.1 256

/-- A group of a sheet: kind, print (0 for SCORE), consuming context (log entry 33). -/
abbrev Grp := Nat × Nat × Nat

/-- The group of an entry. -/
def CastEntry.grp (e : CastEntry) : Grp := (e.state, if e.state = 2 then 0 else e.print, e.user)

/-- The order of groups in a sheet: DECODE, PREFILL, SCORE, each in ascending print. -/
def grpKey (g : Grp) : Nat := (if g.1 = 1 then 0 else if g.1 = 0 then 1 else 2) * 2 ^ 64 + g.2.1 * 2 ^ 8 + g.2.2

/-- What BUILD has chosen: the budget left, the groups, the entries included and how many wait. -/
structure Choice where
  left : Nat
  grps : List Grp := []
  inc  : List CastEntry := []
  wait : Nat := 0

/-- Entries that BUILD considers, in its order (R303). -/
def State.buildOrder (s : State) (c : Nat) : List CastEntry :=
  sortBy (fun e => (15 - e.prio) * 2 ^ 64 + e.admNo)
    (s.cast.filter fun e => e.cx == c && decide (e.state ≤ 2) && !e.inflight && (e.state != 2 || s.cxLive e.scx))

/-- Include an entry, or count it as waiting. -/
def State.choose (s : State) (k : Choice) (e : CastEntry) : Choice :=
  let mine := total ((k.inc.filter fun x => x.user == e.user).map (·.fresh))
  if e.cost ≤ k.left ∧ (k.grps.contains e.grp = true ∨ k.grps.length < 8) ∧ mine + e.fresh ≤ s.kvFree e.user then
    { k with left := k.left - e.cost, grps := if k.grps.contains e.grp then k.grps else k.grps ++ [e.grp], inc := k.inc ++ [e] }
  else { k with wait := k.wait + 1 }
where
  /-- The sum of a list. -/
  total (l : List Nat) : Nat := l.foldl (· + ·) 0

/-- Allocate one more KV page of an entry and list it in KVLIST: GEN pages from word 0, SCORE pages from word NPG. -/
def State.allocKv (s : State) (e : CastEntry) : Res (State × CastEntry) :=
  let (pg, s) := s.takeKv e.user
  let i := if e.state = 2 then e.npg + e.spages.length else e.gpages.length
  let e := if e.state = 2 then { e with spages := e.spages ++ [pg] } else { e with gpages := e.gpages ++ [pg] }
  ((s.setEntry e).vwriteNat e.cx (e.kvlist + 4 * i) 4 pg).bind fun s => .ok (s, e)

/-- A row of a sheet: its entry, position, input token, KV row, and whether it is sampled. -/
structure SheetRow where
  e   : CastEntry
  pos : Nat
  tok : Nat
  kv  : Nat
  smp : Bool

/-- The rows of an included entry, with the pages they need. -/
def State.rowsOf (s : State) (b : Nat) (e : CastEntry) : Res (State × List SheetRow) :=
  (Res.fold (fun (w : State × CastEntry) _ => w.1.allocKv w.2) (s, e) (List.range e.fresh)).bind fun w =>
  let e := { w.2 with inflight := true, build := b }
  let s := w.1.setEntry e
  (Res.mapM (fun i =>
    let p := e.span.1 + i
    (s.vreadNat e.cx (e.tokens + 4 * p) 4).bind fun t =>
    .ok { e := e, pos := p, tok := t, kv := nth 0 (if e.state = 2 then e.spages else e.gpages) (p / 256) * 256 + p % 256,
          smp := e.state == 1 || (e.state == 0 && p + 1 == e.plen) : SheetRow }) (List.range e.cost)).bind fun rs => .ok (s, rs)

/-- The sixteen bytes of a group: kind, consuming context, print, first row, rows. -/
def grpBytes (g : Grp) (first n : Nat) : List Byte := leBytes 4 (g.1 + 16 * g.2.2) ++ leBytes 4 g.2.1 ++ leBytes 4 first ++ leBytes 4 n

/-- The groups of a sheet from a first row on. -/
def grpList : Nat → List (Grp × Nat) → List Byte
  | _, [] => []
  | first, (g, n) :: t => grpBytes g first n ++ grpList (first + n) t

/-- The bytes of a sheet's header and groups. -/
def sheetHead (b n waiting : Nat) (inc : List CastEntry) (gs : List (Grp × Nat)) : List Byte :=
  let g := grpList 0 gs
  leBytes 4 n ++ leBytes 1 gs.length ++ leBytes 3 0 ++ leBytes 4 inc.length ++ leBytes 4 waiting ++ leBytes 4 b ++
    List.replicate 44 0 ++ g ++ List.replicate (128 - g.length) 0

/-- The row lists of a sheet. The manual gives the TOKEN that BUILD leaves in a key-list entry no value: it is a free value
(log entry 34). -/
def State.sheetRows (s : State) (rs : List SheetRow) : List Byte :=
  (((List.range rs.length).zip rs).flatMap fun p =>
    leBytes 8 p.2.e.seqId ++ leBytes 4 p.2.pos ++ leBytes 4 (Config.freeValue (s.free + p.1))) ++
  (rs.flatMap fun r => leBytes 4 r.tok) ++ (rs.flatMap fun r => leBytes 4 r.kv) ++
  rs.flatMap fun r => leBytes 4 (r.e.slot % 8192 + 8192 * r.e.state + 32768 * bitOf r.smp)

/-- BUILD. -/
def castBuild (s : State) (c a budget : Nat) : CastRun :=
  let k := (s.buildOrder c).foldl s.choose { left := budget }
  let b := (s.builds + 1) % 2 ^ 32
  let gs := sortBy grpKey k.grps
  let ordered := gs.flatMap fun g => k.inc.filter fun e => e.grp == g
  let w := (Res.fold (fun (w : State × List SheetRow) e => (w.1.rowsOf b e).bind fun q => .ok (q.1, w.2 ++ q.2)) (s, []) ordered).bind fun w =>
    let counts := gs.map fun g => (g, (w.2.filter fun r => r.e.grp == g).length)
    (w.1.vwrite c a (sheetHead b w.2.length k.wait k.inc counts)).bind fun s =>
    (s.vwrite c (a + 256) (s.sheetRows w.2)).bind fun s =>
    .ok ({ s with builds := s.builds + 1, free := s.free + w.2.length }.bump R.CAST_STAT_BUILDS)
  match w with
  | .ok s => { s := s, done := k.inc.length }
  | .fault e => { s := s, res := .fault e }
  | .wait => { s := s, res := .wait }

-- ADVANCE (R298, R305).

/-- The stop test on a sampled token (R298). -/
def State.stopTest (s : State) (e : CastEntry) (tok : Nat) : Res Bool :=
  if tok = 0xFFFFFFFF ∨ e.maxlen ≤ e.held then .ok true else
  (Res.mapM (fun i => s.vreadNat e.cx (e.stop + 4 * i) 4) (List.range e.nstop)).bind fun ts => .ok (ts.contains tok)

/-- A sequence leaves decoding: its GEN pages and their reservation are released (R298). -/
def CastEntry.finish (e : CastEntry) : CastEntry :=
  { e with state := if e.scoreEn then 2 else 4, gpages := [], gres := false,
           spages := if e.scoreEn then e.spages else [], sres := e.sres && e.scoreEn }

/-- A sampled token reaches an entry whose POS has risen: it is written, and the stop test is made (R298). -/
def State.takeToken (s : State) (e : CastEntry) (tok : Nat) : Res (State × CastEntry) :=
  (if tok = 0xFFFFFFFF then .ok s else s.vwriteNat e.cx (e.tokens + 4 * e.pos) 4 tok).bind fun s =>
  (s.stopTest e tok).bind fun b =>
  let e := { e with state := 1, err := e.err || tok == 0xFFFFFFFF }
  .ok (s, if b then e.finish else e)

/-- The token of the sampled row of an entry in a sheet of `n` rows; a sheet that no longer lists one gives a free value. -/
def State.sheetToken (s : State) (c a n : Nat) (infos : List Nat) (e : CastEntry) : Res (State × Nat) :=
  match infos.findIdx? fun v => bitsAt v 0 13 == e.slot && bitAt v 15 with
  | some i => if i < n then (s.vreadNat c (a + 256 + 16 * i + 12) 4).bind fun t => .ok (s, t) else .ok s.takeFree.swap
  | none => .ok s.takeFree.swap

/-- ADVANCE of one entry. -/
def State.advanceOne (s : State) (c a n : Nat) (infos : List Nat) (e : CastEntry) : Res State :=
  let old := s.heldPrints c
  let w : Res (State × CastEntry) :=
    if e.state = 2 then
      let sp := e.span.2
      .ok (s, if sp = e.held then { e with spos := sp, state := 4, spages := [], sres := false } else { e with spos := sp })
    else
      let e := { e with pos := e.span.2 }
      if e.state = 0 ∧ e.pos ≠ e.plen then .ok (s, e)
      else (s.sheetToken c a n infos e).bind fun q => q.1.takeToken e (q.2 % 2 ^ 32)
  w.bind fun w => .ok ((w.1.setEntry { w.2 with inflight := false }).dropHolds c old)

/-- ADVANCE. -/
def castAdvance (s : State) (c a : Nat) : CastRun :=
  let w := (s.vreadNat c a 20).bind fun h =>
    let b := bitsAt h 128 32
    let n := bitsAt h 0 32
    let es := (s.castOfCx c).filter fun e => e.inflight && e.build == b
    if es.isEmpty then .ok (s, 0) else
    (s.vread c (a + 256 + 24 * n) (4 * n)).bind fun bs =>
    let infos := (List.range n).map fun i => leNat ((bs.drop (4 * i)).take 4)
    (Res.fold (fun s e => s.advanceOne c a n infos e) s es).bind fun s => .ok (s, es.length)
  match w with
  | .ok (s, n) => { s := s, done := n }
  | .fault e => { s := s, res := .fault e }
  | .wait => { s := s, res := .wait }

-- RETIRE, PARK, UNPARK, SNAPSHOT (R305).

/-- Copy entries to memory. -/
def State.copyEntries (s : State) (c a : Nat) (es : List CastEntry) : Res State := s.vwrite c a (es.flatMap CastEntry.bytes)

/-- RETIRE. -/
def castRetire (s : State) (c a n : Nat) : CastRun :=
  let es := ((s.castOfCx c).filter fun e => e.state == 4).take n
  match s.copyEntries c a es with
  | .ok s => { s := { s with cast := s.cast.filter fun e => !(es.map (·.slot)).contains e.slot }, done := es.length }
  | .fault e => { s := s, res := .fault e }
  | .wait => { s := s, res := .wait }

/-- SNAPSHOT. -/
def castSnapshot (s : State) (c a n : Nat) : CastRun :=
  let es := (s.castOfCx c).take n
  match s.copyEntries c a es with
  | .ok s => { s := s, done := es.length }
  | .fault e => { s := s, res := .fault e }
  | .wait => { s := s, res := .wait }

/-- Whether PARK or UNPARK acts on an entry. -/
def CastEntry.parkable (e : CastEntry) (park : Bool) : Bool := if park then decide (e.state ≤ 2) && !e.inflight else e.state == 3

/-- PARK or UNPARK of one named sequence; a name not found is counted. -/
def parkOne (c : Nat) (park : Bool) (r : CastRun) (sid : Nat) : CastRun :=
  match r.s.cast.find? fun e => e.cx == c && e.seqId == sid && e.parkable park with
  | some e =>
    { r with s := r.s.setEntry (if park then { e with state := 3, pstate := e.state } else { e with state := e.pstate }), done := r.done + 1 }
  | none => { r with why := stick 15 (r.why + 1) }

/-- PARK and UNPARK. -/
def castPark (s : State) (c a n : Nat) (park : Bool) : CastRun :=
  match s.vread c a (8 * n) with
  | .ok bs => ((List.range n).map fun i => leNat ((bs.drop (8 * i)).take 8)).foldl (parkOne c park) { s := s }
  | .fault e => { s := s, res := .fault e }
  | .wait => { s := s, res := .wait }

-- CALLSHEET (R302).

/-- OP. -/
def csOp (w : Packet) : Nat := pkt w 64 3

/-- ADDR. -/
def csAddr (w : Packet) : Nat := pkt w 80 48

/-- COUNT. -/
def csCount (w : Packet) : Nat := pkt w 128 32

/-- STATUS. -/
def csStatus (w : Packet) : Nat := pkt w 160 48

/-- Bytes at ADDR that a CALLSHEET reads, and those it writes, as far as its fields tell. -/
def csRanges (w : Packet) : List (Nat × Nat) × List (Nat × Nat) :=
  let n := csCount w
  let st := if csStatus w = 0 then [] else [(csStatus w, 8)]
  match csOp w with
  | 0 => ([(csAddr w, 64 * n)], st)
  | 1 => ([], (csAddr w, 256) :: st)
  | 2 => ([(csAddr w, 256)], st)
  | 4 | 5 => ([(csAddr w, 8 * n)], st)
  | _ => ([], (csAddr w, 64 * n) :: st)

/-- The checks of CALLSHEET at dispatch (R302). -/
def prepCast (s : State) (x : Cmd) : Res Cmd :=
  let n := csCount x.w
  (Res.check (rsvZero x.w [(67, 13), (208, 304)] && !s.isLearn x.cx && csOp x.w != 7 && csAddr x.w % 64 == 0 && n != 0 &&
    decide (n ≤ if csOp x.w = 1 then 65536 else 8192)) illegal).bind fun _ =>
  let r := csRanges x.w
  (s.touches x.cx r.1 r.2).bind fun ts =>
  if 16 ≤ (s.cmds.filter fun y => opc y.w == 0x60 && y.phase == .queued).length then .wait else .ok { x with stash := ts }

/-- Run the operation of a CALLSHEET. -/
def castRun (s : State) (x : Cmd) : CastRun :=
  let c := x.cx
  let a := csAddr x.w
  let n := csCount x.w
  match csOp x.w with
  | 0 => castAdmitRun s c a n
  | 1 => castBuild s c a n
  | 2 => castAdvance s c a
  | 3 => castRetire s c a n
  | 4 => castPark s c a n true
  | 5 => castPark s c a n false
  | _ => castSnapshot s c a n

/-- Run a CALLSHEET that has been dispatched, in its turn, if the stash lets it; its status word follows. -/
def tryCast (s : State) (x : Cmd) : State :=
  if s.cmds.any fun y => opc y.w == 0x60 && y.phase == .queued && decide (y.id < x.id) then s else
  match s.stashReady x.cx x.stash with
  | (s, false) => s
  | (s, true) =>
    let r := castRun s x
    match r.res with
    | .fault k => r.s.faultCmd x k
    | .wait => s
    | .ok _ =>
      match (if csStatus x.w = 0 then .ok r.s else r.s.vwrite x.cx (csStatus x.w) (leBytes 4 r.done ++ leBytes 4 r.why)) with
      | .fault k => r.s.faultCmd x k
      | .wait => s
      | .ok s => (s.updCmd x.id fun y => { y with phase := .finished }).rush 8 x.cx x.sp 0x60 (pkt x.w 32 16) x.index s.builds

/-- CALLSHEET is dispatched, and run where nothing holds it back. -/
def runCast (s : State) (x : Cmd) : State :=
  let s := enqueue s x
  if s.cxLive x.cx then tryCast s x else s

/-- A CALLSHEET of one operation. -/
def isCast (op : Nat) (w : Packet) : Bool := opc w == 0x60 && (csOp w == op || (op == 0 && csOp w == 7))

/-- ADMIT. A CALLSHEET with the reserved operation code is refused as the row of ADMIT (log entry 35). -/
def execCastAdmit (sp : Fin 32) (s : State) : Host.Outcome State Fault Refusal := .next (dispatch sp (isCast 0) prepCast runCast s)

/-- BUILD. -/
def execBuild (sp : Fin 32) (s : State) : Host.Outcome State Fault Refusal := .next (dispatch sp (isCast 1) prepCast runCast s)

/-- ADVANCE. -/
def execAdvance (sp : Fin 32) (s : State) : Host.Outcome State Fault Refusal := .next (dispatch sp (isCast 2) prepCast runCast s)

/-- RETIRE. -/
def execRetire (sp : Fin 32) (s : State) : Host.Outcome State Fault Refusal := .next (dispatch sp (isCast 3) prepCast runCast s)

/-- PARK. -/
def execPark (sp : Fin 32) (s : State) : Host.Outcome State Fault Refusal := .next (dispatch sp (isCast 4) prepCast runCast s)

/-- UNPARK. -/
def execUnpark (sp : Fin 32) (s : State) : Host.Outcome State Fault Refusal := .next (dispatch sp (isCast 5) prepCast runCast s)

/-- SNAPSHOT. -/
def execSnapshot (sp : Fin 32) (s : State) : Host.Outcome State Fault Refusal := .next (dispatch sp (isCast 6) prepCast runCast s)

end Sys2Proof.Machine
end

