-- ==== Sys2Proof/Machine/Operands.lean ====
section
/-! DEFINITION. The operands of a host write: which fields it acts on (R405), whether the block takes writes now (R347,
R380, R387, R400, R411), and orders that are superseded (R415, R416). -/

namespace Sys2Proof.Machine

-- A host write.

/-- A host write to a register: the first bit and the number of bits that it acts on, and its value (R405). -/
structure HW where
  lo : Nat
  n  : Nat
  v  : Nat
deriving DecidableEq, Repr

/-- A write of all 8 bytes. -/
def hw8 (v : Nat) : HW := ⟨0, 64, v⟩

/-- The write that a host makes of `size` bytes at a BAR0 offset; none for a size or alignment that PX refuses (R405). -/
def hwOf (off size v : Nat) : Option HW :=
  if size = 8 ∧ off % 8 = 0 then some ⟨0, 64, v % 2 ^ 64⟩
  else if size = 4 ∧ off % 4 = 0 then some ⟨8 * (off % 8), 32, v % 2 ^ 32⟩
  else none

/-- The value that a write gives a field; none where the field does not lie wholly in the bits written (R405). -/
def HW.get (w : HW) (f : Fld) : Option Nat :=
  if w.lo ≤ f.lo ∧ f.lo + f.wid ≤ w.lo + w.n then some (bitsAt w.v (f.lo - w.lo) f.wid) else none

/-- The write puts 1 into a one-bit field. -/
def HW.one (w : HW) (f : Fld) : Bool := w.get f == some 1

/-- The value of a field after the write, as far as it is written. -/
def State.after (s : State) (w : HW) (f : Fld) (n : Nat := 0) (i : Nat := 0) : Nat := (w.get f).getD (s.rd f n i)

/-- Write a field as the host's write gives it. -/
def State.put (s : State) (w : HW) (f : Fld) (n : Nat := 0) (i : Nat := 0) : State :=
  match w.get f with
  | some v => s.wr f v n i
  | none => s

/-- Write several fields. -/
def State.puts (s : State) (w : HW) (fs : List Fld) (n : Nat := 0) (i : Nat := 0) : State :=
  fs.foldl (fun s f => s.put w f n i) s

-- Which writes take effect.

/-- Offsets of MGT, REC, SEC and DBG registers that SAFE still lets the host write (R400). -/
def safeWritable (b : Blk) (o : Nat) : Bool :=
  match b with
  | .MGT => o == R.MGT_START_STATE.off || o == R.MGT_LC_TOKEN_ADDR.off
  | .REC => o == R.REC_CTL_FREEZE.off || o == R.REC_CLEAR_ADDR.off
  | .SEC => o == R.SEC_ATT_CTL_GO.off || (decide (R.SEC_NONCE.off ≤ o) && decide (o < R.SEC_NONCE.off + 64))
  | .DBG => o == R.DBG_CUT_CTL_NOW.off || o == R.DBG_IMAGE_SEL_SECTION.off
  | _ => false

/-- Blocks that a cut does not freeze (R347). -/
def unfrozen (b : Blk) : Bool := b == .DBG || b == .MGT || b == .REC || b == .TSU || b == .PWR

/-- A host write to offset `o` of a block takes effect in the present state of the device. -/
def State.takesWrites (s : State) (b : Blk) (o : Nat) : Bool :=
  !s.boot.d3hot && !s.recd.stopped &&
  match s.rd R.MGT_START_STATE with
  | 1 => b == .MGT || b == .SEC || b == .REC
  | 2 => true
  | 3 => safeWritable b o && (unfrozen b || !s.flag R.DBG_CUT_STAT_CUT)
  | 4 => unfrozen b
  | 5 => b == .MGT
  | _ => false

-- Orders (R415, R416).

/-- The device object. -/
def objDevice : Nat := 0

/-- The cut. -/
def objCut : Nat := 1

/-- The power controller's configuration. -/
def objPower : Nat := 2

/-- The reel. -/
def objReel : Nat := 3

/-- An order acts on an object now. -/
def State.act (s : State) (obj : Nat) : State :=
  { s with boot := { s.boot with acted := (obj, s.clock) :: s.boot.acted.filter fun p => p.2 == s.clock } }

/-- An order has acted on an object, or on the device, in the present CCLK (log entry 5). -/
def State.actedNow (s : State) (obj : Nat) : Bool :=
  s.boot.acted.any fun p => (p.1 == obj || p.1 == objDevice) && p.2 == s.clock

/-- An order is superseded (R416). -/
def State.supCount (s : State) : State := s.bump R.MGT_ORDER_SUP_COUNT

/-- A host write is superseded: it is recorded with its block and offset (R416). -/
def State.supHost (s : State) (b : Blk) (n o : Nat) : State :=
  let s := s.setFlag R.MGT_ORDER_HOST_SUP true
  let s := s.wr R.MGT_ORDER_UNIT (blkIndex b + n)
  (s.wr R.MGT_ORDER_OFFSET o).supCount

/-- Make a host write to offset `o` of instance `n` of a block, if the device takes it; a write that an order of the same
CCLK has overtaken is superseded (R416), any other is ignored. -/
def State.hostGate (s : State) (b : Blk) (n o : Nat) (f : State → State) : State :=
  if s.takesWrites b o then f s
  else if s.actedNow objDevice && !s.boot.d3hot then s.supHost b n o
  else s

-- The state of the device.

/-- The device state changes: the board controller hears of it by an in-band interrupt (R414). -/
def State.setStart (s : State) (st : Nat) : State :=
  if s.rd R.MGT_START_STATE = st then s else (s.wr R.MGT_START_STATE st).emit (.ibi st)

/-- Codes of MGT.START.STATE. -/
def stStarting : Nat := 0

/-- RECOVERY. -/
def stRecovery : Nat := 1

/-- READY. -/
def stReady : Nat := 2

/-- SAFE. -/
def stSafe : Nat := 3

/-- CUT. -/
def stCut : Nat := 4

/-- HALTED. -/
def stHalted : Nat := 5

end Sys2Proof.Machine
end

