-- ==== Sys2Proof/Machine/Links.lean ====
section
/-! DEFINITION. The fabric ports: their states, link retry, credits, roll call, and the receipt of a frame (R237 to R252). -/

namespace Sys2Proof.Machine

-- What the fabric rules of a message or collective do when a frame of it is lost.

/-- Code 0x06, FRAME_LOST. -/
def frameLost : Cause := { code := 6 }

/-- Code 0x08, COLLECTIVE_FAILED. -/
def collFailed : Cause := { code := 8 }

/-- The stream processor and number of the command with a dispatch number. -/
def State.cmdPlace (s : State) (id : Option Nat) : Option (Nat × Nat) := (id.bind s.cmd?).map fun x => (x.sp, x.index)

/-- A message fails: its context faults (R256). -/
def State.failMsg (s : State) (m : Msg) (k : Cause) : State := s.faultCx m.cx k (s.cmdPlace m.cmd)

/-- A collective fails on this member: its context faults, which sends the aborts (R263). -/
def State.failColl (s : State) (k : Coll) (c : Cause) : State := s.faultCx k.cx c (s.cmdPlace k.cmd)

/-- The message of this device that a number names. -/
def State.msg? (s : State) (id : Nat) : Option Msg := s.msgs.find? fun m => m.id % 2 ^ 32 == id

/-- The collective of a context that a frame names. -/
def State.coll? (s : State) (c acc seq : Nat) : Option Coll :=
  s.colls.find? fun k => k.cx == c && k.acc.index == acc && k.seq == seq

/-- A frame of this device is lost: its message or its collective fails (R244, R256, R263). -/
def State.loseFrame (s : State) (f : Frame) : State :=
  if f.typ = 1 ∨ f.typ = 2 ∨ f.typ = 3 then
    match s.msg? f.msgId with
    | some m => s.failMsg m frameLost
    | none => s
  else if f.typ = 7 ∨ f.typ = 8 then
    match s.coll? f.srcCx f.accord f.collSeq with
    | some k => s.failColl k collFailed
    | none => s
  else s

-- The state of a port (R239).

/-- A port enters a state; the other side of it begins afresh. -/
def State.setPort (s : State) (p st : Nat) : State :=
  (s.wr R.LK_STATUS_STATE st p).updPort p fun q => { q with since := s.clock }

/-- The device is seated while some port is UP (R251). -/
def State.reseat (s : State) : State :=
  s.setFlag R.MGT_SEAT_SEATED ((List.range 18).any fun p => s.portState p == 3)

/-- A port goes DOWN: what its retry buffer holds is lost, and the loss of an UP port is recorded (R239, R244). -/
def State.portDown (s : State) (p : Nat) (record : Bool) : State :=
  let q := s.port p
  let s := s.updPort p fun q => { since := s.clock, lastAcked := q.lastAcked }
  let s := (s.wr R.LK_STATUS_STATE 0 p).reseat
  let s := if record then
      s.reelEvent 0x07 (blkIndex .LK + p) noCx (leBytes 1 p ++ leBytes 8 (s.word (R.LK_ERRORS_UNCORR.addr p)).toNat ++
        leBytes 2 q.lastAcked)
    else s
  q.retry.foldl (fun s f => s.loseFrame f) s

/-- The division of the receive buffer meets the limits of R247. -/
def State.creditOk (s : State) (p : Nat) : Bool :=
  let v (f : Fld) : Nat := s.rd f p
  decide (33 ≤ v R.LK_CREDIT_VC0) && decide (33 ≤ v R.LK_CREDIT_VC1) && decide (33 ≤ v R.LK_CREDIT_VC2) &&
    decide (64 ≤ v R.LK_CREDIT_VC3) &&
    decide (v R.LK_CREDIT_VC0 + v R.LK_CREDIT_VC1 + v R.LK_CREDIT_VC2 + v R.LK_CREDIT_VC3 ≤ 4096)

/-- A port begins to train, or stays DOWN with CREDIT_ERR (R239, R247). -/
def State.train (s : State) (p : Nat) : State :=
  let s := s.updPort p fun q => { since := s.clock, lastAcked := q.lastAcked }
  let s := s.wr R.LK_STATUS_LANES_OK 0 p
  let s := s.setFlag R.LK_STATUS_SEAT_ERR false p
  if s.creditOk p then (s.setFlag R.LK_STATUS_CREDIT_ERR false p).setPort p 1
  else (s.setFlag R.LK_STATUS_CREDIT_ERR true p).setPort p 0

-- The clapper's requests (R337).

/-- The master device: TSU.CLAP.MASTER, or slot 0 of tray 0 of the device's own rack. -/
def State.clapMaster (s : State) : Nat :=
  let m := s.rd R.TSU_CLAP_MASTER
  if m = 0xFFFF then s.dev / 64 * 64 else m

/-- A CLAPPER frame (R337). -/
def clapFrame (src dst kind sample master t1 t2 t3 : Nat) : Frame :=
  { typ := 12, vc := 3, srcDev := src, dstDev := dst,
    payload := leBytes 1 kind ++ leBytes 1 sample ++ leBytes 2 master ++ leBytes 4 0 ++ leBytes 8 t1 ++ leBytes 8 t2 ++
      leBytes 8 t3 ++ List.replicate 32 0 }

/-- Change the time-stamp unit. -/
def State.updTsu (s : State) (f : Tsu → Tsu) : State := { s with tsu := f s.tsu }

/-- Send the request of the next sample; its T1 is the local count (log entry 39). -/
def State.clapAsk (s : State) : State :=
  let k := s.tsu.samples.length
  let s := s.updTsu fun t => { t with asked := k + 1, began := s.clock }
  s.sendFrames [clapFrame s.dev s.clapMaster 0 k s.clapMaster s.clock 0 0]

/-- A run ends: it has failed or succeeded. -/
def State.clapEnd (s : State) (ok : Bool) : State :=
  let s := (s.setFlag R.TSU_CLAP_BUSY false).setFlag R.TSU_CLAP_FAIL (!ok)
  let s := s.updTsu fun t => { t with samples := [], asked := 0 }
  if ok then s.setFlag R.TSU_CLAP_DONE true else s

/-- A run of the clapper begins: with no UP port it fails, a master is its own master, any other device asks (R337). -/
def State.clapStart (s : State) : State :=
  if s.flag R.TSU_CLAP_BUSY then s
  else if !((List.range 18).any fun p => s.portState p == 3) then s.clapEnd false
  else if s.clapMaster = s.dev then s.clapEnd true
  else (s.setFlag R.TSU_CLAP_BUSY true).clapAsk

/-- In a start, the end of roll call runs the clapper: no port trains or is in ROLL any more (R337, R379). -/
def State.rollEnd (s : State) : State :=
  if s.rd R.MGT_START_STATE = 0 ∧ (5 ≤ s.rd R.MGT_START_PHASE) ∧ s.flag R.TSU_CLAP_DONE = false ∧ s.flag R.TSU_CLAP_FAIL = false ∧
      ((List.range 18).any fun p => s.portState p == 1 || s.portState p == 2) = false then s.clapStart
  else s

-- Events of a port.

/-- A ROLL frame (R251). -/
def State.sendRoll (s : State) (p : Nat) : State :=
  (s.sendOn p { typ := 10, vc := 3, srcDev := s.dev }).updPort p fun q => { q with lastAck := s.clock }

/-- PORT_LOCK: all eight lanes of a training port hold FEC lock (R239, R251). -/
def portLock (s : State) (p : Nat) : State :=
  if !s.portsLive || s.portState p != 1 then s else
  ((s.wr R.LK_STATUS_LANES_OK 0xFF p).setPort p 2).sendRoll p

/-- PORT_LOCK. -/
def execPortLock (p : Fin 18) (s : State) : Host.Outcome State Fault Refusal := .next (portLock s p)

/-- TRAINING_TIMEOUT: 50 ms without lock (R239). -/
def trainTimeout (s : State) (p : Nat) : State :=
  if !s.portsLive || s.portState p != 1 || decide (s.clock < 50000000 + (s.port p).since) then s
  else (s.portDown p false).rollEnd.settle

/-- TRAINING_TIMEOUT. -/
def execTrainingTimeout (p : Fin 18) (s : State) : Host.Outcome State Fault Refusal := .next (trainTimeout s p)

/-- LANE_LOCK_LOSS: the whole port goes DOWN (R239). -/
def laneLoss (s : State) (p lane : Nat) : State :=
  if !s.portsLive || s.portState p == 0 || s.portState p == 4 then s else
  let m := s.rd R.LK_STATUS_LANES_OK p
  let s := s.wr R.LK_STATUS_LANES_OK (if bitAt m lane then m - 2 ^ lane else m) p
  (s.portDown p true).rollEnd.settle

/-- LANE_LOCK_LOSS. -/
def execLaneLockLoss (p : Fin 18) (lane : Fin 8) (s : State) : Host.Outcome State Fault Refusal := .next (laneLoss s p lane)

/-- ROLL_RESEND: a port in ROLL sends ROLL again after 10 µs (R251). -/
def rollAgain (s : State) (p : Nat) : State :=
  if !s.portsLive || s.portState p != 2 || decide (s.clock < 10000 + (s.port p).lastAck) then s else s.sendRoll p

/-- ROLL_RESEND. -/
def execRollResend (p : Fin 18) (s : State) : Host.Outcome State Fault Refusal := .next (rollAgain s p)

/-- ACK_TIMEOUT: frames outstanding and no acknowledgement for 50 µs (R244). -/
def ackTimeout (s : State) (p : Nat) : State :=
  let q := s.port p
  if !s.portsLive || s.portState p != 3 || q.retry.isEmpty || decide (s.clock < 50000 + q.lastAck) then s
  else (s.portDown p true).settle

/-- ACK_TIMEOUT. -/
def execAckTimeout (p : Fin 18) (s : State) : Host.Outcome State Fault Refusal := .next (ackTimeout s p)

/-- FEC_ERROR_LIMIT: more than 10⁶ uncorrectable blocks in one second (R244). -/
def fecLimit (s : State) (p : Nat) : State :=
  if !s.portsLive || s.portState p == 0 || s.portState p == 4 then s
  else ((s.bump R.LK_ERRORS_UNCORR 1000001 p).portDown p true).rollEnd.settle

/-- FEC_ERROR_LIMIT. -/
def execFecErrorLimit (p : Fin 18) (s : State) : Host.Outcome State Fault Refusal := .next (fecLimit s p)

/-- A host write to LKn.CTL: EN, and RETRY of a DOWN port (R239). EN takes effect at a start (log entry 24). -/
def lkCtlWrite (s : State) (p : Nat) (w : HW) : State :=
  let s := s.put w R.LK_CTL_EN p
  if w.one R.LK_CTL_RETRY && s.portState p == 0 then s.train p else s

/-- RETRY. -/
def execRetry (p : Fin 18) (v : Word) (s : State) : Host.Outcome State Fault Refusal :=
  .next (s.hostGate .LK p R.LK_CTL_EN.off fun s =>
    if (hw8 v.toNat).one R.LK_CTL_RETRY then lkCtlWrite s p (hw8 v.toNat) else s)

/-- A host write to LKn.CREDIT takes effect while the port is DOWN or DISABLED (R247). -/
def lkCreditWrite (s : State) (p : Nat) (w : HW) : State :=
  if s.portState p == 0 || s.portState p == 4 then
    s.puts w [R.LK_CREDIT_VC0, R.LK_CREDIT_VC1, R.LK_CREDIT_VC2, R.LK_CREDIT_VC3] p
  else s

-- Receipt of a frame (R241, R243, R246).

/-- The virtual channel of a frame type (R241). -/
def vcOf (typ : Nat) : Nat :=
  if typ ≤ 3 then 0 else if typ ≤ 6 then 1 else if typ = 7 then 2 else 3

/-- The port sends a LINK frame: the last LSEQ received in order and one channel's credit count (R242, R243). -/
def State.sendLink (s : State) (p : Nat) (nak : Bool) : State :=
  let q := s.port p
  let s := s.updPort p fun q => { q with ackOwed := false, crNext := (q.crNext + 1) % 4 }
  s.emit (.frame p { typ := 15, ackv := decide (0 < q.rxNext), nak := nak, ackSeq := (q.rxNext + 65535) % 65536,
                     crVc := q.crNext, crUnits := nth 0 q.freed q.crNext % 2 ^ 14 })

/-- An acknowledgement covers the frames up to a LSEQ; the credits of a channel come back (R243, R246). -/
def Port.acked (q : Port) (upTo now : Nat) : Port :=
  match q.retry.findIdx? fun f => f.lseq == upTo with
  | some i => { q with retry := q.retry.drop (i + 1), resends := 0, lastAck := now, lastAcked := upTo }
  | none => q

/-- Credits returned on one channel: the difference from the count seen last (R246). -/
def Port.credited (q : Port) (vc units : Nat) : Port :=
  let d := (units + 2 ^ 14 - nth 0 q.crSeen vc) % 2 ^ 14
  { q with credits := q.credits.modify vc (· + d), crSeen := q.crSeen.set vc units }

/-- Resend every frame that is not acknowledged (R243); the sixteenth resend of one frame in a row takes the port DOWN
(R244). -/
def State.resend (s : State) (p : Nat) : State :=
  let fs := (s.port p).retry
  if fs.isEmpty then s else
  let s := fs.foldl (fun s f => (s.emit (.frame p f)).count 0x062 p 0x10 1) s
  let s := s.bump R.LK_ERRORS_REPLAYS fs.length p
  let s := s.updPort p fun q => { q with resends := q.resends + 1 }
  if 16 ≤ (s.port p).resends then s.portDown p true else s

/-- The acknowledgement, NAK and credits that a frame carries. -/
def State.linkFields (s : State) (p : Nat) (f : Frame) : State :=
  let s := s.updPort p fun q => (if f.ackv then q.acked f.ackSeq s.clock else q).credited f.crVc f.crUnits
  if f.nak then s.resend p else s

/-- A frame that the receiver does not take: NAK once, until the frame arrives again (R243). -/
def State.discardFrame (s : State) (p : Nat) : State :=
  if (s.port p).nakSent then s else (s.updPort p fun q => { q with nakSent := true }).sendLink p true

/-- A frame is taken: the next LSEQ, its units freed, an acknowledgement owed (R243, R246). -/
def State.takeFrame (s : State) (p : Nat) (f : Frame) : State :=
  let s := s.updPort p fun q =>
    { q with rxNext := q.rxNext + 1, nakSent := false, ackOwed := true, freed := q.freed.modify f.vc (· + frameUnits f) }
  (s.linkFields p f).count 0x061 p 0x10 1

/-- A frame is dropped and counted (R241, R252). -/
def State.dropFrame (s : State) (p : Nat) : State := s.bump R.LK_ERRORS_DROPPED 1 p

/-- The port takes frames: it is UP. -/
def State.portTakes (s : State) (p : Nat) : Bool := s.portsLive && s.portState p == 3

/-- A frame with every header field within its width, and at most 2,048 payload bytes (R240). -/
def fitFrame (f : Frame) : Frame :=
  { f with vc := f.vc % 4, lseq := f.lseq % 65536, ackSeq := f.ackSeq % 65536, srcDev := f.srcDev % 65536,
           dstDev := f.dstDev % 65536, srcCx := f.srcCx % 16, dstCx := f.dstCx % 16, job := f.job % 65536, crVc := f.crVc % 4,
           crUnits := f.crUnits % 2 ^ 14, addr := f.addr % 2 ^ 48, offset := f.offset % 2 ^ 40, msgBytes := f.msgBytes % 2 ^ 40,
           msgId := f.msgId % 2 ^ 32, accord := f.accord % 65536, collSeq := f.collSeq % 2 ^ 32, epoch := f.epoch % 2 ^ 32,
           phase := f.phase % 8, rpostSem := f.rpostSem % 256, payload := f.payload.take 2048 }

/-- Receive a frame of a type on a port: out of LSEQ order it is discarded, on a wrong channel or for another device
dropped, else handled. A frame of another type is not this event. -/
def receive (p : Nat) (f : Frame) (typ : Nat) (h : Frame → State → State) (s : State) : State :=
  let f := fitFrame f
  if !s.portTakes p || f.typ != typ then s
  else if f.lseq != (s.port p).rxNext % 65536 then (s.discardFrame p).settle
  else
    let s := s.takeFrame p f
    if f.vc != vcOf typ then (s.dropFrame p).settle
    else if f.dstDev != s.dev then
      ((s.dropFrame p).reelEvent 0x09 (blkIndex .LK + p) noCx (leBytes 1 p ++ leBytes 2 f.srcDev ++ leBytes 2 f.dstDev)).settle
    else (h f s).settle

/-- LINK: acknowledgement, NAK and credits alone (R242, R243). -/
def linkRx (s : State) (p : Nat) (f : Frame) : State :=
  if !s.portsLive || f.typ != 15 || (s.portState p != 3 && s.portState p != 2) then s else (s.linkFields p (fitFrame f)).settle

/-- LINK. -/
def execLink (p : Fin 18) (f : Frame) (s : State) : Host.Outcome State Fault Refusal := .next (linkRx s p f)

/-- LINK_ACK: a port that owes an acknowledgement sends a LINK frame (R243). -/
def linkAck (s : State) (p : Nat) : State :=
  if s.portsLive && (s.port p).ackOwed && (s.portState p == 3 || s.portState p == 2) then s.sendLink p false else s

/-- LINK_ACK. -/
def execLinkAck (p : Fin 18) (s : State) : Host.Outcome State Fault Refusal := .next (linkAck s p)

/-- FRAME_DISCARDED: an uncorrectable block, a failed CRC or a wrong LSEQ is discarded with a NAK; a reserved type or a
listed type on a wrong channel is taken and dropped (R241, R243; log entry 25). -/
def frameDiscard (s : State) (p : Nat) (why : Discard) (f : Frame) : State :=
  let f := fitFrame f
  if !s.portTakes p then s else
  match why with
  | .fecUncorrectable => ((s.bump R.LK_ERRORS_UNCORR 1 p).discardFrame p).settle
  | .badCrc => (s.discardFrame p).settle
  | .outOfOrder => if f.lseq != (s.port p).rxNext % 65536 then (s.discardFrame p).settle else s
  | .reservedType =>
    if f.typ != 0 then s
    else if f.lseq != (s.port p).rxNext % 65536 then (s.discardFrame p).settle
    else ((s.takeFrame p f).dropFrame p).settle
  | .wrongChannel =>
    if f.typ == 0 || decide (15 ≤ f.typ) || f.vc == vcOf f.typ then s
    else if f.lseq != (s.port p).rxNext % 65536 then (s.discardFrame p).settle
    else ((s.takeFrame p f).dropFrame p).settle

/-- FRAME_DISCARDED. -/
def execFrameDiscarded (p : Fin 18) (why : Discard) (f : Frame) (s : State) : Host.Outcome State Fault Refusal :=
  .next (frameDiscard s p why f)

-- Roll call (R250, R251).

/-- Write the seat that roll call reports. -/
def State.writeSeat (s : State) (d : Nat) : State :=
  let s := s.wr R.MGT_SEAT_DEV d
  let s := s.wr R.MGT_SEAT_RACK (d / 64)
  let s := s.wr R.MGT_SEAT_TRAY (d / 8 % 8)
  s.wr R.MGT_SEAT_SLOT (d % 8)

/-- The device number of a reported seat (R250). -/
def seatDev (r : Seat) : Nat := r.rack % 1024 * 64 + r.tray % 8 * 8 + r.slot % 8

/-- ROLL_REPLY on a port in ROLL: UP where the plane is the port's own number and the seat is that of the first port to
reply, else DOWN with SEAT_ERR (R251). -/
def rollReply (s : State) (p : Nat) (f : Frame) (r : Seat) : State :=
  let f := fitFrame f
  if !s.portsLive || s.portState p != 2 || f.typ != 11 then s
  else if f.lseq != (s.port p).rxNext % 65536 then (s.discardFrame p).settle
  else
    let s := s.takeFrame p f
    let d := seatDev r
    let s := if s.boot.seat.isNone then { s with boot := { s.boot with seat := some d } } else s
    let s := s.wr R.LK_STATUS_PLANE r.plane p
    let s := s.wr R.LK_STATUS_PEER_PORT r.port p
    if r.plane == p && s.boot.seat == some d then
      let s := (s.writeSeat d).setPort p 3
      (s.updPort p fun q => { q with credits := [r.credit0, r.credit1, r.credit2, r.credit3] }).reseat.rollEnd.settle
    else
      let s := s.setFlag R.LK_STATUS_SEAT_ERR true p
      let s := s.reelEvent 0x08 (blkIndex .LK + p) noCx (leBytes 1 p ++ leBytes 1 r.plane ++ leBytes 2 d)
      (s.portDown p false).rollEnd.settle

/-- ROLL_REPLY. -/
def execRollReply (p : Fin 18) (f : Frame) (r : Seat) (s : State) : Host.Outcome State Fault Refusal :=
  .next (rollReply s p f r)

/-- SEAT_TIMEOUT: 100 ms after the end of training no port is UP, and the device runs with no fabric (R251). -/
def seatTimeout (s : State) : State :=
  if !s.portsLive || (List.range 18).any (fun p => s.portState p == 3 || s.portState p == 1) ||
      (List.range 18).any (fun p => decide (s.clock < 100000000 + (s.port p).since)) then s
  else s.reseat.rollEnd

/-- SEAT_TIMEOUT. -/
def execSeatTimeout (s : State) : Host.Outcome State Fault Refusal := .next (seatTimeout s)

end Sys2Proof.Machine
end

