-- ==== Sys2Proof/Machine/Movers.lean ====
section
/-! DEFINITION. The movers' copies within a context: MOVE, GATHER and SCATTER (R144, R145). -/

namespace Sys2Proof.Machine

/-- MOVER names a mover, or lets the device choose (R144). -/
def moverOk (w : Packet) : Bool := decide (pkt w 64 6 < 32) || pkt w 64 6 == 63

/-- SRC. -/
def mvSrc (w : Packet) : Nat := pkt w 128 48

/-- DST. -/
def mvDst (w : Packet) : Nat := pkt w 176 48

/-- BYTES of MOVE, PUT and GET. -/
def mvBytes (w : Packet) : Nat := pkt w 224 40

/-- ROW_BYTES of GATHER and SCATTER. -/
def mvRow (w : Packet) : Nat := pkt w 224 24

/-- COUNT. -/
def mvCount (w : Packet) : Nat := pkt w 264 32

/-- LIST. -/
def mvList (w : Packet) : Nat := pkt w 296 48

/-- STRIDE. -/
def mvStride (w : Packet) : Nat := pkt w 344 48

/-- The queue of the mover that a command names is full; where the device chooses, every queue is (R122, R144). -/
def State.moverFull (s : State) (w : Packet) : Bool :=
  let q := s.cmds.filter fun x => decide (0x20 ≤ opc x.w) && decide (opc x.w ≤ 0x24) && x.phase == .queued
  if pkt w 64 6 = 63 then decide (512 ≤ q.length) else decide (16 ≤ (q.filter fun x => pkt x.w 64 6 == pkt w 64 6).length)

/-- The checks of MOVE: its ranges do not overlap (R145). -/
def prepMove (s : State) (x : Cmd) : Res Cmd :=
  (Res.check (rsvZero x.w [(74, 54), (264, 248)] && moverOk x.w && mvBytes x.w != 0 &&
    !overlaps (mvSrc x.w) (mvBytes x.w) (mvDst x.w) (mvBytes x.w)) illegal).bind fun _ =>
  (s.touches x.cx [(mvSrc x.w, mvBytes x.w)] [(mvDst x.w, mvBytes x.w)]).bind fun ts =>
  if s.moverFull x.w then .wait else .ok { x with stash := ts }

/-- The copies of a GATHER or SCATTER, from its list: source, destination and bytes of each entry (R145). -/
def State.listCopies (s : State) (x : Cmd) : Res (List (Nat × Nat × Nat)) :=
  let w := x.w
  (s.vread x.cx (mvList w) (4 * mvCount w)).bind fun bs =>
  .ok ((List.range (mvCount w)).map fun i =>
    let l := leNat ((bs.drop (4 * i)).take 4)
    if opc w = 0x21 then (mvSrc w + mvStride w * l, mvDst w + mvRow w * i, mvRow w)
    else (mvSrc w + mvRow w * i, mvDst w + mvStride w * l, mvRow w))

/-- The checks of GATHER and SCATTER at dispatch. -/
def prepList (s : State) (x : Cmd) : Res Cmd :=
  (Res.check (rsvZero x.w [(74, 54), (248, 16), (392, 120)] && moverOk x.w && mvRow x.w != 0 && mvCount x.w != 0) illegal).bind fun _ =>
  let cs := match s.listCopies x with
    | .ok l => l
    | _ => []
  (s.touches x.cx (cs.map fun q => (q.1, q.2.2)) (cs.map fun q => (q.2.1, q.2.2))).bind fun ts =>
  if s.moverFull x.w then .wait else .ok { x with stash := ts }

/-- Source and destination bytes of a list overlap (R145). -/
def listOverlap (w : Packet) (cs : List (Nat × Nat × Nat)) : Bool :=
  if opc w = 0x21 then cs.any fun q => overlaps q.1 q.2.2 (mvDst w) (mvRow w * mvCount w)
  else cs.any fun q => overlaps q.2.1 q.2.2 (mvSrc w) (mvRow w * mvCount w)

/-- What a mover writes as: a MOVE may write COW and PRT pages under its step (R193), the others may not. -/
def mvKind (x : Cmd) : WKind := if opc x.w = 0x20 then .move (x.step.getD 0) [(mvDst x.w, mvBytes x.w)] else .plain

/-- The copies of a local mover command, with the check that its start makes. -/
def State.mvCopies (s : State) (x : Cmd) : Res (List (Nat × Nat × Nat)) :=
  if opc x.w = 0x20 then .ok [(mvSrc x.w, mvDst x.w, mvBytes x.w)]
  else (s.listCopies x).bind fun cs => (Res.check (!listOverlap x.w cs) illegal).bind fun _ => .ok cs

/-- Make copies one after another; what was copied before a fault or a wait stays. -/
def State.copyAll (s : State) (x : Cmd) (cs : List (Nat × Nat × Nat)) : State × Res Unit :=
  cs.foldl (fun (r : State × Res Unit) q =>
    match r.2 with
    | .ok _ => r.1.vcopyFrom x.cx q.1 q.2.1 q.2.2 (mvKind x)
    | _ => r) (s, .ok ())

/-- Run a MOVE, GATHER or SCATTER that has been dispatched, if the stash lets it; a write that waits for a frame or a near
page leaves it waiting. -/
def tryMover (s : State) (x : Cmd) : State :=
  match s.stashReady x.cx x.stash with
  | (s, false) => s
  | (s, true) =>
    match s.mvCopies x with
    | .fault k => s.faultCmd x k
    | .wait => s
    | .ok cs =>
      match s.copyAll x cs with
      | (s, .ok _) => s.updCmd x.id fun y => { y with phase := .finished }
      | (s, .fault k) => s.faultCmd x k
      | (s, .wait) => s

/-- A local mover command is dispatched, and run where nothing holds it back. -/
def runMover (s : State) (x : Cmd) : State :=
  let s := enqueue s x
  if s.cxLive x.cx then tryMover s x else s

/-- MOVE. -/
def execMove (sp : Fin 32) (s : State) : Host.Outcome State Fault Refusal :=
  .next (dispatch sp (fun w => opc w == 0x20) prepMove runMover s)

/-- GATHER. -/
def execGather (sp : Fin 32) (s : State) : Host.Outcome State Fault Refusal :=
  .next (dispatch sp (fun w => opc w == 0x21) prepList runMover s)

/-- SCATTER. -/
def execScatter (sp : Fin 32) (s : State) : Host.Outcome State Fault Refusal :=
  .next (dispatch sp (fun w => opc w == 0x22) prepList runMover s)

end Sys2Proof.Machine
end

