-- ==== Sys2Proof/Machine/Outbox.lean ====
section
/-! DEFINITION. Forming the frames of messages (R252 to R254), and the sends of the checkpoint engines (R317, R320,
R321). -/

namespace Sys2Proof.Machine

-- The frames of a message.

/-- Offsets of the frames of a message: one frame for each 2,048 bytes (R242). -/
def msgOffsets (bytes : Nat) : List Nat := (List.range (ceilDiv bytes 2048)).map (2048 * ·)

/-- A request frame of a message. -/
def State.msgFrame (s : State) (m : Msg) (typ addr off : Nat) (pl : List Byte) : Frame :=
  { typ := typ, srcDev := s.dev, dstDev := m.dev, srcCx := m.cx, dstCx := m.rcx, job := s.rd R.CX_REMOTE_JOB m.cx,
    addr := addr, offset := off, msgBytes := m.bytes, msgId := m.id % 2 ^ 32, payload := pl }

/-- PUT_DATA frames of the bytes from an offset on. The fuel bounds their number. -/
def State.putFrames (s : State) (m : Msg) : Nat → Nat → List Byte → List Frame
  | 0, _, _ => []
  | k + 1, off, bs =>
    if bs.isEmpty then []
    else s.msgFrame m 1 (m.dst + off) off (bs.take 2048) :: s.putFrames m k (off + 2048) (bs.drop 2048)

/-- GET_REQ frames of a message (R254). -/
def State.getFrames (s : State) (m : Msg) : List Frame := (msgOffsets m.bytes).map fun o => s.msgFrame m 2 (m.src + o) o []

/-- A message begins: its frames are handed to the ports. -/
def State.startMsg (s : State) (m : Msg) (fs : List Frame) : State :=
  { s with msgs := s.msgs ++ [m], nextMsg := s.nextMsg + 1 }.sendFrames fs

/-- A PUT of given bytes to a context of a device. -/
def State.startPut (s : State) (cmd : Option Nat) (c dev rcx dst : Nat) (bs : List Byte) (rpost : Option Nat) (ckpt : Bool) :
    State :=
  let os := msgOffsets bs.length
  let m : Msg := { id := s.nextMsg, cmd := cmd, cx := c, dev := dev, rcx := rcx, isGet := false, src := 0, dst := dst,
                   bytes := bs.length, rpost := rpost, left := os, unsent := os, last := s.clock, ckpt := ckpt }
  s.startMsg m (s.putFrames m os.length 0 bs)

-- The sends of a checkpoint engine.

/-- A tag of a journal slot (R320). -/
def tagBytes (gen step : Nat) (valid : Bool) (page : List Byte) : List Byte :=
  leBytes 4 gen ++ leBytes 4 step ++ leBytes 4 (if valid then 1 else 0) ++ leBytes 4 (crc32c page) ++ List.replicate 48 0

/-- The bytes of the page that a send carries. -/
def State.sendPage (s : State) (k : CkSend) : List Byte :=
  match k.frame with
  | some f => s.pread f pageBytes
  | none => List.replicate pageBytes 0

/-- Address and bytes of the next message of a send: a page, a record, or of an append the cleared tag, the page and the
full tag in turn (R317, R321). -/
def State.sendPart (s : State) (k : CkSend) : Nat × List Byte :=
  match k.kind with
  | .parity => (k.addr, s.sendPage k)
  | .record => (k.addr, s.pread (k.frame.getD 0) k.bytes)
  | .append =>
    if k.stage = 1 then (k.addr, s.sendPage k)
    else (k.tag, tagBytes k.gen k.step (k.stage == 2) (s.sendPage k))

/-- Messages that a send consists of. -/
def CkSend.parts (k : CkSend) : Nat := if k.kind = .append then 3 else 1

/-- Begin the next message of a send. -/
def State.beginSend (s : State) (c : Nat) (k : CkSend) : State × CkSend :=
  let p := s.sendPart k
  (s.startPut none c k.dev k.cx p.1 p.2 none true, { k with msg := s.nextMsg })

/-- An append has ended at both peers: its slot holds the page of that generation and step. -/
def Ckpt.appended (x : Ckpt) (k : CkSend) : Ckpt :=
  if k.kind = .append ∧ k.last = true then { x with slots := x.slots ++ [(k.page, k.slot, k.gen, k.step)] } else x

/-- Change the checkpoint engine of a context. -/
def State.updCkpt (s : State) (c : Nat) (f : Ckpt → Ckpt) : State := s.updCx c fun x => { x with ckpt := f x.ckpt }

/-- The message of a send has ended: the send goes on with its next message or is done. -/
def CkSend.ended (k : CkSend) : CkSend := { k with stage := k.stage + 1, msg := 0 }

/-- One step of the sends of a context. The engine keeps one message in progress: sends of a sweep go before appends. -/
def State.sendStep (s : State) (c : Nat) : State :=
  let x := (s.cx c).ckpt
  match x.sends, x.journal with
  | k :: t, _ =>
    if k.msg = 0 then
      let (s, k) := s.beginSend c k
      s.updCkpt c fun x => { x with sends := k :: t }
    else s
  | [], k :: t =>
    if k.msg = 0 then
      let (s, k) := s.beginSend c k
      s.updCkpt c fun x => { x with journal := k :: t }
    else s
  | [], [] => s

/-- A message of a checkpoint engine has completed. -/
def State.sendDone (s : State) (c msg : Nat) : State :=
  let x := (s.cx c).ckpt
  let s := match x.sends.find? fun (k : CkSend) => k.msg == msg with
    | some _ => s.updCkpt c fun x => { x with sends := x.sends.filter fun k => k.msg != msg }
    | none => match x.journal.find? fun (k : CkSend) => k.msg == msg with
      | some k =>
        if k.stage + 1 < k.parts then
          s.updCkpt c fun x => { x with journal := replaceFirst (fun k : CkSend => k.msg == msg) CkSend.ended x.journal }
        else s.updCkpt c fun x => { x.appended k with journal := x.journal.filter fun k => k.msg != msg }
      | none => s
  let s := if (s.cx c).ckpt.sendOp && (s.cx c).ckpt.sends.isEmpty then
      ((s.updCkpt c fun x => { x with sendOp := false }).setFlag R.CX_CKPT_OPSTAT_BUSY false c).wr R.CX_CKPT_OPSTAT_RESULT 0 c
    else s
  s.sendStep c

/-- The engine has a message in progress. -/
def Ckpt.sending (x : Ckpt) : Bool := x.sends.any (fun k => k.msg != 0) || x.journal.any fun k => k.msg != 0

/-- Let the engine of a context begin its next send, if none is in progress. -/
def State.kickSends (s : State) (c : Nat) : State := if (s.cx c).ckpt.sending then s else s.sendStep c

-- The parity window of a holder (R316).

/-- Bytes of a stripe of the parity group of a context; 0 without a group. -/
def State.stripeBytes (s : State) (c : Nat) : Nat :=
  let g := (s.cx c).ckpt.group.length
  if g < 2 then 0 else pageBytes * (s.rd R.CX_CKPT_PAR_IMG_PAGES c / (g - 1))

/-- A range lies wholly within the parity window of a context. -/
def State.inParity (s : State) (c a n : Nat) : Bool :=
  s.flag R.CX_CKPT_CTL_EN c && decide (0 < s.stripeBytes c) &&
    within a n (s.rdAddr R.CX_CKPT_HOLD_BASE c) (2 * s.stripeBytes c)

/-- The XOR of two lists of bytes of one length. -/
def xorBytes (a b : List Byte) : List Byte := (a.zip b).map fun p => p.1 ^^^ p.2

/-- Bytes that a slot of the window has received since it was zeroed. -/
def State.gotParity (s : State) (c a n : Nat) : State :=
  let st := s.stripeBytes c
  let s := s.updCkpt c fun x =>
    if a < s.rdAddr R.CX_CKPT_HOLD_BASE c + st then { x with got0 := x.got0 + n, xored := x.xored + n }
    else { x with got1 := x.got1 + n, xored := x.xored + n }
  let s := s.wr R.UD_PAR_STAT_CX c
  if (s.cx c).ckpt.xored / pageBytes = ((s.cx c).ckpt.xored - n) / pageBytes then s else s.bump R.UD_PAR_STAT_PAGES

end Sys2Proof.Machine
end

