-- ==== Sys2Proof/Machine/Seal.lean ====
section
/-! DEFINITION. Frames held for a checkpoint, and what the end of a seal barrier and of a ready barrier does (R318, R319,
R326). -/

namespace Sys2Proof.Machine

/-- Return the held frames of a context that a test picks to their pools. -/
def State.releaseHeld (s : State) (c : Nat) (p : HeldFrame → Bool) : State :=
  let out := (s.cx c).ckpt.held.filter p
  let s := s.updCkpt c fun x => { x with held := x.held.filter fun h => !p h }
  out.foldl (fun s h => s.returnFrame c h.frame h.near) s

/-- Generation g of a context is sealed: SEALED reads g, and held frames of earlier generations return (R318, R319). -/
def State.sealed (s : State) (c : Nat) : State :=
  let g := s.rd R.CX_CKPT_STAT_GEN c
  let s := s.wr R.CX_CKPT_STAT_SEALED g c
  s.releaseHeld c fun h => decide (h.gen < g)

/-- The seal barrier has completed: the generation is sealed, and the other slot is zeroed next (R319). -/
def State.sealBarrierDone (s : State) (c : Nat) : State := (s.sealed c).updCkpt c fun x => { x with sealing := 2 }

/-- The ready barrier has completed; a restore that ran it ends with it (R319, R326). -/
def State.readyBarrierDone (s : State) (c : Nat) : State :=
  let s := s.updCkpt c fun x => { x with sealing := 0, readyOk := true }
  if (s.cx c).ckpt.sendOp then s else s.setFlag R.CX_CKPT_OPSTAT_BUSY false c

end Sys2Proof.Machine
end

