-- ==== Sys2Proof/Machine/Accords.lean ====
section
/-! DEFINITION. Accord tables and their state areas (R257, R258, R445), and shard tables (R262). -/

namespace Sys2Proof.Machine

/-- MEMBERS as it is coded in 16 bits: 0 means 65,536. -/
def membersOf (v : Nat) : Nat := if v % 65536 = 0 then 65536 else v % 65536

/-- The member list of an entry, one number a member, with its reserved bits. -/
def memberList (n : Nat) (bs : List Byte) : List Nat := (List.range n).map fun i => leNat ((bs.drop (4 * i)).take 4)

/-- The fields of an accord entry hold no reserved code and no reserved bit (R257). -/
def entryOk (v : Nat) : Bool :=
  bitsAt v 32 2 != 3 && bitsAt v 38 26 == 0 && bitsAt v 144 16 == 0 && bitsAt v 208 304 == 0 && bitsAt v 160 48 % 64 == 0 &&
    (bitsAt v 32 2 != 1 || (decide (2 ≤ bitsAt v 34 4) && decide (bitsAt v 34 4 ≤ 15)))

/-- Read and check entry `i` of the accord table of a context (R257). -/
def State.readAccord (s : State) (c i : Nat) : Res Accord :=
  if s.rd R.CX_ACCORD_ENTRIES c ≤ i then .fault illegal else
  (s.vreadNat c (s.rdAddr R.CX_ACCORD_BASE c + 64 * i) 64).bind fun v =>
  let m := membersOf (bitsAt v 0 16)
  if !entryOk v then .fault illegal else
  (s.vread c (bitsAt v 96 48) (4 * m)).bind fun bs =>
  let ws := memberList m bs
  let ms := ws.map fun w => (bitsAt w 0 16, bitsAt w 16 4)
  let r := bitsAt v 16 16
  (Res.check (ws.all (fun w => bitsAt w 20 12 == 0) && decide ((dedup ms).length = m) && decide (r < m) &&
    nth (0, 0) ms r == (s.dev, c)) illegal).bind fun _ =>
  .ok { index := i, members := ms, rank := r, shape := bitsAt v 32 2, fanout := bitsAt v 34 4, epoch := bitsAt v 64 32,
        area := bitsAt v 160 48 }

/-- Members of an accord. -/
def Accord.m (a : Accord) : Nat := a.members.length

/-- Bytes of one READY bitmap (R257). -/
def Accord.bitmap (a : Accord) : Nat := roundUp (ceilDiv a.m 8) 64

/-- Bytes of the state area. -/
def Accord.areaBytes (a : Accord) : Nat := 64 + 2 * a.bitmap

/-- The state area is mapped writable, and neither COW nor PRT (R257). -/
def State.areaOk (s : State) (c : Nat) (a : Accord) : Bool := s.plainWritable c a.area a.areaBytes

/-- What a state area holds: NEXT_SEQ, and the number of an abort that is kept. -/
structure AreaView where
  next : Nat
  kept : Option Nat
deriving DecidableEq, Repr

/-- Read a state area for the entry's epoch: under a new EPOCH the numbers begin at 0 and no abort is kept (R258). -/
def State.areaView (s : State) (c : Nat) (a : Accord) : Res AreaView :=
  (s.vreadNat c a.area 16).bind fun v =>
    if bitsAt v 32 32 != a.epoch then .ok ⟨0, none⟩
    else .ok ⟨bitsAt v 0 32, if bitAt v 96 then some (bitsAt v 64 32) else none⟩

/-- Write NEXT_SEQ, EPOCH_SEEN and the kept abort of a state area. -/
def State.areaWrite (s : State) (c : Nat) (a : Accord) (v : AreaView) : Res State :=
  s.vwrite c a.area (leBytes 4 v.next ++ leBytes 4 a.epoch ++ leBytes 4 (v.kept.getD 0) ++ leBytes 4 (if v.kept.isSome then 1 else 0))

/-- Address of the READY bitmap of a number (R259). -/
def Accord.bitmapAddr (a : Accord) (seq : Nat) : Nat := a.area + 64 + seq % 2 * a.bitmap

/-- The ranks whose READY flags stand in the bitmap of a number. -/
def State.readyFlags (s : State) (c : Nat) (a : Accord) (seq : Nat) : List Nat :=
  match s.vreadNat c (a.bitmapAddr seq) a.bitmap with
  | .ok v => (List.range a.m).filter fun r => bitAt v r
  | _ => []

/-- Set a READY flag. -/
def State.setReady (s : State) (c : Nat) (a : Accord) (seq r : Nat) : Res State :=
  let at_ := a.bitmapAddr seq + r / 8
  (s.vreadNat c at_ 1).bind fun v => s.vwriteNat c at_ 1 (if bitAt v (r % 8) then v else v + 2 ^ (r % 8))

/-- Clear the flags of a number (R259). -/
def State.clearReady (s : State) (c : Nat) (a : Accord) (seq : Nat) : State :=
  match s.vwrite c (a.bitmapAddr seq) (List.replicate a.bitmap 0) with
  | .ok s' => s'
  | _ => s

/-- The rank of a device and context in an accord. -/
def Accord.rankOf (a : Accord) (dev cx : Nat) : Option Nat := a.members.findIdx? fun m => m == (dev, cx)

/-- Ranks other than a member's own. -/
def Accord.otherRanks (a : Accord) : List Nat := (List.range a.m).filter (· != a.rank)

-- Shapes (R257).

/-- Children of this member in a TREE. -/
def Accord.children (a : Accord) : List Nat :=
  ((List.range a.fanout).map fun i => a.rank * a.fanout + i + 1).filter fun r => decide (r < a.m)

/-- Parent of this member in a TREE, for a rank other than 0. -/
def Accord.parent (a : Accord) : Nat := (a.rank - 1) / a.fanout

/-- Neighbours in a TREE. -/
def Accord.near (a : Accord) : List Nat := if a.rank = 0 then a.children else a.parent :: a.children

/-- The rank after this member in a RING. -/
def Accord.after (a : Accord) : Nat := (a.rank + 1) % a.m

/-- The rank before this member in a RING. -/
def Accord.before (a : Accord) : Nat := (a.rank + a.m - 1) % a.m

-- Shard tables (R262).

/-- The entries of a shard table, if its header is as R262 asks. -/
def State.readShard (s : State) (c addr m : Nat) (matrix : Bool) : Res (List Nat) :=
  (s.vreadNat c addr 16).bind fun h =>
  let form := if matrix then 1 else 0
  (Res.check (membersOf (bitsAt h 0 16) == m && bitsAt h 16 2 == form && bitsAt h 18 110 == 0 && (!matrix || decide (m ≤ 4096)))
    illegal).bind fun _ =>
  let n := if matrix then m * m else m
  (s.vread c (addr + 16) (8 * n)).bind fun bs =>
  let es := (List.range n).map fun i => leNat ((bs.drop (8 * i)).take 8)
  (Res.check (es.all fun e => decide (e < 2 ^ 40)) illegal).bind fun _ => .ok es

/-- The sum of a list of extents. -/
def total (l : List Nat) : Nat := l.foldl (· + ·) 0

end Sys2Proof.Machine
end

