-- ==== Sys2Proof/Machine/Collunits.lean ====
section
/-! DEFINITION. The units that a collective moves and reduces: exchange blocks, 16-bit elements, bytes, and groups of 32
elements of a stored tensor (R51 to R55, R146, R260, R261). -/

namespace Sys2Proof.Machine

/-- The collective moves the elements of a stored tensor, T128 blocks with scales, not exchange blocks (R146). -/
def Coll.stored (k : Coll) : Bool := decide (k.fmt < 2) && !k.srcD.fmt.isEs

/-- Bytes of a unit on the wire: a block, an element, a byte, or 32 packed elements followed by the scale byte of each
(log entry 27). -/
def Coll.ub (k : Coll) : Nat :=
  if k.fmt = 2 then 2 else if k.fmt = 3 then 1
  else match k.srcD.fmt with
    | .es32 => 132
    | .es64 => 260
    | f => 4 * f.bits + (if f.scaled then 32 else 0)

/-- Units that one frame holds: whole blocks, at most 15 ES32 or 7 ES64 (R242). -/
def Coll.perFrame (k : Coll) : Nat := max 1 (2048 / k.ub)

/-- Units before chunk `j`. -/
def Coll.lo (k : Coll) (j : Nat) : Nat := total (k.shard.take j)

/-- Units of the tensor. -/
def Coll.units (k : Coll) : Nat := total k.shard

/-- The chunk that holds a unit. -/
def chunkFrom (u : Nat) : List Nat → Nat → Nat → Nat
  | [], _, j => j
  | e :: t, lo, j => if u < lo + e then j else chunkFrom u t (lo + e) (j + 1)

/-- The chunk that holds a unit. -/
def Coll.chunkOf (k : Coll) (u : Nat) : Nat := chunkFrom u k.shard 0 0

-- Elements of a stored tensor, in row-major order.

/-- One unit of a stored tensor: 32 codes from element `e` on, and their scale bytes. -/
def State.storedRead (s : State) (c : Nat) (d : Desc) (e : Nat) : Res (List Byte) :=
  (Res.mapM (fun i => (s.readCodes c d ((e + i) / d.cols) ((e + i) % d.cols) 1)) (List.range 32)).bind fun cs =>
  if d.fmt.scaled then
    (Res.mapM (fun i => s.readScale c d ((e + i) / d.cols) ((e + i) % d.cols)) (List.range 32)).bind fun ss =>
    .ok (pack d.fmt.bits cs.flatten ++ ss.map fun x => BitVec.ofNat 8 x)
  else .ok (pack d.fmt.bits cs.flatten)

/-- Write one element's code at a row and column of the T128 blocks. -/
def State.putElt (s : State) (c : Nat) (d : Desc) (r col code : Nat) : Res State :=
  let bit := col % 128 * d.fmt.bits
  let a := d.rowAddr r col + bit / 8
  let n := ceilDiv (bit % 8 + d.fmt.bits) 8
  (s.vreadNat c a n).bind fun v =>
    s.vwriteNat c a n (v - bitsAt v (bit % 8) d.fmt.bits * 2 ^ (bit % 8) + code % 2 ^ d.fmt.bits * 2 ^ (bit % 8))

/-- The places beyond the extents that the write of an element fills with +0: those after the last column of its row, and
with the last row those of the rows beyond it (R85). -/
def Desc.padAfter (d : Desc) (r c : Nat) : List (Nat × Nat) :=
  let cs := if c + 1 = d.cols then List.range (roundUp d.cols 128 - d.cols + 1) |>.map (c + ·) else [c]
  let rs := if r + 1 = d.rows then List.range (roundUp d.rows 128 - d.rows + 1) |>.map (r + ·) else [r]
  (rs.flatMap fun r' => cs.map fun c' => (r', c')).filter (· != (r, c))

/-- Write one unit of a stored tensor. -/
def State.storedWrite (s : State) (c : Nat) (d : Desc) (e : Nat) (bs : List Byte) : Res State :=
  let codes := unpack d.fmt.bits (bs.take (4 * d.fmt.bits)) 0 32
  let scales := bs.drop (4 * d.fmt.bits)
  Res.fold (fun s i =>
    let r := (e + i) / d.cols
    let col := (e + i) % d.cols
    if d.rows ≤ r then .ok s else
    (s.putElt c d r col (nth 0 codes i)).bind fun s =>
    (Res.fold (fun (s : State) p => s.putElt c d p.1 p.2 0) s (d.padAfter r col)).bind fun s =>
    if d.fmt.scaled then s.vwriteNat c (d.scaleAddr r col) 1 (nth 0 scales i).toNat else .ok s) s (List.range 32)

-- Units of a collective.

/-- Units `u` to `u + n − 1` of SRC. -/
def State.unitsRead (s : State) (k : Coll) (u n : Nat) : Res (List Byte) :=
  if n = 0 then .ok []
  else if k.fmt ≥ 2 then s.vread k.cx (k.src + k.ub * u) (k.ub * n)
  else if k.stored then
    (Res.mapM (fun i => s.storedRead k.cx k.srcD (32 * (u + i))) (List.range n)).bind fun l => .ok l.flatten
  else s.vread k.cx (k.srcD.base + k.ub * u) (k.ub * n)

/-- Write units from unit `u` of DST on. -/
def State.unitsWrite (s : State) (k : Coll) (u : Nat) (bs : List Byte) : Res State :=
  if bs.isEmpty then .ok s
  else if k.fmt ≥ 2 then s.vwrite k.cx (k.dst + k.ub * u) bs
  else if k.stored then
    Res.fold (fun s i => s.storedWrite k.cx k.dstD (32 * (u + i)) ((bs.drop (k.ub * i)).take k.ub)) s (List.range (bs.length / k.ub))
  else s.vwrite k.cx (k.dstD.base + k.ub * u) bs

/-- Units of a run of bytes. -/
def splitUnits (ub : Nat) : Nat → List Byte → List (List Byte)
  | 0, _ => []
  | n + 1, bs => if bs.isEmpty then [] else bs.take ub :: splitUnits ub n (bs.drop ub)

-- Reduction of a unit (R52 to R55, R146, R261).

/-- A reduced unit: its bytes, the counts of its rounding, and the members it holds. -/
structure Reduced where
  bytes   : List Byte
  counts  : Counts := {}
  members : Nat := 0
deriving DecidableEq, Repr, Inhabited

/-- The ES32 anchor of a unit: A_T, or its entry in the anchor vector (R63). -/
def State.unitAnchor (s : State) (k : Coll) (u : Nat) : Res Int :=
  if k.avec = 0 then .ok k.aT else (s.vreadNat k.cx (k.avec + 2 * u) 2).bind fun v => .ok (signedOf 16 v)

/-- Exact sum of lists of values, element by element. -/
def sumDys (ls : List (List Dy)) : List Dy :=
  ls.foldl (fun acc l => (acc.zip l).map fun p => p.1.add p.2) (List.replicate 32 ⟨0, 0⟩)

/-- ES32: the exact sum, rounded once (R52, R53). -/
def reduce32 (aT : Int) (bs : List (List Byte)) : Reduced :=
  let ps := bs.map (esBlockVals true aT)
  let m := total (ps.map fun p => membersOf p.2.2)
  let r := es32Form (sumDys (ps.map (·.1))) aT
  ⟨es32Block r.1 r.2.1 r.2.2.2 (m % 65536), { wlow := r.2.2.1, whigh := r.2.2.2 }, m⟩

/-- The integers, anchor and members of an ES64 block (R54). -/
def es64Parts (bs : List Byte) : List Int × Int × Nat :=
  let v := leNat bs
  ((List.range 32).map fun j => signedOf 64 (bitsAt v (64 * j) 64), signedOf 16 (bitsAt v 2048 16), bitsAt v 2064 16)

/-- ES64: sums on the largest anchor, a finer contribution rounded once onto it (R55). -/
def reduce64 (bs : List (List Byte)) : Reduced :=
  let ps := bs.map es64Parts
  let a := ps.foldl (fun m p => max m p.2.1) (match ps with | p :: _ => p.2.1 | [] => 0)
  let m := total (ps.map fun p => membersOf p.2.2)
  let ns := ps.foldl (fun acc p => (acc.zip p.1).map fun q => q.1 + rneShift q.2 (a - p.2.1).toNat) (List.replicate 32 0)
  ⟨es64Block ns a (m % 65536), {}, m⟩

/-- The anchors of ES64 blocks are equal (R58). -/
def sameAnchors (bs : List (List Byte)) : Bool := (dedup (bs.map fun b => (es64Parts b).2.1)).length ≤ 1

/-- 16-bit elements: the largest, or the sum modulo 2^16 (R146). -/
def reduce16 (isMax : Bool) (bs : List (List Byte)) : Reduced :=
  let vs := bs.map fun b => signedOf 16 (leNat b)
  let v := match vs with
    | [] => 0
    | x :: t => if isMax then t.foldl max x else t.foldl (· + ·) x
  ⟨leBytes 2 (unsignedOf 16 v), {}, 0⟩

/-- Reduce the blocks of one unit; unequal ES64 anchors in partition-invariant mode are illegal and counted (R58). -/
def State.reduceUnit (s : State) (k : Coll) (u : Nat) (bs : List (List Byte)) : Res Reduced :=
  match k.fmt with
  | 0 => (s.unitAnchor k u).bind fun a => .ok (reduce32 a bs)
  | 1 => (s.pimCheck k.cx (sameAnchors bs)).bind fun _ => .ok (reduce64 bs)
  | _ => .ok (reduce16 k.isMax bs)

end Sys2Proof.Machine
end

