-- ==== Sys2Proof/Machine/Collectives.lean ====
section
/-! DEFINITION. The collective engine: rendezvous, the movement and reduction of data by shape, completion and failure
(R258 to R263, R445), and the collective commands (R146). -/

namespace Sys2Proof.Machine

-- Who sends to whom.

/-- Every member sends to every other, whatever the accord's shape (log entry 28). -/
def Coll.direct (k : Coll) : Bool := k.isVote || k.op == .exchange || k.acc.shape == 2

/-- Ranks that send data to this member. -/
def Coll.sources (k : Coll) : List Nat :=
  if k.acc.m ≤ 1 then [] else if k.direct then k.acc.otherRanks
  else if k.acc.shape = 0 then [k.acc.before] else k.acc.near

/-- Ranks that this member sends data to. -/
def Coll.targets (k : Coll) : List Nat :=
  if k.acc.m ≤ 1 then [] else if k.direct then k.acc.otherRanks
  else if k.acc.shape = 0 then [k.acc.after] else k.acc.near

/-- Units that rank `i` sends to rank `j` in an exchange: an entry of the count matrix (R262). -/
def Coll.pair (k : Coll) (i j : Nat) : Nat := nth 0 k.shard (i * k.acc.m + j)

/-- Units of the chunk of a rank. -/
def Coll.chunk (k : Coll) (j : Nat) : Nat := nth 0 k.shard j

/-- Units that this member receives before the collective is complete. -/
def Coll.need (k : Coll) : Nat :=
  let m := k.acc.m
  let r := k.acc.rank
  let all := k.units
  if m ≤ 1 || k.isVote then 0
  else match k.op with
    | .exchange => total (k.acc.otherRanks.map fun i => k.pair i r)
    | .gather => all - k.chunk r
    | .reduceScatter =>
      if k.acc.shape = 0 then all - k.chunk k.acc.before
      else if k.acc.shape = 1 then k.acc.children.length * all + (if r = 0 then 0 else all)
      else (m - 1) * k.chunk r
    | _ =>
      if k.acc.shape = 0 then (all - k.chunk k.acc.before) + (all - k.chunk r)
      else if k.acc.shape = 1 then k.acc.children.length * all + (if r = 0 then 0 else all)
      else (m - 1) * k.chunk r + (all - k.chunk r)

-- Frames.

/-- PHASE of a collective's data (R240). -/
def Coll.phase (k : Coll) (final : Bool) : Nat :=
  match k.op with
  | .reduce | .reduceScatter => if final then 1 else 0
  | .gather => 1
  | .exchange => 2
  | .barrier => 3
  | .verdict => 4
  | .norms => 5

/-- A frame of a collective to a rank. -/
def State.collFrame (s : State) (k : Coll) (typ vc q : Nat) : Frame :=
  let m := nth (0, 0) k.acc.members q
  { typ := typ, vc := vc, srcDev := s.dev, dstDev := m.1, srcCx := k.cx, dstCx := m.2, job := s.rd R.CX_REMOTE_JOB k.cx,
    accord := k.acc.index, collSeq := k.seq, epoch := k.acc.epoch, pim := s.flag R.CX_NUMERIC_PIM_ACTIVE k.cx }

/-- Bytes of the whole of what a frame's data belongs to, as MSG_BYTES carries it. -/
def Coll.msgBytes (k : Coll) (src dst : Nat) : Nat :=
  if k.isVote then k.vote.length else if k.op = .exchange then k.pair src dst * k.ub else k.units * k.ub

/-- Payloads of at most one frame, with their byte offsets. The fuel bounds their number. -/
def framePieces (size : Nat) : Nat → Nat → List Byte → List (Nat × List Byte)
  | 0, _, _ => []
  | n + 1, off, bs => if bs.isEmpty then [] else (off, bs.take size) :: framePieces size n (off + size) (bs.drop size)

/-- Form the frames that carry units from unit `u` on to a rank. -/
def Coll.queue (k : Coll) (q : Nat) (final : Bool) (u : Nat) (bs : List Byte) : Coll :=
  let size := k.perFrame * k.ub
  { k with outbox := k.outbox ++ (framePieces size (bs.length / size + 1) (u * k.ub) bs).map fun p => (q, k.phase final, p.1, p.2) }

/-- Form frames to several ranks. -/
def Coll.queues (k : Coll) (qs : List Nat) (final : Bool) (us : List (Nat × List Byte)) : Coll :=
  qs.foldl (fun k q => us.foldl (fun k p => k.queue q final p.1 p.2) k) k

/-- Join the bytes of consecutive units into runs. -/
def joinUnits (ub : Nat) : List (Nat × List Byte) → List (Nat × List Byte)
  | [] => []
  | (u, b) :: t =>
    match joinUnits ub t with
    | (v, c) :: r => if v = u + b.length / ub then (u, b ++ c) :: r else (u, b) :: (v, c) :: r
    | [] => [(u, b)]

/-- Send what a READY allows (R259). -/
def State.flush (s : State) (k : Coll) : State × Coll :=
  let go := k.outbox.filter fun o => k.ready.contains o.1
  let fs := go.map fun o =>
    { s.collFrame k 7 2 o.1 with phase := o.2.1, offset := o.2.2.1, msgBytes := k.msgBytes k.acc.rank o.1, payload := o.2.2.2 }
  (s.sendFrames fs,
   { k with outbox := k.outbox.filter (fun o => !k.ready.contains o.1), dataTo := dedup (k.dataTo ++ go.map (·.1)) })

/-- Send COLL_READY to the ranks whose data has not begun to arrive (R259). -/
def State.sendReady (s : State) (k : Coll) : State × Coll :=
  let qs := k.sources.filter fun q => !k.dataFrom.contains q
  (s.sendFrames (qs.map fun q => s.collFrame k 8 3 q), { k with readyAt := s.clock })

/-- Put a collective back. -/
def State.setColl (s : State) (k : Coll) : State := { s with colls := replaceFirst (fun x => x.id == k.id) (fun _ => k) s.colls }

-- The data of a reduction.

/-- Reduce units: each with the blocks received for it, and this member's own. -/
def State.reduceAll (s : State) (k : Coll) (us : List (Nat × List (List Byte))) : Res (List (Nat × Reduced)) :=
  Res.mapM (fun (p : Nat × List (List Byte)) =>
    (s.unitsRead k p.1 1).bind fun own => (s.reduceUnit k p.1 (own :: p.2)).bind fun r => .ok (p.1, r)) us

/-- The counts of roundings join the collective's. -/
def Coll.counted (k : Coll) (rs : List (Nat × Reduced)) : Coll := { k with counts := rs.foldl (fun c p => c.add p.2.counts) k.counts }

/-- Send reduced units on, not yet final. -/
def Coll.passOn (k : Coll) (q : Nat) (rs : List (Nat × Reduced)) : Coll :=
  (k.counted rs).queues [q] false (joinUnits k.ub (rs.map fun p => (p.1, p.2.bytes)))

/-- MEMBERS of an exchange block (R51, R54). -/
def blockMembers (fmt : Nat) (bs : List Byte) : Nat := membersOf (bitsAt (leNat bs) (if fmt = 0 then 1040 else 2064) 16)

/-- Every final block holds every member (R263). -/
def Coll.wholeBlocks (k : Coll) (us : List (List Byte)) : Bool := decide (2 ≤ k.fmt) || us.all fun b => blockMembers k.fmt b == k.acc.m

/-- Write final units into DST: of a REDUCE_SCATTER those of this member's chunk, from the first byte (R260). -/
def State.finalWrite (s : State) (k : Coll) (us : List (Nat × List Byte)) : Res State :=
  let r := k.acc.rank
  let us := if k.op = .reduceScatter then (us.filter fun p => k.chunkOf p.1 == r).map fun p => (p.1 - k.lo r, p.2) else us
  Res.fold (fun s (p : Nat × List Byte) => s.unitsWrite k p.1 p.2) s (joinUnits k.ub us)

/-- Where this member sends final units of its own on (R261). -/
def Coll.spread (k : Coll) : List Nat :=
  if k.acc.m ≤ 1 then []
  else if k.acc.shape = 1 then k.acc.children
  else if k.op = .reduceScatter then []
  else if k.acc.shape = 0 then [k.acc.after]
  else k.acc.otherRanks

/-- Units become final on this member: written and sent on. -/
def State.finals (s : State) (k : Coll) (rs : List (Nat × Reduced)) : Res (State × Coll) :=
  let us := rs.map fun p => (p.1, p.2.bytes)
  (Res.check (decide (2 ≤ k.fmt) || rs.all fun p => p.2.members == k.acc.m) collFailed).bind fun _ =>
  (s.finalWrite k us).bind fun s =>
  .ok (s, (k.counted rs).queues k.spread true (joinUnits k.ub us))

/-- Units `u` to `u + n − 1` with no block received. -/
def bareUnits (u n : Nat) : List (Nat × List (List Byte)) := (List.range n).map fun i => (u + i, [])

/-- The start of a reduction on this member (R261). -/
def State.beginReduce (s : State) (k : Coll) : Res (State × Coll) :=
  let r := k.acc.rank
  if k.acc.m ≤ 1 then (s.reduceAll k (bareUnits 0 k.units)).bind fun rs => s.finals k rs
  else if k.acc.shape = 0 then
    let j := k.acc.before
    (s.reduceAll k (bareUnits (k.lo j) (k.chunk j))).bind fun rs => .ok (s, k.passOn k.acc.after rs)
  else if k.acc.shape = 1 then
    if !k.acc.children.isEmpty then .ok (s, k) else
    (s.reduceAll k (bareUnits 0 k.units)).bind fun rs =>
    if r = 0 then s.finals k rs else .ok (s, k.passOn k.acc.parent rs)
  else
    Res.fold (fun (w : State × Coll) q =>
      (w.1.reduceAll w.2 (bareUnits (w.2.lo q) (w.2.chunk q))).bind fun rs => .ok (w.1, w.2.passOn q rs)) (s, k) k.acc.otherRanks

/-- Blocks that a unit still lacks before it can be reduced: from the children, or from every other member. -/
def Coll.partners (k : Coll) : Nat := if k.acc.shape = 1 then k.acc.children.length else k.acc.m - 1

/-- Received blocks of a reduction. -/
def State.takeReduce (s : State) (k : Coll) (q : Nat) (us : List (Nat × List Byte)) : Res (State × Coll) :=
  let r := k.acc.rank
  if k.acc.shape = 0 then
    (s.reduceAll k (us.map fun p => (p.1, [p.2]))).bind fun rs =>
    let mine := rs.filter fun p => k.chunkOf p.1 == r
    let k := k.passOn k.acc.after (rs.filter fun p => k.chunkOf p.1 != r)
    if mine.isEmpty then .ok (s, k) else s.finals k mine
  else
    let k := { k with parts := k.parts ++ us.map fun p => (p.1, q, p.2) }
    let full := (us.map (·.1)).filter fun u => decide (k.partners ≤ (k.parts.filter fun x => x.1 == u).length)
    (s.reduceAll k (full.map fun u => (u, (k.parts.filter fun x => x.1 == u).map (·.2.2)))).bind fun rs =>
    let k := { k with parts := k.parts.filter fun x => !full.contains x.1 }
    if k.acc.shape == 1 && r != 0 then .ok (s, k.passOn k.acc.parent rs) else s.finals k rs

/-- Received final blocks: written, and copied on around the ring or down the tree (R261). -/
def State.takeFinal (s : State) (k : Coll) (us : List (Nat × List Byte)) : Res (State × Coll) :=
  (Res.check (k.wholeBlocks (us.map (·.2))) collFailed).bind fun _ =>
  (s.finalWrite k us).bind fun s =>
  let on := if k.acc.shape = 0 then us.filter fun p => k.chunkOf p.1 != k.acc.after else us
  .ok (s, k.queues (if k.acc.shape = 0 then [k.acc.after] else if k.acc.shape = 1 then k.acc.children else []) true (joinUnits k.ub on))

-- ALLGATHER.

/-- ALLGATHER: the own part goes to its place and to the other members (R260). -/
def State.beginGather (s : State) (k : Coll) : Res (State × Coll) :=
  let r := k.acc.rank
  (s.unitsRead k 0 (k.chunk r)).bind fun bs =>
  (s.unitsWrite k (k.lo r) bs).bind fun s => .ok (s, k.queues k.targets true [(k.lo r, bs)])

/-- Received parts of an ALLGATHER: written, and copied on. -/
def State.takeGather (s : State) (k : Coll) (q : Nat) (us : List (Nat × List Byte)) : Res (State × Coll) :=
  (Res.fold (fun s (p : Nat × List Byte) => s.unitsWrite k p.1 p.2) s (joinUnits k.ub us)).bind fun s =>
  let on := if k.acc.shape = 0 then us.filter fun p => k.chunkOf p.1 != k.acc.after else us
  let dest := if k.acc.shape = 0 then [k.acc.after] else if k.acc.shape = 1 then k.acc.near.filter (· != q) else []
  .ok (s, k.queues dest true (joinUnits k.ub on))

-- ALLTOALL_RAGGED.

/-- Ranks whose contribution to this member reaches unit `t`. -/
def Coll.contributors (k : Coll) (t : Nat) : List Nat := (List.range k.acc.m).filter fun i => decide (t < k.pair i k.acc.rank)

/-- The exchanged units that have every contribution: summed and written (R260). -/
def State.exchFull (s : State) (k : Coll) (ts : List Nat) : Res (State × Coll) :=
  let full := ts.filter fun t => decide ((k.contributors t).length ≤ (k.parts.filter fun x => x.1 == t).length)
  (Res.mapM (fun t => (s.reduceUnit k t ((k.parts.filter fun x => x.1 == t).map (·.2.2))).bind fun r => .ok (t, r)) full).bind fun rs =>
  (Res.check (rs.all fun (p : Nat × Reduced) => p.2.members == (k.contributors p.1).length) collFailed).bind fun _ =>
  (Res.fold (fun s (p : Nat × List Byte) => s.unitsWrite k p.1 p.2) s (joinUnits k.ub (rs.map fun p => (p.1, p.2.bytes)))).bind fun s =>
  .ok (s, { k.counted rs with parts := k.parts.filter fun x => !full.contains x.1 })

/-- Units before the part for rank `q` in this member's row of the count matrix. -/
def Coll.rowLo (k : Coll) (q : Nat) : Nat := total ((List.range q).map fun j => k.pair k.acc.rank j)

/-- Units before the part from rank `q` in what this member receives. -/
def Coll.colLo (k : Coll) (q : Nat) : Nat := total ((List.range q).map fun i => k.pair i k.acc.rank)

/-- The start of an exchange: each part goes to its rank, this member's own stays (R260). -/
def State.beginExch (s : State) (k : Coll) : Res (State × Coll) :=
  let r := k.acc.rank
  (Res.fold (fun (w : State × Coll) q =>
    (s.unitsRead k (k.rowLo q) (k.pair r q)).bind fun bs =>
    if k.fmt = 3 then
      if q = r then (w.1.unitsWrite k (k.colLo r) bs).bind fun s => .ok (s, w.2) else .ok (w.1, w.2.queues [q] false [(0, bs)])
    else
      (Res.mapM (fun (p : Nat × List Byte) => (s.reduceUnit k p.1 [p.2]).bind fun x => .ok (p.1, x))
        ((List.range (k.pair r q)).zip (splitUnits k.ub (k.pair r q) bs))).bind fun rs =>
      if q = r then .ok (w.1, { w.2.counted rs with parts := w.2.parts ++ rs.map fun p => (p.1, r, p.2.bytes) })
      else .ok (w.1, w.2.passOn q rs)) (s, k) (List.range k.acc.m)).bind fun w =>
  if k.fmt = 3 then .ok w else w.1.exchFull w.2 (List.range (k.pair r r))

/-- Received parts of an exchange. -/
def State.takeExch (s : State) (k : Coll) (q : Nat) (us : List (Nat × List Byte)) : Res (State × Coll) :=
  if k.fmt = 3 then
    (Res.fold (fun s (p : Nat × List Byte) => s.unitsWrite k (k.colLo q + p.1) p.2) s (joinUnits k.ub us)).bind fun s => .ok (s, k)
  else s.exchFull { k with parts := k.parts ++ us.map fun p => (p.1, q, p.2) } (us.map (·.1))

-- Completion.

/-- All that a member receives has arrived, and all that it sends has gone. -/
def Coll.over (k : Coll) : Bool :=
  k.entered && k.outbox.isEmpty && decide (k.need ≤ k.rx) && (!k.isVote || decide (k.acc.m ≤ k.votes.length + 1))

/-- The members' marks of a verdict, this one's among them: SKIP where any is set (R67). -/
def Coll.anyMark (k : Coll) : Bool := (k.vote :: k.votes.map (·.2)).any fun v => leNat (v.take 1) != 0

/-- One of the three sums of a norm exchange, held below 2^63 (R187). -/
def Coll.normSum (k : Coll) (i : Nat) : Nat :=
  min (total ((k.vote :: k.votes.map (·.2)).map fun v => leNat ((v.drop (8 * i)).take 8))) (2 ^ 63 - 1)

/-- What a completed collective leaves with the command it ran for. -/
def State.collResult (s : State) (k : Coll) : State :=
  match k.cmd with
  | none => if k.ready5 then s.readyBarrierDone k.cx else s.sealBarrierDone k.cx
  | some id =>
    match k.op with
    | .verdict => s.updCmd id fun x => { x with phase := .finished, upd := { x.upd with skipped := k.anyMark } }
    | .norms => s.updCmd id fun x =>
        { x with upd := { x.upd with w2 := k.normSum 0, g2 := k.normSum 1, u2 := k.normSum 2, exchanged := true } }
    | .barrier => s.updCmd id fun x => { x with phase := .finished }
    | _ => (if k.fmt < 2 then s.countFor id k.srcD.tid k.srcD.kind k.counts else s).updCmd id fun x => { x with phase := .finished }

/-- Complete a collective, where it is over: members that disagree fault as an illegal command, else its flags are cleared
(R67, R187, R259). -/
def State.endColl (s : State) (k : Coll) : State :=
  if !k.over then s
  else if k.differs then s.failColl k illegal
  else
    let s := { s with colls := s.colls.filter fun x => x.id != k.id }
    ((s.clearReady k.cx k.acc k.seq).rush 5 k.cx 0 0 0 0 (k.seq % 2 ^ 32)).collResult k

/-- Store what a step of a collective came to, or fail it. -/
def State.collStep (s : State) (k : Coll) (r : Res (State × Coll)) : State :=
  match r with
  | .ok (s', k') =>
    let (s', k') := s'.flush k'
    (s'.setColl k').endColl k'
  | .fault c => s.failColl k c
  | .wait => s.failColl k stashExhausted

-- Dispatch, entry, timers.

/-- Number a collective at its dispatch (R258): the state with the number taken, the number, and whether an abort was kept
for it. -/
def State.takeNumber (s : State) (c : Nat) (a : Accord) : Res (State × Nat × Bool) :=
  if !s.areaOk c a then .fault (pageFault a.area) else
  (s.areaView c a).bind fun v =>
  (s.areaWrite c a { v with next := (v.next + 1) % 2 ^ 32 }).bind fun s => .ok (s, v.next, v.kept == some v.next)

/-- The accord that a command names, checked at dispatch; the parity accord serves no command (R251, R257, R315). -/
def State.commandAccord (s : State) (c i : Nat) : Res Accord :=
  if s.flag R.CX_CKPT_CTL_EN c && !(s.cx c).ckpt.group.isEmpty && s.rd R.CX_CKPT_PAR_ACCORD c == i then .fault illegal
  else (s.readAccord c i).bind fun a => if s.areaOk c a then .ok a else .fault (pageFault a.area)

/-- Open a collective: it takes its number, and fails at once where an abort was kept for it (R258, R445). -/
def State.openColl (s : State) (k : Coll) : State :=
  match s.takeNumber k.cx k.acc with
  | .ok (s, n, kept) =>
    let k := { k with id := s.nextColl, seq := n, ready := (s.readyFlags k.cx k.acc n).filter fun r => k.targets.contains r }
    let s := { s with colls := s.colls ++ [k], nextColl := s.nextColl + 1 }
    if kept then s.failColl k collFailed else s
  | .fault c => s.faultCx k.cx c (s.cmdPlace k.cmd)
  | .wait => s

/-- The start of the data of a collective. -/
def State.beginData (s : State) (k : Coll) : Res (State × Coll) :=
  match k.op with
  | .reduce | .reduceScatter => s.beginReduce k
  | .gather => s.beginGather k
  | .exchange => s.beginExch k
  | _ => .ok (s, { k with outbox := k.acc.otherRanks.map fun q => (q, k.phase true, 0, k.vote) })

/-- A collective enters the rendezvous (R259, R260). -/
def State.enterColl (s : State) (k : Coll) : State :=
  let k := { k with entered := true, began := s.clock, lastRx := s.clock }
  let (s, k) := s.sendReady k
  (s.setColl k).collStep k (s.beginData k)

/-- Enter the collective that runs for a command with its contribution. -/
def State.enterVote (s : State) (id : Nat) (vote : List Byte) : State :=
  match s.colls.find? fun k => k.cmd == some id with
  | some k => s.enterColl { k with vote := vote }
  | none => s

/-- READY_RESEND: a member repeats its READY every millisecond until the first data from a peer (R259). -/
def readyAgain (s : State) (id : Nat) : State :=
  match s.colls.find? fun k => k.id == id with
  | none => s
  | some k =>
    if !s.live || !k.entered || decide (s.clock < 1000000 + k.readyAt) then s else
    let (s, k) := s.sendReady k
    (s.setColl k).settle

/-- READY_RESEND. -/
def execReadyResend (id : Nat) (s : State) : Host.Outcome State Fault Refusal := .next (readyAgain s id)

/-- Every READY that a member waits for is held. -/
def Coll.allReady (k : Coll) : Bool := k.targets.all fun q => k.ready.contains q

/-- COLL_TIMEOUT: no frame of a collective for COLL_MS while all its READYs are held (R263). -/
def collLate (s : State) (id : Nat) : State :=
  match s.colls.find? fun k => k.id == id with
  | none => s
  | some k =>
    let ms := if s.rd R.CE_CFG_COLL_MS = 0 then 100 else s.rd R.CE_CFG_COLL_MS
    if s.live && k.entered && k.allReady && decide (k.lastRx + ms * 1000000 ≤ s.clock) then (s.failColl k collFailed).settle else s

/-- COLL_TIMEOUT. -/
def execCollTimeout (id : Nat) (s : State) : Host.Outcome State Fault Refusal := .next (collLate s id)

/-- READY_TIMEOUT: a READY has not come within READY_S; 0 disables the limit (R263). -/
def readyLate (s : State) (id : Nat) : State :=
  match s.colls.find? fun k => k.id == id with
  | none => s
  | some k =>
    let n := s.rd R.CE_CFG_READY_S
    if s.live && k.entered && !k.allReady && n != 0 && decide (k.began + n * 1000000000 ≤ s.clock) then
      (s.failColl k collFailed).settle
    else s

/-- READY_TIMEOUT. -/
def execReadyTimeout (id : Nat) (s : State) : Host.Outcome State Fault Refusal := .next (readyLate s id)

-- Frames received.

/-- A stale frame is dropped and counted (R259). -/
def State.stale (s : State) : State := s.bump R.CE_STAT_STALE

/-- Aborts for a collective that this member has not dispatched (R59, R263). -/
def State.abortEarly (s : State) (c : Nat) (a : Accord) (f : Frame) : State :=
  s.sendFrames (a.others.map fun m => collAbortFrame s { id := 0, cmd := none, cx := c, acc := a, seq := f.collSeq, op := .barrier } m)

/-- Record a READY: in the bitmap of its number, and for a collective in progress (R259). -/
def State.recordReady (s : State) (f : Frame) (a : Accord) (r : Nat) : State :=
  let c := f.dstCx
  match s.coll? c a.index f.collSeq with
  | some k =>
    if k.dataTo.contains r then s.setColl { k with lastRx := s.clock } else
    match s.setReady c a f.collSeq r with
    | .ok s =>
      let k := { k with ready := dedup (k.ready ++ [r]), lastRx := s.clock }
      (s.setColl k).collStep k (.ok (s.setColl k, k))
    | _ => s.faultCx c (pageFault a.area)
  | none =>
    match s.setReady c a f.collSeq r with
    | .ok s => s
    | _ => s.faultCx c (pageFault a.area)

/-- COLL_READY on the context it is for. -/
def takeReady (f : Frame) (s : State) : State :=
  let c := f.dstCx
  if !s.cxLive c then s else
  match s.readAccord c f.accord with
  | .ok a =>
    match s.areaView c a, a.rankOf f.srcDev f.srcCx with
    | .ok v, some r =>
      if f.epoch != a.epoch || decide (f.collSeq + 1 < v.next) then s.stale
      else if f.pim != s.flag R.CX_NUMERIC_PIM_ACTIVE c then
        (if (s.coll? c a.index f.collSeq).isNone then s.abortEarly c a f else s).faultCx c illegal
      else if (s.coll? c a.index f.collSeq).isNone && decide (f.collSeq < v.next) then s
      else if !s.areaOk c a then s.faultCx c (pageFault a.area)
      else s.recordReady f a r
    | _, _ => s.stale
  | _ => s.stale

/-- COLL_READY. -/
def execCollReady (p : Fin 18) (f : Frame) (s : State) : Host.Outcome State Fault Refusal := .next (receive p f 8 takeReady s)

/-- A data frame agrees with its collective (R258): phase, sender, whole units within the tensor, and the tensor's bytes. -/
def Coll.dataOk (k : Coll) (q : Nat) (f : Frame) : Bool :=
  k.entered && k.sources.contains q && (f.phase == k.phase false || f.phase == k.phase true) &&
    f.msgBytes == k.msgBytes q k.acc.rank &&
    (if k.isVote then f.offset == 0 && f.len == k.vote.length
     else f.offset % k.ub == 0 && f.len % k.ub == 0 && decide (f.offset + f.len ≤ k.msgBytes q k.acc.rank))

/-- The units of a data frame. -/
def Coll.frameUnits (k : Coll) (f : Frame) : List (Nat × List Byte) :=
  (List.range (f.len / k.ub)).map (f.offset / k.ub + ·) |>.zip (splitUnits k.ub (f.len / k.ub) f.payload)

/-- A data frame of a collective on this member. -/
def State.takeUnits (s : State) (k : Coll) (q : Nat) (f : Frame) : Res (State × Coll) :=
  let us := k.frameUnits f
  let k := { k with rx := k.rx + us.length }
  match k.op with
  | .reduce | .reduceScatter => if f.phase = 0 then s.takeReduce k q us else s.takeFinal k us
  | .gather => s.takeGather k q us
  | .exchange => s.takeExch k q us
  | _ => .ok (s, k)

/-- COLL_DATA on the collective it is for. -/
def takeColl (f : Frame) (s : State) : State :=
  let c := f.dstCx
  if !s.cxLive c then s else
  match s.coll? c f.accord f.collSeq with
  | none => s.stale
  | some k =>
    match k.acc.rankOf f.srcDev f.srcCx with
    | none => s.stale
    | some q =>
      if f.epoch != k.acc.epoch then s.failColl k collFailed
      else if f.pim != s.flag R.CX_NUMERIC_PIM_ACTIVE c then s.failColl k illegal
      else if !k.dataOk q f then s.failColl k collFailed
      else
        let k := { k with lastRx := s.clock, dataFrom := dedup (k.dataFrom ++ [q]) }
        if k.isVote then
          let k := { k with votes := k.votes ++ [(q, f.payload)] }
          s.collStep k (.ok (s, k))
        else s.collStep k (s.takeUnits k q f)

/-- COLL_DATA. -/
def execCollData (p : Fin 18) (f : Frame) (s : State) : Host.Outcome State Fault Refusal := .next (receive p f 7 takeColl s)

/-- Keep an abort for a number not yet dispatched: the lower of two (R445). -/
def State.keepAbort (s : State) (c : Nat) (a : Accord) (v : AreaView) (n : Nat) : State :=
  if !s.areaOk c a then s.faultCx c (pageFault a.area) else
  match s.areaWrite c a { v with kept := some (match v.kept with | some m => min m n | none => n) } with
  | .ok s => s
  | _ => s.faultCx c (pageFault a.area)

/-- COLL_ABORT on the context it is for (R263, R264, R445); members that disagree in S or A_N fault as an illegal command in
every member (R67, R187; log entry 45). -/
def takeAbort (f : Frame) (s : State) : State :=
  let c := f.dstCx
  if !s.cxLive c then s else
  match s.coll? c f.accord f.collSeq with
  | some k =>
    if k.acc.epoch = f.epoch then s.failColl k (if k.differs || decide (4 ≤ f.phase) then illegal else collFailed) else s.stale
  | none =>
    match s.readAccord c f.accord with
    | .ok a =>
      match s.areaView c a with
      | .ok v =>
        if f.epoch != a.epoch || decide (f.collSeq + 1 < v.next) then s.stale
        else if f.collSeq < v.next then s
        else s.keepAbort c a v f.collSeq
      | _ => s.stale
    | _ => s.stale

/-- COLL_ABORT. -/
def execCollAbort (p : Fin 18) (f : Frame) (s : State) : Host.Outcome State Fault Refusal := .next (receive p f 9 takeAbort s)

-- The commands (R146).

/-- KIND. -/
def ceKind (w : Packet) : Nat := pkt w 80 2

/-- FMT. -/
def ceFmt (w : Packet) : Nat := pkt w 82 2

/-- SRC. -/
def ceSrc (w : Packet) : Nat := pkt w 128 48

/-- DST. -/
def ceDst (w : Packet) : Nat := pkt w 176 48

/-- COUNT. -/
def ceCount (w : Packet) : Nat := pkt w 224 40

/-- SHARD. -/
def ceShard (w : Packet) : Nat := pkt w 264 48

/-- AVEC. -/
def ceAvec (w : Packet) : Nat := pkt w 312 48

/-- A_T. -/
def ceAnchor (w : Packet) : Int := signedOf 16 (pkt w 84 16)

/-- What a collective command computes. -/
def ceOp (w : Packet) : CollOp :=
  match opc w with
  | 0x30 => .reduce
  | 0x31 => .gather
  | 0x32 => .reduceScatter
  | 0x33 => .exchange
  | _ => .barrier

/-- The command reduces. -/
def ceReduces (w : Packet) : Bool := opc w == 0x30 || opc w == 0x32 || (opc w == 0x33 && decide (ceFmt w < 2))

/-- The combination of KIND and FMT is one that R146 allows, and A_T is 127 where no anchor vector is named. -/
def ceFieldsOk (w : Packet) : Bool :=
  rsvZero w [(100, 28), (360, 152)] && (ceKind w == 0 || (ceKind w == 1 && ceFmt w == 2)) &&
    (if opc w = 0x30 ∨ opc w = 0x32 then ceFmt w != 3 else ceFmt w != 2) &&
    (!(ceReduces w && ceFmt w == 0 && ceAvec w == 0) || ceAnchor w == 127)

/-- The descriptors of a command with FMT 0 or 1. -/
def State.ceDescs (s : State) (x : Cmd) : Res (Desc × Desc) :=
  if 2 ≤ ceFmt x.w then .ok ({}, {}) else
  (s.readDesc x.cx (ceSrc x.w)).bind fun a => (s.readDesc x.cx (ceDst x.w)).bind fun b => .ok (a, b)

/-- The ranges that a collective command reads and writes, as far as its descriptors can be read at dispatch (R164). -/
def State.ceRanges (s : State) (x : Cmd) : List (Nat × Nat) × List (Nat × Nat) :=
  let n := if ceFmt x.w = 2 then 2 * ceCount x.w else ceCount x.w
  if 2 ≤ ceFmt x.w then ([(ceSrc x.w, n)], [(ceDst x.w, n)]) else
  match s.ceDescs x with
  | .ok (a, b) => (a.ranges, b.ranges)
  | _ => ([], [])

/-- The checks of REDUCE, REDUCE_SCATTER, ALLGATHER and ALLTOALL_RAGGED at dispatch (R58, R146, R251, R257). -/
def prepColl (s : State) (x : Cmd) : Res Cmd :=
  (Res.check (ceFieldsOk x.w && s.seated) illegal).bind fun _ =>
  (s.pimCheck x.cx (!(ceReduces x.w && ceKind x.w == 0 && ceFmt x.w != 1))).bind fun _ =>
  (s.commandAccord x.cx (pkt x.w 64 16)).bind fun _ =>
  let r := s.ceRanges x
  (s.touches x.cx r.1 r.2).bind fun ts => .ok { x with stash := ts }

/-- The descriptors suit the command: exchange tensors of its FMT for a reduction, two of one form otherwise (R146). -/
def ceDescsOk (w : Packet) (a b : Desc) : Bool :=
  decide (2 ≤ ceFmt w) ||
  (if ceReduces w then
     (if ceFmt w = 0 then a.fmt == .es32 && b.fmt == .es32 else a.fmt == .es64 && b.fmt == .es64)
   else a.fmt == b.fmt && a.b16 == b.b16 && a.quad == b.quad)

/-- Units of a count of elements: blocks of 32 for FMT 0 and 1. An exchange tensor taken whole has the blocks of its
rows (R85). -/
def unitsOf (fmt : Nat) (d : Desc) (n : Nat) : Nat :=
  if 2 ≤ fmt then n
  else if d.fmt.isEs && n == d.rows * d.cols then d.rows * ceilDiv d.cols 32
  else ceilDiv n 32

/-- Chunks without a shard table (R260). -/
def plainChunks (op : CollOp) (m n : Nat) : List Nat :=
  if op = .gather then List.replicate m n else (List.range m).map fun j => (j + 1) * n / m - j * n / m

/-- The extents of a command: its shard table's, with the checks of R262, or equal chunks (R260). -/
def State.ceShards (s : State) (x : Cmd) (k : Coll) : Res (List Nat) :=
  let m := k.acc.m
  let n := ceCount x.w
  let unit := if k.fmt < 2 then 32 else 1
  if ceShard x.w = 0 then
    if k.op = .exchange then .fault illegal else .ok (plainChunks k.op m (unitsOf k.fmt k.srcD n))
  else
    (s.readShard x.cx (ceShard x.w) m (k.op == .exchange)).bind fun es =>
    (s.pimCheck x.cx (k.fmt == 3 || es.all fun e => e % 32 == 0)).bind fun _ =>
    let sum := match k.op with
      | .gather => nth 0 es k.acc.rank
      | .exchange => total ((es.drop (k.acc.rank * m)).take m)
      | _ => total es
    (Res.check (es.all (fun e => e % unit == 0) && n == sum) illegal).bind fun _ => .ok (es.map (· / unit))

/-- The start of a collective command: its descriptors and its shard table are read and checked (R146, R262). -/
def State.startColl (s : State) (x : Cmd) (k : Coll) : Res Coll :=
  (s.ceDescs x).bind fun d =>
  (Res.check (ceDescsOk x.w d.1 d.2) illegal).bind fun _ =>
  let k := { k with isMax := ceKind x.w == 1, fmt := ceFmt x.w, aT := ceAnchor x.w, avec := if ceFmt x.w = 0 then ceAvec x.w else 0,
                    src := ceSrc x.w, dst := ceDst x.w, srcD := d.1, dstD := d.2, count := ceCount x.w }
  (s.ceShards x k).bind fun es => .ok { k with shard := es }

/-- Start a dispatched collective, if the stash lets it. -/
def tryColl (s : State) (x : Cmd) : State :=
  match s.colls.find? fun k => k.cmd == some x.id with
  | none => s
  | some k =>
    match s.stashReady x.cx x.stash with
    | (s, false) => s
    | (s, true) =>
      match s.startColl x k with
      | .ok k => (s.updCmd x.id fun y => { y with phase := .running }).enterColl k
      | .fault e => s.faultCmd x e
      | .wait => s

/-- A collective command is dispatched: it takes its number, and begins where nothing holds it back. -/
def runColl (s : State) (x : Cmd) : State :=
  let s := enqueue s x
  match s.commandAccord x.cx (pkt x.w 64 16) with
  | .ok a =>
    let s := s.openColl { id := 0, cmd := some x.id, cx := x.cx, acc := a, seq := 0, op := ceOp x.w }
    if s.cxLive x.cx then tryColl s x else s
  | .fault e => s.faultCmd x e
  | .wait => s

/-- REDUCE. -/
def execReduce (sp : Fin 32) (s : State) : Host.Outcome State Fault Refusal :=
  .next (dispatch sp (fun w => opc w == 0x30) prepColl runColl s)

/-- ALLGATHER. -/
def execAllgather (sp : Fin 32) (s : State) : Host.Outcome State Fault Refusal :=
  .next (dispatch sp (fun w => opc w == 0x31) prepColl runColl s)

/-- REDUCE_SCATTER. -/
def execReduceScatter (sp : Fin 32) (s : State) : Host.Outcome State Fault Refusal :=
  .next (dispatch sp (fun w => opc w == 0x32) prepColl runColl s)

/-- ALLTOALL_RAGGED. -/
def execAlltoallRagged (sp : Fin 32) (s : State) : Host.Outcome State Fault Refusal :=
  .next (dispatch sp (fun w => opc w == 0x33) prepColl runColl s)

/-- The checks of BARRIER: it reads ACCORD alone (R146). -/
def prepBarrier (s : State) (x : Cmd) : Res Cmd :=
  (Res.check (rsvZero x.w [(80, 432)] && s.seated) illegal).bind fun _ =>
  (s.commandAccord x.cx (pkt x.w 64 16)).bind fun _ => .ok x

/-- BARRIER enters its rendezvous at dispatch (R260). -/
def runBarrier (s : State) (x : Cmd) : State :=
  let s := enqueue s { x with phase := .running }
  match s.commandAccord x.cx (pkt x.w 64 16) with
  | .ok a =>
    (s.openColl { id := 0, cmd := some x.id, cx := x.cx, acc := a, seq := 0, op := .barrier }).enterVote x.id []
  | .fault e => s.faultCmd x e
  | .wait => s

/-- BARRIER. -/
def execBarrier (sp : Fin 32) (s : State) : Host.Outcome State Fault Refusal :=
  .next (dispatch sp (fun w => opc w == 0x34) prepBarrier runBarrier s)

end Sys2Proof.Machine
end

