-- ==== Sys2Proof/Machine/Kcg.lean ====
section
/-! DEFINITION. The keyed counter generator (R142) and its four domains (R143). -/

namespace Sys2Proof.Machine

/-- Four 32-bit words. -/
structure Quad where
  x0 : BitVec 32
  x1 : BitVec 32
  x2 : BitVec 32
  x3 : BitVec 32
deriving DecidableEq, Repr

/-- Key word i mod 4. -/
def Quad.word (k : Quad) (i : Nat) : BitVec 32 :=
  match i % 4 with
  | 0 => k.x0 | 1 => k.x1 | 2 => k.x2 | _ => k.x3

/-- One round of R142. -/
def kcgRound (k : Quad) (r : Nat) (x : Quad) : Quad :=
  let x0 := x.x0 + k.word r + BitVec.ofNat 32 r
  let x0 := x0 + x.x1
  let x3 := (x.x3 ^^^ x0).rotateLeft 16
  let x2 := x.x2 + x3
  let x1 := (x.x1 ^^^ x2).rotateLeft 12
  let x0 := x0 + x1
  let x3 := (x3 ^^^ x0).rotateLeft 8
  let x2 := x2 + x3
  let x1 := (x1 ^^^ x2).rotateLeft 7
  let x1 := x1 ^^^ k.word (r + 1)
  ⟨x0, x1, x2, x3⟩

/-- KCG: ten rounds and the counter added back (R142). -/
def kcg (k c : Quad) : Quad :=
  let x := (List.range 10).foldl (fun x r => kcgRound k r x) c
  ⟨x.x0 + c.x0, x.x1 + c.x1, x.x2 + c.x2, x.x3 + c.x3⟩

/-- Output word 0 for a key and a counter given as numbers (R143). -/
def kcgWord (seed k2 k3 c01 c2 : Nat) : Nat :=
  (kcg ⟨BitVec.ofNat 32 seed, BitVec.ofNat 32 (seed / 2 ^ 32), BitVec.ofNat 32 k2, BitVec.ofNat 32 k3⟩
    ⟨BitVec.ofNat 32 c01, BitVec.ofNat 32 (c01 / 2 ^ 32), BitVec.ofNat 32 c2, 0⟩).x0.toNat

/-- Domain 0, stochastic rounding: 16 bits (R74, R143). -/
def drawRound (seed tid sel t index : Nat) : Nat :=
  kcgWord seed (tid % 2 ^ 24 + sel % 4 * 2 ^ 24) t (index % 2 ^ 48) 0 % 2 ^ 16

/-- Domain 1, SAMPLE (R143). -/
def drawSample (seed seqId pos : Nat) : Nat := kcgWord seed 0x10000000 0 (seqId % 2 ^ 64) pos

/-- Domain 2, DROPOUT (R143). -/
def drawDropout (seed maskTid step index : Nat) : Nat :=
  kcgWord seed (0x20000000 + maskTid % 2 ^ 24) step (index % 2 ^ 48) 0

/-- Domain 3, RAND (R143). -/
def drawRand (seed streamId draw : Nat) : Nat := kcgWord seed 0x30000000 streamId (draw % 2 ^ 64) 0

end Sys2Proof.Machine
end

