-- ==== Sys2Proof/Machine/Fe.lean ====
section
/-! DEFINITION. The finishing engines: source reads, finishing programs, conversion into a destination, FINISH and HCOUNT
(R47, R60 to R65, R129 to R141, R444). -/

namespace Sys2Proof.Machine

-- Reads into FP32 (R129).

/-- The value of a stored element as an engine reads it, and its saturations: NaN in a block with scale 0xFF. -/
def feValue (f : Fmt) (quad : Bool) (code scale : Nat) : FV × Nat :=
  if f.scaled ∧ scale = 0xFF then (.nan, 0)
  else rn32Clamp ((elemValue f quad code).scale (if f.scaled then (scale : Int) - 127 else 0))

/-- Columns 0 to n − 1 of row r of a tensor as FP32, and the saturations of the reads. Beyond the extent elements read as
+0 (R85). -/
def State.feRow (s : State) (c : Nat) (d : Desc) (r n : Nat) : Res (List FV × Nat) :=
  if d.rows ≤ r then .ok (List.replicate n fzero, 0) else
  if d.fmt.isEs then
    let es32 := d.fmt == .es32
    (Res.mapM (fun g => (s.vread c (d.esAddr r g) (if es32 then 132 else 260)).bind fun bs => .ok (esBlockVals es32 127 bs).1)
      (List.range (ceilDiv (min n d.cols) 32))).bind fun bl =>
    let vs := (bl.flatten.map fun v => rn32Clamp (dyFV v)).take (min n d.cols)
    .ok (vs.map (·.1) ++ List.replicate (n - vs.length) fzero, (vs.map (·.2)).foldl (· + ·) 0)
  else
    (s.readCodes c d r 0 n).bind fun cs => (s.readScales c d r 0 n).bind fun scs =>
    let vs := (List.range n).map fun j => if d.cols ≤ j then (fzero, 0) else feValue d.fmt d.quad (nth 0 cs j) (nth 127 scs j)
    .ok (vs.map (·.1), (vs.map (·.2)).foldl (· + ·) 0)

-- Finishing programs (R130, R131).

/-- A finishing operation. -/
structure FOp where
  op   : Nat
  d    : Nat
  a    : Nat
  b    : Nat
  c    : Nat
  imm  : Nat
  addr : Nat
deriving DecidableEq, Repr, Inhabited

/-- Decode an operation; none where a reserved bit is set or OP is undefined (R130). -/
def fopOf (v : Nat) : Option FOp :=
  if bitsAt v 20 12 != 0 || bitsAt v 112 16 != 0 || 0x19 < bitsAt v 0 8 then none
  else some ⟨bitsAt v 0 8, bitsAt v 8 3, bitsAt v 11 3, bitsAt v 14 3, bitsAt v 17 3, bitsAt v 32 32, bitsAt v 64 48⟩

/-- Operations that only FINISH may run (R131). -/
def finishOnly (op : Nat) : Bool := op == 0x0F || op == 0x16 || op == 0x17 || op == 0x19

/-- The parameters of an operation lie in their ranges (R135 to R138). -/
def FOp.paramsOk (o : FOp) : Bool :=
  let v := ofFp32 o.imm
  match o.op with
  | 0x15 => decide (1 ≤ o.imm) && decide (o.imm ≤ 32768)
  | 0x16 => decide (1 ≤ o.imm) && decide (o.imm ≤ 1024)
  | 0x17 =>
    let tp := ofFp32 (bitsAt o.addr 16 32)
    v != .nan && !(fltb v fzero) && tp != .nan && fltb fzero tp && !(fltb fone tp)
  | 0x18 => v != .nan && !(fltb v fzero) && fltb v fone
  | _ => true

/-- Read the operation words of a finishing program: at most 32 before END (R130). The fuel is 33. -/
def State.readOps (s : State) (c : Nat) : Nat → Nat → Res (List Nat)
  | 0, _ => .fault illegal
  | k + 1, a =>
    (s.vreadNat c a 16).bind fun v =>
    match fopOf v with
    | none => .fault illegal
    | some o => if o.op = 0 then .ok [] else (s.readOps c k (a + 16)).bind fun t => .ok (v :: t)

/-- The words of a program and its checks: alignment, operations of FINISH alone, parameters (R130, R131). -/
def State.readProgramWords (s : State) (c a : Nat) (drain : Bool) : Res (List Nat) :=
  if a % 16 ≠ 0 then .fault illegal else
  (s.readOps c 33 a).bind fun ws =>
  (Res.check ((ws.filterMap fopOf).all fun o => o.paramsOk && !(drain && finishOnly o.op)) illegal).bind fun _ => .ok ws

/-- A program and its checks, as operations. -/
def State.readProgram (s : State) (c a : Nat) (drain : Bool) : Res (List FOp) :=
  (s.readProgramWords c a drain).bind fun ws => .ok (ws.filterMap fopOf)

/-- What a program reads beside its registers, for one row. -/
structure FRow where
  cx   : Nat
  seed : Nat
  step : Nat
  rel  : Nat            -- row of the command, from 0
  row  : Nat            -- output row index
  col0 : Nat
  n    : Nat
  cols : Nat            -- columns of the destination's tensor
  key  : Nat            -- address of the row's key-list entry, or 0
  srcB : Option Desc
deriving Repr

/-- Where a program stands: the state its writes have reached, its registers, non-finite counts against the source,
window-low counts, saturations of LOADR's reads. -/
structure FRun where
  s    : State
  regs : List (List FV)
  nf   : Nat
  low  : Nat
  satB : Nat

/-- A register. -/
def FRun.reg (r : FRun) (i : Nat) : List FV := nth [] r.regs i

/-- Set a register. -/
def FRun.put (r : FRun) (i : Nat) (v : List FV) : FRun := { r with regs := r.regs.set i v }

/-- Two registers element by element. -/
def zip2 (f : FV → FV → FV) (a b : List FV) : List FV := (a.zip b).map fun p => f p.1 p.2

/-- 32-bit words of a context's memory. -/
def State.readWords (s : State) (c a n : Nat) : Res (List Nat) :=
  (s.vread c a (4 * n)).bind fun bs => .ok ((List.range n).map fun i => leNat ((bs.drop (4 * i)).take 4))

/-- A row of an odd length is padded for ROTARY's pairs. -/
def evenRow (a : List FV) : List FV := if a.length % 2 = 0 then a else a ++ [fzero]

/-- RN(1 ÷ RN(1 − q)) of DROPOUT (R138). -/
def dropScale (q : FV) : FV := fdiv fone (fsub fone q)

/-- floor(q × 2^32) of DROPOUT (R138). -/
def dropLimit (q : FV) : Int := floorSteps q.dy.m (q.dy.e + 32) 0

/-- One operation of a program on a row (R131). -/
def runOp (e : FRow) (o : FOp) (r : FRun) : Res FRun :=
  let a := r.reg o.a
  let b := r.reg o.b
  let c := r.reg o.c
  let d (v : List FV) : Res FRun := .ok (r.put o.d v)
  let all (v : FV) : List FV := List.replicate e.n v
  match o.op with
  | 0x01 => d (zip2 fadd a b)
  | 0x02 => d (zip2 fsub a b)
  | 0x03 => d (zip2 fmul a b)
  | 0x04 => d (((a.zip b).zip c).map fun p => ffma p.1.1 p.1.2 p.2)
  | 0x05 => d (zip2 fmax a b)
  | 0x06 => d (zip2 fmin a b)
  | 0x07 => d (zip2 fdiv a b)
  | 0x08 => d (a.map fsqrt)
  | 0x09 => d (a.map fexp)
  | 0x0A => d (a.map flog)
  | 0x0B => d (a.map fsigmoid)
  | 0x0C => d (a.map ftanh)
  | 0x0D => d (all (ofFp32 o.imm))
  | 0x0E => (r.s.readWords e.cx (o.addr + 4 * e.col0) e.n).bind fun ws => d (ws.map ofFp32)
  | 0x0F =>
    match e.srcB with
    | none => .fault illegal
    | some sb => (r.s.feRow e.cx sb e.row e.n).bind fun v => .ok { r.put o.d v.1 with satB := r.satB + v.2 }
  | 0x10 => let v := esSum a; .ok { r.put o.d (all v.1) with low := r.low + v.2 }
  | 0x11 => d (all (rowMax a))
  | 0x12 => let v := fsoftmax a; .ok { r.put o.d v.1 with low := r.low + v.2 }
  | 0x13 => let v := frmsnorm (ofFp32 o.imm) a; .ok { r.put o.d v.1 with low := r.low + v.2 }
  | 0x14 => let v := flnorm (ofFp32 o.imm) a; .ok { r.put o.d v.1 with low := r.low + v.2 }
  | 0x15 =>
    let k := min o.imm (ceilDiv e.n 2)
    (if e.key = 0 then .ok e.row else r.s.vreadNat e.cx (e.key + 8) 4).bind fun pos =>
    (r.s.readWords e.cx (o.addr + 8 * (pos * o.imm)) (2 * k)).bind fun ws =>
    d ((frotary ((List.range k).map fun i => (ofFp32 (nth 0 ws (2 * i)), ofFp32 (nth 0 ws (2 * i + 1)))) (evenRow a)).take e.n)
  | 0x16 =>
    (r.s.vwrite e.cx (o.addr + 4 * o.imm * e.rel) ((topkRow o.imm a).flatMap fun i => leBytes 4 i)).bind fun s' =>
    .ok { r with s := s', nf := r.nf + (a.filter fun x => x == .nan).length }
  | 0x17 =>
    (r.s.vreadNat e.cx e.key 8).bind fun sid => (r.s.vreadNat e.cx (e.key + 8) 4).bind fun pos =>
    let tok := sampleRow (ofFp32 o.imm) (bitsAt o.addr 0 16) (ofFp32 (bitsAt o.addr 16 32)) (drawSample e.seed sid pos) a
    (r.s.vwriteNat e.cx (e.key + 12) 4 tok).bind fun s' =>
    .ok { r with s := s', nf := r.nf + (a.filter fun x => x == .nan).length }
  | 0x18 =>
    let q := ofFp32 o.imm
    d (((List.range e.n).zip a).map fun p =>
      if (drawDropout e.seed (bitsAt o.addr 0 24) e.step (e.row * e.cols + e.col0 + p.1) : Int) < dropLimit q then fzero
      else fmul p.2 (dropScale q))
  | 0x19 =>
    (r.s.vreadNat e.cx o.addr 8).bind fun draw => (r.s.vreadNat e.cx (o.addr + 8) 4).bind fun sid =>
    d ((List.range e.n).map fun i => rn32 (.num false (drawRand e.seed sid (draw + e.rel * e.n + i) / 256) (-24)))
  | _ => .fault illegal

/-- Run a program on a source row (R130): v0 holds the row, the other registers +0. -/
def runProgram (e : FRow) (ops : List FOp) (s : State) (v0 : List FV) : Res FRun :=
  Res.fold (fun r o => runOp e o r) ⟨s, v0 :: List.replicate 7 (List.replicate e.n fzero), 0, 0, 0⟩ ops

/-- The ranges that a program's LOADVs read (R164). -/
def loadvRanges (ops : List FOp) (col0 n : Nat) : List (Nat × Nat) :=
  ops.filterMap fun o => if o.op = 0x0E then some (o.addr + 4 * col0, 4 * n) else none

-- Conversion (R47, R60 to R65, R443).

/-- The destination is converted in groups of b rows: square blocks, and linear blocks along each column (R108; log entry
17). -/
def Desc.grouped (d : Desc) : Bool :=
  (d.square && !d.fmt.isEs) || (d.fmt.scaled && !d.square && d.laxis)

/-- Rows of a group. -/
def Desc.groupRows (d : Desc) : Nat := if d.grouped then d.b else 1

/-- Columns of a block: 1 for linear blocks along each column. -/
def Desc.groupCols (d : Desc) : Nat := if d.fmt.scaled && !d.square && d.laxis then 1 else d.b

/-- Cut columns c to c + n − 1 at the multiples of m. -/
def segments (m : Nat) : Nat → Nat → Nat → List (Nat × Nat)
  | 0, _, _ => []
  | k + 1, c, n =>
    if n = 0 then [] else
    let room := m - c % m
    if n ≤ room then [(c, n)] else (c, room) :: segments m k (c + room) (n - room)

/-- Add up counts. -/
def sumCounts (l : List Counts) : Counts := l.foldl Counts.add {}

/-- A block's scale byte, with the counts of a clamp: one SAT and CLAMP (R61, R76). -/
def scaleCounts (f : Fmt) (vals : List FV) : Nat × Counts :=
  let r := blockScale f vals
  (r.1, if r.2 then { sat := 1, clamp := true } else {})

/-- Convert an element; one that no contribution computed becomes code 0 and counts nothing (R443). -/
def encodeOpt (d : Desc) (scale : Nat) (x : Option FV) : Nat × Counts :=
  match x with
  | some v => encodeScaled d.fmt d.quad scale v
  | none => (0, {})

/-- Rows converted together: their codes, the scale bytes with the element that each stands for, and the counts. -/
structure Converted where
  rows   : List (Nat × List Nat)
  scales : List (Nat × Nat × Nat)
  counts : Counts
deriving Repr

/-- Convert rows that share their blocks, from column c0. -/
def convertGroup (d : Desc) (c0 : Nat) (rows : List (Nat × List (Option FV))) : Converted :=
  let n := (rows.map fun r => r.2.length).foldl max 0
  let segs := segments d.groupCols (n + 1) c0 n
  let part (q : Nat × Nat) (l : List (Option FV)) : List (Option FV) := (l.drop (q.1 - c0)).take q.2
  let scs := segs.map fun q => scaleCounts d.fmt ((rows.flatMap fun r => part q r.2).filterMap id)
  let out := rows.map fun r => (r.1, ((segs.zip scs).flatMap fun p => (part p.1 r.2).map fun x => encodeOpt d p.2.1 x))
  { rows := out.map fun r => (r.1, r.2.map (·.1)),
    scales := match rows with
      | [] => []
      | r :: _ => if d.fmt.scaled then (segs.zip scs).map fun p => (r.1, p.1.1, p.2.1) else [],
    counts := sumCounts ((out.flatMap fun r => r.2.map (·.2)) ++ scs.map (·.2)) }

/-- Convert rows into a tensor: in one group, or each row by itself. -/
def convertRows (d : Desc) (c0 : Nat) (rows : List (Nat × List (Option FV))) : Converted :=
  if d.grouped then convertGroup d c0 rows
  else
    let l := rows.map fun r => convertGroup d c0 [r]
    { rows := l.flatMap (·.rows), scales := l.flatMap (·.scales), counts := sumCounts (l.map (·.counts)) }

/-- The columns of a converted row that lie in T128 column block bc. -/
def blockPart (c0 bc : Nat) (codes : List Nat) : Nat × List Nat :=
  let lo := max c0 (128 * bc)
  let hi := min (c0 + codes.length) (128 * bc + 128)
  (lo, (codes.drop (lo - c0)).take (hi - lo))

/-- Write converted rows and scales, of the T128 column blocks that satisfy a test. -/
def writeConverted (st : Writing) (cx : Nat) (d : Desc) (c0 : Nat) (v : Converted) (blocks : List Nat)
    (k : WKind := .plain) : Writing :=
  let st := v.rows.foldl (fun st (r : Nat × List Nat) =>
    if d.rows ≤ r.1 then st else
    blocks.foldl (fun st bc =>
      let p := blockPart c0 bc r.2
      if p.2.isEmpty then st else putRow st cx d r.1 p.1 p.2 k) st) st
  v.scales.foldl (fun st (q : Nat × Nat × Nat) =>
    if d.rows ≤ q.1 ∨ blocks.contains (q.2.1 / 128) = false then st else putScale st cx d q.1 q.2.1 q.2.2 k) st

/-- The result of writing, as a state. -/
def Writing.res (w : Writing) : Res State :=
  match w.2 with
  | .ok _ => .ok w.1
  | .fault k => .fault k
  | .wait => .wait

/-- The T128 column blocks that n columns from c0 touch. -/
def blocksOf (c0 n : Nat) : List Nat := if n = 0 then [] else (List.range ((c0 + n - 1) / 128 + 1 - c0 / 128)).map (c0 / 128 + ·)

/-- An ES32 block of one member from exact values under A_T = 127, with the counts made against the tensor (R51, R52, R76). -/
def es32Out (vals : List Dy) : List Byte × Counts :=
  let vals := vals ++ List.replicate (32 - vals.length) ⟨0, 0⟩
  let r := es32Form vals 127
  (es32Block r.1 r.2.1 r.2.2.2 1,
   { total := 32, zero := (r.1.filter (· == 0)).length, wlow := r.2.2.1, whigh := r.2.2.2 })

/-- An FP32 value as a term of an exchange block: ±the largest for an infinity and 0 for a NaN, counted as non-finite
(R65; log entry 18). -/
def esTerm (x : FV) : Dy × Nat :=
  match x with
  | .nan => (⟨0, 0⟩, 1)
  | .inf n => (⟨if n then -(2 ^ 24 - 1) else 2 ^ 24 - 1, 104⟩, 1)
  | v => (v.dy, 0)

/-- A row of FP32 values as the exchange blocks of an ES32 tensor (R444). -/
def es32Row (d : Desc) (vals : List FV) : List (Nat × List Byte) × Counts :=
  let l := (List.range (ceilDiv d.cols 32)).map fun g =>
    let ts := ((vals.drop (32 * g)).take 32).map esTerm
    let r := es32Out (ts.map (·.1))
    ((g, r.1), r.2.add { nonfin := (ts.map (·.2)).foldl (· + ·) 0 })
  (l.map (·.1), sumCounts (l.map (·.2)))

-- FINISH (R140, R444).

/-- FINISH's fields. -/
def finRow0 (w : Packet) : Nat := pkt w 272 32

/-- Rows of a FINISH. -/
def finRows (w : Packet) : Nat := pkt w 304 32

/-- An optional descriptor of a command: 0 names none. -/
def State.readDesc? (s : State) (c a : Nat) : Res (Option Desc) :=
  if a = 0 then .ok none else (s.readDesc c a).bind fun d => .ok (some d)

/-- The descriptors of a FINISH: SRC_A, SRC_B, DST. -/
structure FinDescs where
  a : Desc
  b : Option Desc
  d : Option Desc
deriving Repr

/-- Read the descriptors of a FINISH. -/
def State.finDescs (s : State) (x : Cmd) : Res FinDescs :=
  (s.readDesc x.cx (pkt x.w 80 48)).bind fun a => (s.readDesc? x.cx (pkt x.w 128 48)).bind fun b =>
  (s.readDesc? x.cx (pkt x.w 176 48)).bind fun d => .ok ⟨a, b, d⟩

/-- The checks of a FINISH at dispatch (R140, R71). -/
def prepFinish (s : State) (x : Cmd) : Res Cmd :=
  (Res.check (rsvZero x.w [(73, 7), (388, 124)] && finRows x.w != 0) illegal).bind fun _ =>
  (s.finDescs x).bind fun f =>
  (Res.check (decide (f.a.cols ≤ 65536) && f.b.all (fun b => decide (b.cols ≤ 65536)) &&
    (!pktBit x.w 72 || (s.isLearn x.cx && f.d.any (fun d => d.kind == .g) && x.step.isSome))) illegal).bind fun _ =>
  let lv := match s.readProgram x.cx (pkt x.w 224 48) false with
    | .ok ops => loadvRanges ops 0 f.a.cols
    | _ => []
  (s.touches x.cx (f.a.ranges ++ (f.b.map Desc.ranges).getD [] ++ lv) ((f.d.map Desc.ranges).getD [])).bind fun ts =>
  .ok { x with desc := f.a, desc2 := f.d.getD default, stash := ts }

/-- The checks that a FINISH makes when it starts (R444, R130, R137). -/
def finStartOk (w : Packet) (f : FinDescs) (ops : List FOp) : Bool :=
  !(ops.any fun o => o.op == 0x0F && f.b.isNone) && !(ops.any fun o => o.op == 0x17 && pkt w 336 48 == 0) &&
  match f.d with
  | none => true
  | some d =>
    d.fmt != .es64 &&
    (!d.grouped || !d.square ||
      (finRow0 w % d.b == 0 && (finRows w % d.b == 0 || finRow0 w + finRows w == d.rows)))

/-- What a FINISH has counted: against its destination, against SRC_A, against SRC_B. -/
structure FinCounts where
  dst : Counts := {}
  a   : Counts := {}
  b   : Counts := {}
deriving Repr

/-- Run the program on one row of SRC_A (R130): the row of FP32 values left in v0. -/
def finRun (x : Cmd) (f : FinDescs) (ops : List FOp) (sx : Option Int) (s : State) (j : Nat) : Res (List FV × FinCounts × State) :=
  (s.feRow x.cx f.a (finRow0 x.w + j) f.a.cols).bind fun v =>
  let e : FRow :=
    { cx := x.cx, seed := x.seed, step := x.step.getD 0, rel := j, row := finRow0 x.w + j, col0 := 0, n := f.a.cols,
      cols := (f.d.getD f.a).cols, key := if pkt x.w 336 48 = 0 then 0 else pkt x.w 336 48 + 16 * j, srcB := f.b }
  (runProgram e ops s v.1).bind fun r =>
  let out := match sx with
    | some k => (r.reg 0).map fun y => rn32 (y.scale k)
    | none => r.reg 0
  .ok (out, { dst := { wlow := r.low }, a := { sat := v.2, nonfin := r.nf }, b := { sat := r.satB } }, r.s)

/-- A list of values cut or padded with +0 to n. -/
def fitRow (n : Nat) (l : List FV) : List FV := l.take n ++ List.replicate (n - l.length) fzero

/-- Run rows j to j + k − 1 of a FINISH and write them as one group of the destination. -/
def finGroup (x : Cmd) (f : FinDescs) (ops : List FOp) (sx : Option Int) (s : State) (js : List Nat) : Res (FinCounts × State) :=
  (Res.fold (fun (acc : List (Nat × List FV) × FinCounts × State) j =>
    (finRun x f ops sx acc.2.2 j).bind fun r =>
      .ok (acc.1 ++ [(finRow0 x.w + j, r.1)],
        { dst := acc.2.1.dst.add r.2.1.dst, a := acc.2.1.a.add r.2.1.a, b := acc.2.1.b.add r.2.1.b }, r.2.2))
    ([], {}, s) js).bind fun acc =>
  match f.d with
  | none => .ok acc.2
  | some d =>
    if d.fmt = .es32 then
      let rows := (acc.1.filter fun r => decide (r.1 < d.rows)).map fun r => (r.1, es32Row d r.2)
      let st := rows.foldl (fun st r => r.2.1.foldl (fun st q => putBytes st x.cx (d.esAddr r.1 q.1) q.2 .plain) st)
        (acc.2.2, .ok ())
      (Writing.res st).bind fun s' =>
        .ok ({ acc.2.1 with dst := acc.2.1.dst.add (sumCounts (rows.map fun r => r.2.2)) }, s')
    else
      let v := convertRows d 0 ((acc.1.filter fun r => decide (r.1 < d.rows)).map fun r => (r.1, (fitRow d.cols r.2).map some))
      (Writing.res (writeConverted (acc.2.2, .ok ()) x.cx d 0 v (blocksOf 0 d.cols))).bind fun s' =>
        .ok ({ acc.2.1 with dst := acc.2.1.dst.add v.counts }, s')

/-- The groups of rows of a command: rows 0 to n − 1 from tensor row r0, cut at the multiples of m. -/
def rowGroups (m r0 n : Nat) : List (List Nat) :=
  (segments m (n + 1) r0 n).map fun q => (List.range q.2).map fun i => q.1 - r0 + i

/-- The addresses of RAND's stream records. -/
def randRecords (ops : List FOp) : List Nat := dedup ((ops.filter fun o => o.op == 0x19).map (·.addr))

/-- The values that a FINISH writes back to RAND's records when it completes (R139). -/
def State.randAfter (s : State) (x : Cmd) (ops : List FOp) (n : Nat) : List (Nat × Nat) :=
  (randRecords ops).filterMap fun a => match s.vreadNat x.cx a 8 with
    | .ok draw => some (a, draw + finRows x.w * n)
    | _ => none

/-- Run a whole FINISH: its checks, then its rows group by group. -/
def finAll (s : State) (x : Cmd) (f : FinDescs) : Res (FinCounts × List (Nat × Nat) × State) :=
  (s.readProgram x.cx (pkt x.w 224 48) false).bind fun ops =>
  (Res.check (finStartOk x.w f ops) illegal).bind fun _ =>
  let sx : Res (Option Int) :=
    if !pktBit x.w 72 then .ok none
    else match (s.cx x.cx).sFor (x.step.getD 0) with
      | some k => .ok (some k)
      | none => .wait
  sx.bind fun k =>
  let m := match f.d with | some d => d.groupRows | none => 1
  (Res.fold (fun (acc : FinCounts × State) js =>
    (finGroup x f ops k acc.2 js).bind fun r =>
      .ok ({ dst := acc.1.dst.add r.1.dst, a := acc.1.a.add r.1.a, b := acc.1.b.add r.1.b }, r.2)) ({}, s)
    (rowGroups m (finRow0 x.w) (finRows x.w))).bind fun r =>
  .ok (r.1, r.2.randAfter x ops f.a.cols, r.2)

/-- The counts of a FINISH go to its destination, SRC_A and SRC_B; reads mark no step (R48, R129). -/
def State.finCount (s : State) (x : Cmd) (f : FinDescs) (k : FinCounts) : State :=
  let s := match f.d with
    | some d => s.countFor x.id d.tid d.kind k.dst
    | none => s.countFor x.id f.a.tid .w { wlow := k.dst.wlow }
  let s := s.countFor x.id f.a.tid .w k.a
  match f.b with
  | some b => s.countFor x.id b.tid .w k.b
  | none => s

/-- The descriptors as the command took them at its dispatch: SRC_B is read again, being rarely named. -/
def State.finTaken (s : State) (x : Cmd) : Res FinDescs :=
  (s.readDesc? x.cx (pkt x.w 128 48)).bind fun b =>
  .ok ⟨x.desc, b, if pkt x.w 176 48 = 0 then none else some x.desc2⟩

/-- Run a FINISH that has been dispatched, if the stash and the verdict of its step let it; else it waits. -/
def tryFinish (s : State) (x : Cmd) : State :=
  match s.stashReady x.cx x.stash with
  | (s, false) => s
  | (s, true) =>
    match (s.finTaken x).bind fun f => (finAll s x f).bind fun r => .ok (f, r) with
    | .wait => s
    | .fault k => s.faultCmd x k
    | .ok (f, k, after, s) =>
      let s := s.updCmd x.id fun y => { y with phase := .finished, after := after }
      let s := s.finCount x f k
      s.count 0x020 0 x.cx k.dst.total

/-- FINISH: dispatched, and run where nothing holds it back. -/
def runFinish (s : State) (x : Cmd) : State :=
  let s := enqueue s x
  if s.cxLive x.cx then tryFinish s x else s

/-- FINISH. -/
def execFinish (sp : Fin 32) (s : State) : Host.Outcome State Fault Refusal :=
  .next (dispatch sp (fun w => opc w == 0x10) prepFinish runFinish s)

-- HCOUNT (R141).

/-- The counts of one row: every element, zeros, non-finite elements. -/
def hcountRow (s : State) (c : Nat) (d : Desc) (r : Nat) : Res Counts :=
  if d.fmt.isEs then
    let es32 := d.fmt == .es32
    (Res.mapM (fun g => (s.vread c (d.esAddr r g) (if es32 then 132 else 260)).bind fun bs => .ok (esBlockVals es32 127 bs).1)
      (List.range (ceilDiv d.cols 32))).bind fun bl =>
    let vs := bl.flatten.take d.cols
    .ok { total := vs.length, zero := (vs.filter fun v => v.m == 0).length }
  else
    (s.readCodes c d r 0 d.cols).bind fun cs => (s.readScales c d r 0 d.cols).bind fun scs =>
    .ok (sumCounts ((List.range d.cols).map fun j =>
      let v := elemValue d.fmt d.quad (nth 0 cs j)
      { total := 1, zero := if v.isZero then 1 else 0,
        nonfin := if v.finite = false ∨ (d.fmt.scaled = true ∧ nth 127 scs j = 0xFF) then 1 else 0 }))

/-- The checks of an HCOUNT at dispatch. -/
def prepHcount (s : State) (x : Cmd) : Res Cmd :=
  (Res.check (rsvZero x.w [(64, 16), (192, 320)]) illegal).bind fun _ =>
  (s.readDesc x.cx (pkt x.w 80 48)).bind fun d =>
  (s.touches x.cx d.ranges []).bind fun ts => .ok { x with desc := d, stash := ts }

/-- Run an HCOUNT that has been dispatched, if the stash lets it. -/
def tryHcount (s : State) (x : Cmd) : State :=
  match s.stashReady x.cx x.stash with
  | (s, false) => s
  | (s, true) =>
    let row0 := pkt x.w 128 32
    let n := min (pkt x.w 160 32) (x.desc.rows - row0)
    match Res.fold (fun (k : Counts) j => (hcountRow s x.cx x.desc (row0 + j)).bind fun c => .ok (k.add c)) {} (List.range n) with
    | .wait => s
    | .fault k => s.faultCmd x k
    | .ok k => (s.updCmd x.id fun y => { y with phase := .finished }).countFor x.id x.desc.tid .w k

/-- HCOUNT: dispatched, and run where nothing holds it back. -/
def runHcount (s : State) (x : Cmd) : State :=
  let s := enqueue s x
  if s.cxLive x.cx then tryHcount s x else s

/-- HCOUNT. -/
def execHcount (sp : Fin 32) (s : State) : Host.Outcome State Fault Refusal :=
  .next (dispatch sp (fun w => opc w == 0x11) prepHcount runHcount s)

end Sys2Proof.Machine
end

