-- ==== Sys2Proof/Machine/Layer.lean ====
section
/-! DEFINITION. Layer records and parameter groups (R180 to R182), and the pages that a record covers (R184, R193, R198). -/

namespace Sys2Proof.Machine

/-- A layer record (R180). -/
structure LayerRec where
  master   : Desc
  m1       : Desc
  m2       : Desc
  grad     : Desc
  print    : Desc
  resBase  : Nat
  t        : Nat
  orgRow   : Nat
  pstride  : Nat
  depth    : Nat
  mask     : Nat
  maskMode : Nat
deriving DecidableEq, Repr, Inhabited

/-- The reserved bytes of a layer record are zero, and MASKMODE is not 3 (R180, R181). -/
def layerRsvOk (v : Nat) : Bool :=
  bitsAt v (8 * 166) 16 == 0 && bitsAt v (8 * 182 + 2) 14 == 0 && bitsAt v (8 * 190 + 2) (8 * 66 - 2) == 0 &&
    bitsAt v (8 * 190) 2 != 3

/-- The fields of a layer record beside its descriptors. -/
def layerFields (v : Nat) (d : LayerRec) : LayerRec :=
  { d with resBase := bitsAt v (8 * 160) 48, t := bitsAt v (8 * 168) 32, orgRow := bitsAt v (8 * 172) 32,
           pstride := bitsAt v (8 * 176) 48, depth := bitsAt v (8 * 182) 2, mask := bitsAt v (8 * 184) 48,
           maskMode := bitsAt v (8 * 190) 2 }

/-- Read a layer record with its five descriptors, as an UPDATE or COMMIT of step `st` sees it. -/
def State.readLayer (s : State) (c a st : Nat) : Res LayerRec :=
  (s.vreadNat c a 256 (some st)).bind fun v =>
  (s.readDesc c a (some st)).bind fun m =>
  (s.readDesc c (a + 32) (some st)).bind fun m1 =>
  (s.readDesc c (a + 64) (some st)).bind fun m2 =>
  (s.readDesc c (a + 96) (some st)).bind fun g =>
  (s.readDesc c (a + 128) (some st)).bind fun p =>
  (Res.check (layerRsvOk v) illegal).bind fun _ =>
  .ok (layerFields v { (default : LayerRec) with master := m, m1 := m1, m2 := m2, grad := g, print := p })

/-- The residue as a tensor of bytes in the T128 arrangement of the master, without a scale plane (R180). -/
def LayerRec.residue (r : LayerRec) : Desc := { r.master with kind := .m, fmt := .lv8, base := r.resBase, sbase := r.resBase }

/-- The print descriptor of the slot of a print number (R189). -/
def LayerRec.slot (r : LayerRec) (p : Nat) : Desc :=
  let off := p % (r.depth + 1) * r.pstride
  { r.print with base := r.print.base + off, sbase := r.print.sbase + off }

/-- The byte ranges of update state that a record at an address covers: COW pages. -/
def LayerRec.cowRanges (r : LayerRec) (a : Nat) : List (Nat × Nat) :=
  [(a, 256)] ++ r.master.ranges ++ r.m1.ranges ++ r.m2.ranges ++ [(r.resBase, r.residue.extent)]

/-- First addresses of the pages of some ranges. -/
def pagesOf (rs : List (Nat × Nat)) : List Nat :=
  dedup (rs.flatMap fun q => (pieces q.1 q.2).map fun p => pageBytes * (p.1 / pageBytes))

/-- Every page is marked COW. -/
def State.allCow (s : State) (c : Nat) (ps : List Nat) : Bool :=
  ps.all fun a => match s.walk c a with
    | .ok p => p.cow
    | _ => false

/-- Every page is marked PRT and owned by the context. -/
def State.allPrt (s : State) (c : Nat) (ps : List Nat) : Bool :=
  ps.all fun a => match s.walk c a with
    | .ok p => p.prt && p.owner == c
    | _ => false

/-- KIND and FMT of the PRINT descriptor, the origin, the stride and the slot's pages: the checks that both update paths
make (R181). -/
def State.printOk (s : State) (c p : Nat) (r : LayerRec) : Bool :=
  r.print.kind == .p && r.orgRow % r.print.b == 0 && r.print.tid != 0 && r.pstride % pageBytes == 0 &&
    decide (r.print.extent ≤ r.pstride) && decide (r.print.scaleExtent ≤ r.pstride) && s.allPrt c (pagesOf (r.slot p).ranges)

/-- The checks of R181 on the update-die path, for the record at an address and a print number. -/
def State.layerOk (s : State) (c a p : Nat) (r : LayerRec) : Bool :=
  r.master.kind == .w && r.master.fmt == .bf16 && r.m1.kind == .m && r.m1.fmt == .e4m3 && !r.m1.laxis &&
    r.m2.kind == .m && r.m2.fmt == .lv8 && !r.m2.laxis && r.grad.kind == .g && r.grad.fmt.isEs &&
    ([r.m1, r.m2, r.grad, r.print].all fun d => d.rows == r.master.rows && d.cols == r.master.cols) &&
    ([r.master, r.m1, r.m2, r.grad].all fun d => d.tid != 0) && r.print.tid != r.master.tid && r.resBase % 4096 == 0 &&
    !(s.flag R.CX_NUMERIC_PIM_ACTIVE c && r.grad.fmt == .es32) && s.printOk c p r && s.allCow c (pagesOf (r.cowRanges a))

/-- Read the record of an UPDATE or COMMIT of step `st` and check it for a print number. -/
def State.checkedLayer (s : State) (c a st p : Nat) : Res LayerRec :=
  (s.readLayer c a st).bind fun r => (Res.check (s.layerOk c a p r) illegal).bind fun _ => .ok r

-- Parameter groups (R182).

/-- A parameter group. -/
structure Group where
  b1     : FV
  b2     : FV
  eps    : FV
  pmin   : FV
  pmax   : FV
  anchor : Int
  trust  : Bool
deriving DecidableEq, Repr, Inhabited

/-- A finite value above zero. -/
def above0 (x : FV) : Bool := x.finite && !x.isNeg && !x.isZero

/-- A finite value in [0, 1). -/
def unit01 (x : FV) : Bool := x.finite && (x.isZero || !x.isNeg) && fltb x fone

/-- A finite value that is not negative. -/
def notNeg (x : FV) : Bool := x.finite && (x.isZero || !x.isNeg)

/-- The group of a 64-byte record; none where R182 refuses it. -/
def groupOf (v : Nat) : Option Group :=
  let f (i : Nat) : FV := ofFp32 (bitsAt v (32 * i) 32)
  let g : Group := ⟨f 0, f 1, f 2, f 3, f 4, signedOf 16 (bitsAt v 160 16), bitAt v 176⟩
  if bitsAt v 177 335 != 0 then none
  else if unit01 g.b1 && unit01 g.b2 && above0 g.eps && above0 g.pmin && g.pmax.finite && !fltb g.pmax g.pmin then some g
  else none

/-- Read and check a parameter group. -/
def State.readGroup (s : State) (c a : Nat) : Res Group :=
  (s.vreadNat c a 64).bind fun v => match groupOf v with
    | some g => .ok g
    | none => .fault illegal

end Sys2Proof.Machine
end

