-- ==== Sys2Proof/Machine/Update.lean ====
section
/-! DEFINITION. UPDATE and the update unit UD.FUU (R177 to R192, R200). -/

namespace Sys2Proof.Machine

-- The rule on one element (R186).

/-- The constants of an UPDATE. -/
structure UdK where
  seed : Nat
  tid  : Nat
  t    : Nat
  s    : Int
  g    : Group
  lam  : FV
  omb1 : FV
  omb2 : FV
  c1   : FV
  c2   : FV
  step : FV           -- rn(eta × phi), used by pass 2
deriving Repr

/-- pow(b, n) of R186, from bit `k` − 1 of n down. -/
def udPow (b : FV) (n : Nat) : Nat → FV → FV
  | 0, r => r
  | k + 1, r =>
    let q := fmul r r
    udPow b n k (if bitAt n k then fmul q b else q)

/-- tn: t + 1, sticking (R186). -/
def nextT (t : Nat) : Nat := stick 0xFFFFFFFF (t + 1)

/-- The constants that an UPDATE forms once. -/
def udConst (seed tid t : Nat) (s : Int) (g : Group) (lam step : FV) : UdK :=
  { seed := seed, tid := tid, t := t, s := s, g := g, lam := lam, omb1 := fsub fone g.b1, omb2 := fsub fone g.b2,
    c1 := fsub fone (udPow g.b1 (nextT t) 32 fone), c2 := fsub fone (udPow g.b2 (nextT t) 32 fone), step := step }

/-- The exponent of ulp(w) for a BF16 code (R186). -/
def ulpExp (code : Nat) : Int := (max (bitsAt code 7 8) 1 : Nat) - 134

/-- z0 := w + q × 2^-8 × ulp(w), exact; a zero keeps the sign of w (R186). -/
def udZ0 (wc qc : Nat) : FV :=
  match elemValue .bf16 false wc with
  | .num n m e =>
    let d := Dy.add ⟨signInt n m, e⟩ ⟨signedOf 8 qc, ulpExp wc - 8⟩
    if d.m = 0 then .num n 0 (-149) else dyFV d
  | v => v

/-- A stored moment times its block scale, as FP32; every element of a block with scale 0xFF is a NaN (log entry 30). -/
def udMoment (f : Fmt) (code scale : Nat) : FV :=
  if scale = 0xFF then .nan else rn32 ((elemValue f false code).scale ((scale : Int) - 127))

/-- The intermediates of dir(m, v, z0), the result last (R186). -/
def udDir (k : UdK) (m v z0 : FV) : List FV :=
  let mh := fdiv m k.c1
  let vh := fdiv v k.c2
  let rt := fsqrt vh
  let den := fadd rt k.g.eps
  let q := fdiv mh den
  [mh, vh, rt, den, q, ffma k.lam z0 q]

/-- The direction u. -/
def udU (k : UdK) (m v z0 : FV) : FV := (udDir k m v z0).getLastD fzero

/-- The intermediates of the first half of pass 1: g, z0, m and v stand at places 1, 2, 4 and 7 (R186). -/
def udFirst (k : UdK) (gv m v z0 : FV) : List FV :=
  let g0 := rn32 gv
  let g := rn32 (g0.scale (-k.s))
  let a := fmul k.omb1 g
  let g2 := fmul g g
  let b := fmul k.omb2 g2
  [g0, g, z0, a, ffma k.g.b1 m a, g2, b, ffma k.g.b2 v b]

-- The norms (R187).

/-- A norm's sum on its grid, with window-low and window-high counts. -/
structure Norm where
  sum  : Nat := 0
  low  : Nat := 0
  high : Nat := 0
deriving DecidableEq, Repr, Inhabited

/-- The largest value of a norm's sum. -/
def normMax : Nat := 2 ^ 63 - 1

/-- Add the square of a value (R187). -/
def Norm.add (n : Norm) (anchor : Int) (x : FV) : Norm :=
  match x with
  | .num _ m e =>
    let q := (roundSteps ((m * m : Nat) : Int) (2 * e) (anchor - 35)).toNat
    if normMax < n.sum + q then { n with sum := normMax, high := n.high + 1 }
    else { n with sum := n.sum + q, low := n.low + if m ≠ 0 ∧ q = 0 then 1 else 0 }
  | _ => { n with sum := normMax, high := n.high + 1 }

/-- The value of a sum rounded to FP32, and its root (R188, R192). -/
def normRoot (sum : Nat) (anchor : Int) : FV := fsqrt (rn32 (dyFV ⟨(sum : Int), anchor - 35⟩))

/-- trust_ratio (R188). -/
def trustRatio (g : Group) (w2 u2 : Nat) : FV :=
  let wn := normRoot w2 g.anchor
  let un := normRoot u2 g.anchor
  if !g.trust || wn.isZero || un.isZero then fone else fmin (fmax (fdiv wn un) g.pmin) g.pmax

-- Passes.

/-- What a pass has come to: the state, the norms, the elements with a non-finite intermediate, the counts against the
MASTER, M1, M2 and PRINT identifiers. -/
structure UdRun where
  s   : State
  nw  : Norm := {}
  ng  : Norm := {}
  nu  : Norm := {}
  bad : List Nat := []
  kw  : Counts := {}
  k1  : Counts := {}
  k2  : Counts := {}
  kp  : Counts := {}

/-- The exact values of a row of a gradient shard. -/
def State.gradRow (s : State) (c : Nat) (d : Desc) (r : Nat) : Res (List FV) :=
  let es32 := d.fmt == .es32
  (Res.mapM (fun g => (s.vread c (d.esAddr r g) (if es32 then 132 else 260)).bind fun bs => .ok (esBlockVals es32 127 bs).1)
    (List.range (ceilDiv d.cols 32))).bind fun bl => .ok ((bl.flatten.take d.cols).map dyFV)

/-- Blocks of 32 columns of a layer row that the mask computes: their first columns (R190). -/
def State.udBlocks (s : State) (c : Nat) (r : LayerRec) (row : Nat) : Res (List Nat) :=
  let all := (List.range (ceilDiv r.master.cols 32)).map (32 * ·)
  if r.maskMode = 0 then .ok all
  else if r.maskMode = 1 then (s.maskBit c r.mask (r.orgRow + row)).bind fun b => .ok (if b then all else [])
  else Res.fold (fun acc c0 => (s.maskBit c r.mask ((r.orgRow + row) / 128 * r.master.bc + c0 / 128)).bind fun b =>
    .ok (if b then acc ++ [c0] else acc)) [] all

/-- A row of master, residue and moments as stored. -/
structure UdRow where
  w   : List Nat
  q   : List Nat
  m   : List Nat
  ms  : List Nat
  v   : List Nat
  vs  : List Nat

/-- Read a row as an UPDATE of step `st` sees it. -/
def State.udRow (s : State) (c st : Nat) (r : LayerRec) (row : Nat) : Res UdRow :=
  let n := r.master.cols
  (s.readCodes c r.master row 0 n (some st)).bind fun w =>
  (s.readCodes c r.residue row 0 n (some st)).bind fun q =>
  (s.readCodes c r.m1 row 0 n (some st)).bind fun m =>
  (s.readScales c r.m1 row 0 n (some st)).bind fun ms =>
  (s.readCodes c r.m2 row 0 n (some st)).bind fun v =>
  (s.readScales c r.m2 row 0 n (some st)).bind fun vs => .ok ⟨w, q, m, ms, v, vs⟩

/-- z0 of column j. -/
def UdRow.z0 (x : UdRow) (j : Nat) : FV := udZ0 (nth 0 x.w j) (nth 0 x.q j)

/-- The element index of R74 in the whole layer tensor. -/
def LayerRec.elem (r : LayerRec) (row j : Nat) : Nat := (r.orgRow + row) * r.master.cols + j

/-- The columns of the block of 32 at c0. -/
def LayerRec.blockCols (r : LayerRec) (c0 : Nat) : List Nat := (List.range (min 32 (r.master.cols - c0))).map (c0 + ·)

/-- A moment's block: new values, their scale byte, their codes, the counts (R60, R75, R189). -/
def momentBlock (k : UdK) (r : LayerRec) (f : Fmt) (sel row : Nat) (js : List Nat) (vals : List FV) : Nat × List Nat × Counts :=
  let sc := scaleCounts f vals
  let out := (js.zip vals).map fun p =>
    encodeStoch f (drawRound k.seed k.tid sel k.t (r.elem row p.1)) (p.2.scale (127 - (sc.1 : Int)))
  (sc.1, out.map (·.1), sumCounts (sc.2 :: out.map (·.2)))

/-- Write one block of a moment. -/
def putMoment (st : Writing) (c step : Nat) (d : Desc) (row c0 : Nat) (b : Nat × List Nat × Counts) : Writing :=
  putScale (putRow st c d row c0 b.2.1 (.update step [])) c d row c0 b.1 (.update step [])

/-- Pass 1 on one block of 32 elements. -/
def pass1Block (k : UdK) (c step : Nat) (r : LayerRec) (row : Nat) (x : UdRow) (gs : List FV) (u : UdRun) (c0 : Nat) : Res UdRun :=
  let js := r.blockCols c0
  let fs := js.map fun j =>
    udFirst k (nth fzero gs j) (udMoment .e4m3 (nth 0 x.m j) (nth 127 x.ms j)) (udMoment .lv8 (nth 0 x.v j) (nth 127 x.vs j)) (x.z0 j)
  let b1 := momentBlock k r .e4m3 1 row js (fs.map fun f => nth fzero f 4)
  let b2 := momentBlock k r .lv8 2 row js (fs.map fun f => nth fzero f 7)
  let ds := (List.range js.length).map fun i =>
    udDir k (udMoment .e4m3 (nth 0 b1.2.1 i) b1.1) (udMoment .lv8 (nth 0 b2.2.1 i) b2.1) (nth fzero (nth [] fs i) 2)
  let bad := (js.zip (fs.zip ds)).filterMap fun p => if (p.2.1 ++ p.2.2).all FV.finite then none else some (r.elem row p.1)
  let sum (n : Norm) (l : List FV) : Norm := l.foldl (fun n v => n.add k.g.anchor v) n
  (Writing.res (putMoment (putMoment (u.s, .ok ()) c step r.m1 row c0 b1) c step r.m2 row c0 b2)).bind fun s =>
  .ok { u with s := s, nw := sum u.nw (fs.map fun f => nth fzero f 2), ng := sum u.ng (fs.map fun f => nth fzero f 1),
               nu := sum u.nu (ds.map fun d => d.getLastD fzero), bad := u.bad ++ bad,
               k1 := u.k1.add b1.2.2, k2 := u.k2.add b2.2.2 }

/-- Pass 1 over the shard. -/
def pass1 (k : UdK) (c step : Nat) (r : LayerRec) (s : State) : Res UdRun :=
  Res.fold (fun (u : UdRun) row =>
    (u.s.udBlocks c r row).bind fun bs =>
    if bs.isEmpty then .ok u else
    (u.s.udRow c step r row).bind fun x => (u.s.gradRow c r.grad row).bind fun gs =>
    Res.fold (pass1Block k c step r row x gs) u bs) { s := s } (List.range r.master.rows)

/-- The residue that pass 2 writes: its code, and a saturation count (R186, R189). A z that is not finite leaves 0. -/
def udResidue (k : UdK) (index wc : Nat) (z : FV) : Nat × Nat :=
  if !z.finite then (0, 0) else
  let w := (elemValue .bf16 false wc).dy
  let d := z.dy.add ⟨-w.m, w.e⟩
  let e := d.e - (ulpExp wc - 8)
  if Dy.lt ⟨127, 0⟩ ⟨d.m, e⟩ then (127, 1) else if Dy.lt ⟨d.m, e⟩ ⟨-128, 0⟩ then (128, 1) else
  let lo := floorSteps d.m e 0
  let f := floorSteps d.m e (-16) - lo * 65536
  let q := if (drawRound k.seed k.tid 0 k.t index : Int) < f then lo + 1 else lo
  (unsignedOf 8 q, 0)

/-- Pass 2 on one block of 32 elements. -/
def pass2Block (k : UdK) (c step : Nat) (r : LayerRec) (row : Nat) (x : UdRow) (u : UdRun) (c0 : Nat) : Res UdRun :=
  let js := r.blockCols c0
  let es := js.map fun j =>
    let z0 := x.z0 j
    let d := udDir k (udMoment .e4m3 (nth 0 x.m j) (nth 127 x.ms j)) (udMoment .lv8 (nth 0 x.v j) (nth 127 x.vs j)) z0
    let p := fmul k.step (d.getLastD fzero)
    let z := fsub z0 p
    let wn := encodeElem .bf16 false z
    (wn, udResidue k (r.elem row j) wn.1 z, if (z0 :: p :: z :: d).all FV.finite then none else some (r.elem row j))
  let st := putRow (u.s, .ok ()) c r.master row c0 (es.map (·.1.1)) (.update step [])
  (Writing.res (putRow st c r.residue row c0 (es.map (·.2.1.1)) (.update step []))).bind fun s =>
  .ok { u with s := s, bad := u.bad ++ es.filterMap (·.2.2),
               kw := u.kw.add (sumCounts (es.map fun e => e.1.2.add { sat := e.2.1.2 })) }

/-- Pass 2 over some rows, and the print squares that they complete (R62, R189). -/
def pass2Group (k : UdK) (c step p : Nat) (r : LayerRec) (u : UdRun) (rows : List Nat) : Res UdRun :=
  (Res.fold (fun (u : UdRun) row =>
    (u.s.udBlocks c r row).bind fun bs =>
    if bs.isEmpty then .ok u else
    (u.s.udRow c step r row).bind fun x => Res.fold (pass2Block k c step r row x) u bs) u rows).bind fun u =>
  (Res.mapM (fun row => (u.s.readCodes c r.master row 0 r.master.cols (some step)).bind fun ws =>
    .ok (row, ws.map fun w => some (elemValue .bf16 false w))) rows).bind fun l =>
  let v := convertRows (r.slot p) 0 l
  (Writing.res (writeConverted (u.s, .ok ()) c (r.slot p) 0 v (blocksOf 0 r.master.cols)
    (.update step (if r.maskMode = 0 ∧ r.master.rows % 128 = 0 ∧ r.master.cols % 128 = 0 then (r.slot p).ranges else [])))).bind fun s =>
  .ok { u with s := s, kp := u.kp.add v.counts }

/-- Pass 2 over the shard. -/
def pass2 (k : UdK) (c step p : Nat) (r : LayerRec) (s : State) : Res UdRun :=
  Res.fold (pass2Group k c step p r) { s := s } (rowGroups r.print.b 0 r.master.rows)

-- The command (R183, R184).

/-- LAYER. -/
def udLayer (w : Packet) : Nat := pkt w 64 48

/-- ETA. -/
def udEta (w : Packet) : FV := ofFp32 (pkt w 160 32)

/-- LAMBDA. -/
def udLambda (w : Packet) : FV := ofFp32 (pkt w 192 32)

/-- STEP. -/
def udStep (w : Packet) : Nat := pkt w 224 32

/-- PRINT. -/
def udPrint (w : Packet) : Nat := pkt w 256 32

/-- ACCORD. -/
def udAccord (w : Packet) : Nat := pkt w 288 16

/-- NORMS. -/
def udNorms (w : Packet) : Nat := pkt w 304 48

/-- A step that a command names is the one of its stream processor, or the step before. -/
def stepNear (st : Option Nat) (n : Nat) : Bool :=
  match st with
  | some k => n == k || (n + 1) % 2 ^ 32 == k
  | none => false

/-- Commands of UD.FUU that have not begun (R179). -/
def State.udQueue (s : State) : List Cmd := s.cmds.filter fun x => opc x.w == 0x55 && x.phase == .queued

/-- Commands of UD.FUU in progress. -/
def State.udBusy (s : State) : List Cmd := s.cmds.filter fun x => opc x.w == 0x55 && x.phase != .queued

/-- The checks of UPDATE at dispatch (R177, R183, R184, R257). -/
def prepUpdate (s : State) (x : Cmd) : Res Cmd :=
  (Res.check (rsvZero x.w [(352, 160)] && s.isLearn x.cx && s.flag R.MGT_POPULATION_UD_AVAIL && stepNear x.step (udStep x.w) &&
    udLayer x.w % 64 == 0 && pkt x.w 112 48 % 64 == 0 && udNorms x.w % 64 == 0) illegal).bind fun _ =>
  (if udAccord x.w = 0xFFFF then .ok {} else s.commandAccord x.cx (udAccord x.w)).bind fun (_ : Accord) =>
  if 16 ≤ s.udQueue.length then .wait else .ok x

/-- UPDATE is dispatched: its norm exchange takes its number (R258). -/
def runUpdate (s : State) (x : Cmd) : State :=
  let s := enqueue s x
  if udAccord x.w = 0xFFFF then s else
  match s.commandAccord x.cx (udAccord x.w) with
  | .ok a => s.openColl { id := 0, cmd := some x.id, cx := x.cx, acc := a, seq := 0, op := .norms }
  | .fault e => s.faultCmd x e
  | .wait => s

/-- UPDATE. -/
def execUpdate (sp : Fin 32) (s : State) : Host.Outcome State Fault Refusal :=
  .next (dispatch sp (fun w => opc w == 0x55) prepUpdate runUpdate s)

-- The begin of an UPDATE.

/-- Pages that a record covers, with the slot of a print number (R184, R198). -/
def LayerRec.covered (r : LayerRec) (a p : Nat) : List Nat := pagesOf (r.cowRanges a ++ (r.slot p).ranges)

/-- A shadow of a context on one of some pages. -/
def onPages (ps : List Nat) (h : Shadow) : Bool := ps.contains (pageBytes * h.vpage)

/-- No shadow of an earlier step stands on the pages of a record; a record that cannot be read is left to the begin. -/
def State.noOldShadow (s : State) (x : Cmd) : Bool :=
  match s.readLayer x.cx (udLayer x.w) (udStep x.w) with
  | .ok r =>
    let ps := r.covered (udLayer x.w) (udPrint x.w)
    !(s.cx x.cx).shadows.any fun h => decide (h.step < udStep x.w) && onPages ps h
  | _ => true

/-- The waits of R184 are met. -/
def State.udMet (s : State) (x : Cmd) : Bool :=
  s.cmdRuns x && ((s.cx x.cx).sFor (udStep x.w)).isSome && s.noOldShadow x &&
    !s.cmds.any fun y => opc y.w == 0x55 && y.cx == x.cx && udLayer y.w == udLayer x.w && decide (y.id < x.id)

/-- The print number that the next UPDATE or COMMIT of a print must name (R184, R198). -/
def State.nextPrint (s : State) (c tid : Nat) : Res Nat :=
  (s.vreadNat c (s.versionAddr c tid) 4).bind fun v => .ok ((v + 1) % 2 ^ 32)

/-- The record and the group of an UPDATE, with the checks of its begin (R181, R182, R184). -/
def State.udParts (s : State) (x : Cmd) : Res (LayerRec × Group) :=
  (s.checkedLayer x.cx (udLayer x.w) (udStep x.w) (udPrint x.w)).bind fun r => (s.readGroup x.cx (pkt x.w 112 48)).bind fun g =>
  (s.nextPrint x.cx r.print.tid).bind fun p =>
  (Res.check (notNeg (udEta x.w) && notNeg (udLambda x.w) && p == udPrint x.w) illegal).bind fun _ => .ok (r, g)

/-- The sums and the anchor that a member contributes to a norm exchange (R187). -/
def normVote (w g u : Nat) (a : Int) : List Byte := leBytes 8 w ++ leBytes 8 g ++ leBytes 8 u ++ leBytes 2 (unsignedOf 16 a)

/-- Pass 1 is over: an UPDATE with an accord enters its norm exchange with its sums; alone it has its totals. -/
def udExchange (s : State) (x : Cmd) (w g u : Nat) (a : Int) : State :=
  let s := s.updCmd x.id fun y => { y with phase := .exchange }
  if udAccord x.w = 0xFFFF then
    s.updCmd x.id fun y => { y with upd := { y.upd with w2 := w, g2 := g, u2 := u, exchanged := true } }
  else s.enterVote x.id (normVote w g u a)

/-- The step of an UPDATE is skipped: it takes part in its exchange with zero sums, if it has not yet (R184, R200). -/
def udSkip (s : State) (x : Cmd) : State :=
  let s := s.updCmd x.id fun y => { y with upd := { y.upd with skipped := true } }
  if x.phase = .exchange then s else udExchange s x 0 0 0 x.upd.anchor

/-- An UPDATE begins (R181 to R184). -/
def udBegin (s : State) (x : Cmd) : State :=
  match s.udParts x with
  | .fault k => s.faultCmd x k
  | .wait => s
  | .ok (r, g) =>
    let u : Upd := { t := r.t, s := ((s.cx x.cx).sFor (udStep x.w)).getD 0, anchor := g.anchor,
                     turn := (s.udBusy.map fun y => y.upd.turn).foldl max 0 + 1 }
    let x := { x with phase := .pass1, upd := u }
    let s := s.updCmd x.id fun _ => x
    if ((s.cx x.cx).verdictOf (udStep x.w)).any (·.skip) then udSkip s x else s

/-- UPDATE_BEGIN: the first UPDATE in dispatch order whose waits are met, while at most one is in progress and none is in
pass 1 (R179, R185). -/
def updateBeginNow (s : State) (id : Nat) : State :=
  match s.cmd? id with
  | none => s
  | some x =>
    if opc x.w == 0x55 && x.phase == .queued && s.udMet x && decide (s.udBusy.length < 2) &&
        !s.udBusy.any (fun y => y.phase == .pass1) && !s.udQueue.any (fun y => decide (y.id < x.id) && s.udMet y) then
      (udBegin s x).settle
    else s

/-- UPDATE_BEGIN. -/
def execUpdateBegin (id : Nat) (s : State) : Host.Outcome State Fault Refusal := .next (updateBeginNow s id)

-- The passes of a command.

/-- An UPDATE in progress goes on: its context exists, though it may be parked (R200). -/
def State.udGoes (s : State) (x : Cmd) (p : CmdPhase) : Bool := s.live && s.cxLive x.cx && opc x.w == 0x55 && x.phase == p

/-- The record and the group of an UPDATE in progress. -/
def State.udTaken (s : State) (x : Cmd) : Res (LayerRec × Group) :=
  (s.checkedLayer x.cx (udLayer x.w) (udStep x.w) (udPrint x.w)).bind fun r =>
  (s.readGroup x.cx (pkt x.w 112 48)).bind fun g => .ok (r, g)

/-- Run pass 1. -/
def udPass1 (s : State) (x : Cmd) : State :=
  match s.udTaken x with
  | .fault k => s.faultCmd x k
  | .wait => s
  | .ok (r, g) =>
    match pass1 (udConst x.seed r.master.tid x.upd.t x.upd.s g (udLambda x.w) fzero) x.cx (udStep x.w) r s with
    | .fault k => s.faultCmd x k
    | .wait => s
    | .ok u =>
      let s := u.s.updCmd x.id fun y =>
        { y with upd := { y.upd with low := u.nw.low + u.ng.low + u.nu.low, high := u.nw.high + u.ng.high + u.nu.high, bad := u.bad } }
      let s := s.countFor x.id r.m1.tid .m u.k1
      let s := s.countFor x.id r.m2.tid .m u.k2
      udExchange s x u.nw.sum u.ng.sum u.nu.sum g.anchor

/-- PASS1_END: pass 1 has run over the shard, and the norm exchange begins (R185, R187). A write that waits for a shadow
frame leaves the pass to be tried again. -/
def pass1EndNow (s : State) (id : Nat) : State :=
  match s.cmd? id with
  | none => s
  | some x => if s.udGoes x .pass1 then (udPass1 s x).settle else s

/-- PASS1_END. -/
def execPass1End (id : Nat) (s : State) : Host.Outcome State Fault Refusal := .next (pass1EndNow s id)

/-- The 64 bytes of a norms entry (R192). -/
def normsEntry (w : Packet) (u : Upd) (phi : FV) : List Byte :=
  let z := u.skipped
  let sum (n : Nat) : List Byte := leBytes 8 (if z then 0 else n)
  let root (n : Nat) : List Byte := leBytes 4 (if z then 0 else fp32Bits (normRoot n u.anchor))
  sum u.w2 ++ sum u.g2 ++ sum u.u2 ++ root u.w2 ++ root u.g2 ++ root u.u2 ++ leBytes 4 (if z then 0 else fp32Bits phi) ++
    leBytes 2 (unsignedOf 16 u.anchor) ++ leBytes 2 (if z then 1 else 0) ++ leBytes 4 (udStep w) ++ leBytes 4 (udPrint w) ++
    leBytes 4 (if z then u.t else nextT u.t) ++ leBytes 2 (stick 0xFFFF u.low) ++ leBytes 2 (stick 0xFFFF u.high) ++
    leBytes 2 (stick 0xFFFF (dedup u.bad).length) ++ leBytes 2 0

/-- Write the norms entry of an UPDATE, where it names one. -/
def State.writeNorms (s : State) (x : Cmd) (u : Upd) (phi : FV) : Res State :=
  if udNorms x.w = 0 then .ok s else s.vwrite x.cx (udNorms x.w) (normsEntry x.w u phi)

/-- The UPDATE has nothing left to do; it is counted. -/
def udDone (s : State) (x : Cmd) : State :=
  (s.updCmd x.id fun y => { y with phase := .finished }).bump R.UD_FUU_STAT_DONE

/-- Pass 2 of an UPDATE whose step stands: masters, residues and print, then T, then the norms entry. -/
def udPass2 (s : State) (x : Cmd) : State :=
  let c := x.cx
  let st := udStep x.w
  match s.udTaken x with
  | .ok (r, g) =>
    let phi := trustRatio g x.upd.w2 x.upd.u2
    let k := udConst x.seed r.master.tid x.upd.t x.upd.s g (udLambda x.w) (fmul (udEta x.w) phi)
    let w := (pass2 k c st (udPrint x.w) r s).bind fun u =>
      (u.s.vwriteNat c (udLayer x.w + 168) 4 (nextT x.upd.t) (.update st [])).bind fun s =>
      (s.writeNorms x { x.upd with bad := x.upd.bad ++ u.bad } phi).bind fun s => .ok { u with s := s }
    match w with
    | .fault e => s.faultCmd x e
    | .wait => s
    | .ok u =>
      let s := u.s.countFor x.id r.master.tid .w u.kw
      udDone (s.countFor x.id r.print.tid .p u.kp) x
  | .fault e => s.faultCmd x e
  | .wait => s

/-- The end of an UPDATE whose step is skipped (R184, R192). -/
def udSkipped (s : State) (x : Cmd) : State :=
  match s.writeNorms x x.upd fzero with
  | .ok s => udDone s x
  | .fault e => s.faultCmd x e
  | .wait => s

/-- PASS2_END: after its norm exchange, and after every UPDATE that began before it has completed (R185). -/
def pass2EndNow (s : State) (id : Nat) : State :=
  match s.cmd? id with
  | none => s
  | some x =>
    if s.udGoes x .exchange && x.upd.exchanged && s.udBusy.all fun y => decide (x.upd.turn ≤ y.upd.turn) then
      (if x.upd.skipped then udSkipped s x else udPass2 s x).settle
    else s

/-- PASS2_END. -/
def execPass2End (id : Nat) (s : State) : Host.Outcome State Fault Refusal := .next (pass2EndNow s id)

end Sys2Proof.Machine
end

