-- ==== Sys2Proof/Machine/Commit.lean ====
section
/-! DEFINITION. COMMIT: the publication of prints and of data (R197 to R199, R204), with what it owes to the checkpoint
engine (R317, R318, R321). -/

namespace Sys2Proof.Machine

-- The pages of a checkpoint (R309).

/-- First addresses of the pages of the PARITY ranges, in image order, or of the JOURNAL ranges. -/
def Ckpt.pages (x : Ckpt) (parity : Bool) : List Nat :=
  (x.ranges.filter fun r => r.2.2 == parity).flatMap fun r => (List.range r.2.1).map fun i => r.1 + pageBytes * i

/-- The journaled page at an address, counted from 0. -/
def Ckpt.journalPage (x : Ckpt) (va : Nat) : Option Nat := (x.pages false).findIdx? fun a => a == va

/-- Journaled pages (R309). -/
def Ckpt.jpages (x : Ckpt) : Nat := (x.pages false).length

/-- The snapshot table of a generation (R310). -/
def Ckpt.snap (x : Ckpt) (g : Nat) : List (Option Nat) := if g % 2 = 0 then x.snap0 else x.snap1

/-- The generation that holds a frame: the latest of the one being built and the sealed one whose snapshot it is (R318). -/
def State.heldBy (s : State) (c frame : Nat) : Option Nat :=
  let x := (s.cx c).ckpt
  let g := s.rd R.CX_CKPT_STAT_GEN c
  let z := s.rd R.CX_CKPT_STAT_SEALED c
  if !s.flag R.CX_CKPT_CTL_EN c then none
  else if (x.snap g).contains (some frame) then some g
  else if (x.snap z).contains (some frame) then some z
  else none

/-- A frame of update state is replaced: it returns to the slow pool, or is held for a generation (R198, R318). -/
def State.replaced (s : State) (c frame : Nat) : State :=
  match s.heldBy c frame with
  | some g => s.updCkpt c fun x => { x with held := x.held ++ [⟨frame, g, false⟩] }
  | none => s.returnFrame c frame false

/-- The page of a sweep that is about to change and has not been sent goes next (R317). -/
def Ckpt.urgent (x : Ckpt) (va : Nat) : Ckpt :=
  match (x.pages true).findIdx? fun a => a == va with
  | none => x
  | some i =>
    let hit (k : CkSend) : Bool := k.kind == .parity && k.page == i && k.msg == 0
    { x with sends := x.sends.filter (fun k => k.msg != 0) ++ x.sends.filter hit ++ x.sends.filter fun k => k.msg == 0 && !hit k }

-- Journal appends (R320, R321).

/-- The latest append of a slot of a journaled page: GEN and step. -/
def Ckpt.slotTag (x : Ckpt) (page k : Nat) : Option (Nat × Nat) :=
  (x.slots.reverse.find? fun q => q.1 == page && q.2.1 == k).map fun q => q.2.2

/-- The slot that a restore of generation `g` takes: the larger step among those with GEN below g (R321). -/
def Ckpt.restoreSlot (x : Ckpt) (page g : Nat) : Option Nat :=
  let ok (k : Nat) : Option Nat := match x.slotTag page k with
    | some (n, st) => if n < g then some st else none
    | none => none
  match ok 0, ok 1 with
  | some a, some b => some (if a < b then 1 else 0)
  | some _, none => some 0
  | none, some _ => some 1
  | none, none => none

/-- Where the tags of the journal area begin (R320). -/
def State.tagBase (s : State) (c : Nat) : Nat := s.rdAddr R.CX_CKPT_JBASE_BASE c + 2 * pageBytes * (s.cx c).ckpt.jpages

/-- Where the record slots of the journal area begin (R320). -/
def State.recordBase (s : State) (c : Nat) : Nat := roundUp (s.tagBase c + 128 * (s.cx c).ckpt.jpages) pageBytes

/-- The journal peers (R320). -/
def State.jpeers (s : State) (c : Nat) : List (Nat × Nat) :=
  [(s.rd R.CX_CKPT_JPEER_DEV_A c, s.rd R.CX_CKPT_JPEER_CX_A c), (s.rd R.CX_CKPT_JPEER_DEV_B c, s.rd R.CX_CKPT_JPEER_CX_B c)]

/-- The appends of a journaled page to both peers, into the slot that the restore of the latest sealed generation would
not take; where it takes none, either. -/
def State.appendPage (s : State) (c page frame gen st : Nat) : State :=
  let x := (s.cx c).ckpt
  let (k, s) := match x.restoreSlot page (s.rd R.CX_CKPT_STAT_SEALED c) with
    | some k => (1 - k, s)
    | none => s.pick 2
  let send (last : Bool) (q : Nat × Nat) : CkSend :=
    { kind := .append, dev := q.1, cx := q.2, addr := s.rdAddr R.CX_CKPT_JBASE_BASE c + pageBytes * (2 * page + k),
      frame := some frame, page := page, slot := k, tag := s.tagBase c + 64 * (2 * page + k),
      gen := gen, step := st, last := last }
  let ps := s.jpeers c
  s.updCkpt c fun x => { x with journal := x.journal ++ [send false (nth (0, 0) ps 0), send true (nth (0, 0) ps 1)] }

/-- A journaled page has an append that has not completed (R321). -/
def State.appending (s : State) (c va : Nat) : Bool :=
  let x := (s.cx c).ckpt
  match x.journalPage va with
  | some i => x.journal.any fun k => k.kind == .append && k.page == i
  | none => false

-- The commit of a page.

/-- Replace FRAME in an entry of the print page table; SHARED is cleared. -/
def State.setPrtFrame (s : State) (i frame : Nat) : State :=
  let v := s.preadNat (s.prtAddr i) 8
  s.pwriteNat (s.prtAddr i) 8 (v - bitsAt v 0 27 - bitsAt v 32 1 * 2 ^ 32 + frame / pageBytes)

/-- Set SHARED in an entry of the print page table. -/
def State.setPrtShared (s : State) (i : Nat) (b : Bool) : State :=
  let v := s.preadNat (s.prtAddr i) 8
  s.pwriteNat (s.prtAddr i) 8 (v - bitsAt v 32 1 * 2 ^ 32 + (if b then 2 ^ 32 else 0))

/-- Replace the frame in the level-2 entry of a page (R198). -/
def State.setL2Frame (s : State) (c va frame : Nat) : State :=
  match s.l2Addr c va with
  | some a2 =>
    let v := leNat (memRead (s.tables c) a2 8)
    s.setL2 c a2 (v - bitsAt v 21 27 * 2 ^ 21 + frame)
  | none => s

/-- One page of a commit: its shadow becomes the committed frame. A COW page's old frame goes back; the old frame of a print
page is answered, for the slots' sharing to decide. -/
def State.commitPage (s : State) (c st : Nat) (h : Shadow) : Res (State × List Nat) :=
  let va := pageBytes * h.vpage
  (s.walk c va).bind fun p =>
  let s := s.updCx c fun x => { x with shadows := x.shadows.filter fun y => y.vpage != h.vpage }
  if p.prt then .ok (s.setPrtFrame p.index h.frame, [p.frame])
  else
    let s := s.updCkpt c fun x => x.urgent va
    let s := (s.setL2Frame c va h.frame).replaced c p.frame
    .ok (match (s.cx c).ckpt.journalPage va with
      | some i => (s.appendPage c i h.frame (s.rd R.CX_CKPT_STAT_GEN c) st).kickSends c
      | none => s, [])

/-- Commit shadows one page after another. -/
def State.commitShadows (s : State) (c st : Nat) (hs : List Shadow) : Res (State × List Nat) :=
  Res.fold (fun (w : State × List Nat) h => (w.1.commitPage c st h).bind fun r => .ok (r.1, w.2 ++ r.2)) (s, []) hs

-- Slots of a print (R197, R198).

/-- Offset of the slot of a print number. -/
def LayerRec.slotOff (r : LayerRec) (p : Nat) : Nat := p % (r.depth + 1) * r.pstride

/-- Pages of slot 0 of a print. -/
def LayerRec.slotPages (r : LayerRec) : List Nat := pagesOf (r.slot 0).ranges

/-- The print pages at one place of every slot that can be walked. -/
def State.siblings (s : State) (c : Nat) (r : LayerRec) (va0 : Nat) : List Page :=
  (List.range (r.depth + 1)).filterMap fun k => match s.walk c (va0 + k * r.pstride) with
    | .ok p => if p.prt then some p else none
    | _ => none

/-- Mark the entries of one place of the slots as shared or not (R198). -/
def State.markShared (s : State) (c : Nat) (r : LayerRec) (va0 : Nat) : State :=
  let ps := s.siblings c r va0
  ps.foldl (fun s p => s.setPrtShared p.index (decide (1 < (ps.filter fun q => q.frame == p.frame).length))) s

/-- A page of the slot that took no shadow refers to the frame of the slot before (R198); the frame it had is answered.
Where the slot before has no print page there, the page is left as it is (log entry 31). -/
def State.aliasPage (s : State) (c p : Nat) (r : LayerRec) (va0 : Nat) : State × List Nat :=
  match s.walk c (va0 + r.slotOff p), s.walk c (va0 + r.slotOff ((2 ^ 32 + p - 1) % 2 ^ 32)) with
  | .ok q, .ok b => if !(q.prt && b.prt) || q.frame == b.frame then (s, []) else (s.setPrtFrame q.index b.frame, [q.frame])
  | _, _ => (s, [])

/-- Alias the pages of the slot of print `p` that are not among those just committed and hold no shadow. With DEPTH 0 there is no other slot. -/
def State.aliasSlot (s : State) (c p : Nat) (r : LayerRec) (done : List Nat) : State × List Nat :=
  if r.depth = 0 then (s, []) else
  r.slotPages.foldl (fun (w : State × List Nat) va0 =>
    let va := va0 + r.slotOff p
    if done.contains va || (w.1.shadow? c va).isSome then w
    else let q := w.1.aliasPage c p r va0; (q.1, w.2 ++ q.2)) (s, [])

/-- Replaced frames of print pages go back to the near pool, but for those that another slot still refers to. -/
def State.freePrints (s : State) (c : Nat) (r : LayerRec) (fs : List Nat) : State :=
  let used := r.slotPages.flatMap fun a => (s.siblings c r a).map (·.frame)
  (dedup (fs.filter fun f => !used.contains f)).foldl (fun s f => s.returnFrame c f true) s

-- The command.

/-- LAYER. -/
def cmLayer (w : Packet) : Nat := pkt w 64 48

/-- STEP. -/
def cmStep (w : Packet) : Nat := pkt w 112 32

/-- PRINT. -/
def cmPrint (w : Packet) : Nat := pkt w 144 32

/-- COMMITs that wait (R122). -/
def State.cmQueue (s : State) : List Cmd := s.cmds.filter fun x => opc x.w == 0x53 && x.phase == .queued

/-- The checks that both kinds of COMMIT make at dispatch (R153, R198, R199, R205). -/
def cmFieldsOk (s : State) (x : Cmd) : Bool :=
  rsvZero x.w [(176, 336)] && s.isLearn x.cx && decide (s.rd R.CX_PRINTS_HOLD_SEM x.cx ≤ 252)

/-- The checks of a layer's COMMIT at dispatch (R198). -/
def prepCommit (s : State) (x : Cmd) : Res Cmd :=
  (Res.check (cmFieldsOk s x && cmLayer x.w % 64 == 0 && x.step.any fun k => (cmStep x.w + 1) % 2 ^ 32 == k) illegal).bind fun _ =>
  if 16 ≤ s.cmQueue.length then .wait else .ok x

/-- The checks of a data commit at dispatch (R199). -/
def prepDataCommit (s : State) (x : Cmd) : Res Cmd :=
  (Res.check (cmFieldsOk s x && cmPrint x.w == 0 && stepNear x.step (cmStep x.w)) illegal).bind fun _ =>
  if 16 ≤ s.cmQueue.length then .wait else .ok x

/-- The record of a COMMIT on the host update path, with the checks that remain there (R181, R204). -/
def State.hostLayer (s : State) (c a st p : Nat) : Res LayerRec :=
  (s.vreadNat c a 256 (some st)).bind fun v =>
  (s.readDesc c (a + 128) (some st)).bind fun d =>
  let r := layerFields v { (default : LayerRec) with print := d }
  (Res.check (layerRsvOk v && bitsAt v 0 1024 == 0 && bitsAt v (8 * 160) 96 == 0 && s.printOk c p r && s.allCow c (pagesOf [(a, 256)]))
    illegal).bind fun _ => .ok r

/-- The record of a COMMIT and its checks when it begins (R181, R198). -/
def State.cmRecord (s : State) (x : Cmd) : Res LayerRec :=
  (if s.flag R.MGT_POPULATION_UD_AVAIL then s.checkedLayer x.cx (cmLayer x.w) (cmStep x.w) (cmPrint x.w)
   else s.hostLayer x.cx (cmLayer x.w) (cmStep x.w) (cmPrint x.w)).bind fun r =>
  (s.nextPrint x.cx r.print.tid).bind fun p => (Res.check (p == cmPrint x.w) illegal).bind fun _ => .ok r

/-- The shadows that a COMMIT commits. -/
def State.cmShadows (s : State) (x : Cmd) (r : LayerRec) : List Shadow :=
  let ps := r.covered (cmLayer x.w) (cmPrint x.w)
  (s.cx x.cx).shadows.filter fun h => h.step == cmStep x.w && onPages ps h

/-- The verdict of a step has completed (R198). -/
def State.decided (s : State) (c st : Nat) : Bool :=
  ((s.cx c).verdictOf st).isSome || ((s.cx c).first.isSome && decide (st < (s.cx c).oldest))

/-- The hold semaphore that the commit of a print waits for (R197). -/
def State.holdOf (s : State) (c p depth : Nat) : Nat := s.rd R.CX_PRINTS_HOLD_SEM c + (2 ^ 32 + p - depth - 1) % 4

/-- An earlier COMMIT of the context has not finished with the same layer. -/
def State.cmBehind (s : State) (x : Cmd) : Bool :=
  s.cmQueue.any fun y => y.cx == x.cx && cmLayer y.w == cmLayer x.w && decide (y.id < x.id)

/-- The verdict and the UPDATEs that a COMMIT waits for are there (R198). -/
def State.cmReady (s : State) (x : Cmd) : Bool :=
  s.decided x.cx (cmStep x.w) && !s.cmBehind x &&
    !s.cmds.any fun y => opc y.w == 0x55 && y.cx == x.cx && udLayer y.w == cmLayer x.w && udStep y.w == cmStep x.w

/-- COMMIT's acts in their order (R198). -/
def State.cmActs (s : State) (x : Cmd) (r : LayerRec) (hs : List Shadow) : Res State :=
  let c := x.cx
  let p := cmPrint x.w
  (s.commitShadows c (cmStep x.w) hs).bind fun a =>
  let b := a.1.aliasSlot c p r (hs.map fun h => pageBytes * h.vpage)
  let s := r.slotPages.foldl (fun s va0 => s.markShared c r va0) b.1
  let s := s.freePrints c r (a.2 ++ b.2)
  s.vwriteNat c (s.versionAddr c r.print.tid) 8 p

/-- A COMMIT has nothing left to do: rushes hear of it (R340). -/
def cmDone (s : State) (x : Cmd) : State :=
  (s.updCmd x.id fun y => { y with phase := .finished }).rush 7 x.cx x.sp (opc x.w) (pkt x.w 32 16) x.index (cmPrint x.w)

/-- Carry a layer's COMMIT out once its waits are met: its checks, the hold, the journal, its acts (R198, R321). -/
def tryCommit (s : State) (x : Cmd) : State :=
  if !s.cmReady x then s else
  match s.cmRecord x with
  | .fault k => s.faultCmd x k
  | .wait => s
  | .ok r =>
    let hs := s.cmShadows x r
    if s.sem x.cx (s.holdOf x.cx (cmPrint x.w) r.depth) ≠ 0 ∨ (hs.any fun h => s.appending x.cx (pageBytes * h.vpage)) = true then s
    else match s.cmActs x r hs with
      | .ok s => (cmDone s x).pollOwner x.cx
      | .fault k => s.faultCmd x k
      | .wait => s

/-- The shadows that a data commit commits: a MOVE made them on COW pages and no UPDATE wrote them (R199). -/
def State.dataShadows (s : State) (x : Cmd) : List Shadow :=
  (s.cx x.cx).shadows.filter fun h => h.step == cmStep x.w && h.byMove && !h.byUpdate && !h.print

/-- Carry a data commit out; it waits only for appends of the pages it changes (R199, R321). -/
def tryDataCommit (s : State) (x : Cmd) : State :=
  let hs := s.dataShadows x
  if hs.any fun h => s.appending x.cx (pageBytes * h.vpage) then s else
  match s.commitShadows x.cx (cmStep x.w) hs with
  | .ok (s, _) => cmDone s x
  | .fault k => s.faultCmd x k
  | .wait => s

/-- A COMMIT goes on with its waits. -/
def tryAnyCommit (s : State) (x : Cmd) : State := if cmLayer x.w = 0 then tryDataCommit s x else tryCommit s x

/-- COMMIT of a layer. -/
def execCommit (sp : Fin 32) (s : State) : Host.Outcome State Fault Refusal :=
  .next (dispatch sp (fun w => opc w == 0x53 && cmLayer w != 0) prepCommit (fun s x => enqueue s x) s)

/-- DATA_COMMIT: a COMMIT whose LAYER is zero acts at its dispatch (R199). -/
def execDataCommit (sp : Fin 32) (s : State) : Host.Outcome State Fault Refusal :=
  .next (dispatch sp (fun w => opc w == 0x53 && cmLayer w == 0) prepDataCommit (fun s x => tryDataCommit (enqueue s x) x) s)

/-- COMMIT_WAITS_MET: a waiting COMMIT of a RESIDENT context is carried out if nothing holds it back any more (R198, R200). -/
def commitWaitsNow (s : State) (id : Nat) : State :=
  match s.cmd? id with
  | none => s
  | some x => if opc x.w == 0x53 && x.phase == .queued && s.cmdRuns x then (tryAnyCommit s x).settle else s

/-- COMMIT_WAITS_MET. -/
def execCommitWaitsMet (id : Nat) (s : State) : Host.Outcome State Fault Refusal := .next (commitWaitsNow s id)

end Sys2Proof.Machine
end

