-- ==== Sys2Proof/Machine/Syncops.lean ====
section
/-! DEFINITION. The commands that a stream processor executes itself, its doorbell and its ring (R120 to R126, R147 to R154,
R285), and the host's writes of semaphores. -/

namespace Sys2Proof.Machine

-- NOP and TAKE_POINT.

/-- NOP has no field beyond the header. -/
def prepPlain (_ : State) (x : Cmd) : Res Cmd :=
  (Res.check (rsvZero x.w [(64, 448)]) illegal).bind fun _ => .ok x

/-- NOP completes at dispatch (R125). -/
def execNop (sp : Fin 32) (s : State) : Host.Outcome State Fault Refusal :=
  .next (dispatch sp (fun w => opc w == 0x00) prepPlain completeNow s)

/-- TAKE_POINT completes at dispatch; with a park at a point pending its stream processor stops there (R285). -/
def runTakePoint (s : State) (x : Cmd) : State :=
  let s := if (s.cx x.cx).park == .atPoint then s.updSp x.sp fun u => { u with halted := true } else s
  completeNow s x

/-- TAKE_POINT. -/
def execTakePoint (sp : Fin 32) (s : State) : Host.Outcome State Fault Refusal :=
  .next (dispatch sp (fun w => opc w == 0x54) prepPlain runTakePoint s)

-- Semaphores (R147 to R149).

/-- The semaphore that a command names, with the grant checked (R147). -/
def State.namedSem (s : State) (x : Cmd) : Res (Nat × Nat) :=
  let n := pkt x.w 64 12
  (Res.check (s.granted x.cx (semOwner n)) illegal).bind fun _ => .ok (semOwner n, semIndex n)

/-- VALUE of SEM_WAIT and SEM_POST. -/
def semValue (w : Packet) : Nat := pkt w 96 32

/-- ACQUIRE of SEM_WAIT. -/
def semAcquire (w : Packet) : Bool := pktBit w 76

/-- The checks of SEM_WAIT: an acquiring wait names no semaphore that the device owns (R173, R311). -/
def prepSemWait (s : State) (x : Cmd) : Res Cmd :=
  (Res.check (rsvZero x.w [(77, 19), (128, 384)]) illegal).bind fun _ =>
  (s.namedSem x).bind fun m =>
  (Res.check (!(semAcquire x.w && s.semOwned m.1 m.2)) illegal).bind fun _ => .ok x

/-- SEM_WAIT holds its stream processor until the semaphore reaches VALUE (R149). -/
def runSemWait (s : State) (x : Cmd) : State :=
  let n := pkt x.w 64 12
  beginWait s x (.sem (semOwner n) (semIndex n) (semValue x.w) (semAcquire x.w) (s.waitOrder x.sp))

/-- SEM_WAIT. -/
def execSemWait (sp : Fin 32) (s : State) : Host.Outcome State Fault Refusal :=
  .next (dispatch sp (fun w => opc w == 0x40) prepSemWait runSemWait s)

/-- The checks of SEM_POST: it names no semaphore that the device owns, and its sum fits (R148, R173, R311). -/
def prepSemPost (s : State) (x : Cmd) : Res Cmd :=
  (Res.check (rsvZero x.w [(76, 20), (128, 384)]) illegal).bind fun _ =>
  (s.namedSem x).bind fun m =>
  (Res.check (!s.semOwned m.1 m.2 && decide (s.sem m.1 m.2 + semValue x.w < 2 ^ 32)) illegal).bind fun _ => .ok x

/-- SEM_POST adds VALUE at dispatch (R148). -/
def runSemPost (s : State) (x : Cmd) : State :=
  let n := pkt x.w 64 12
  match s.post (semOwner n) (semIndex n) (semValue x.w) with
  | some s => completeNow s x
  | none => completeNow s x

/-- SEM_POST. -/
def execSemPost (sp : Fin 32) (s : State) : Host.Outcome State Fault Refusal :=
  .next (dispatch sp (fun w => opc w == 0x41) prepSemPost runSemPost s)

/-- A host write replaces a semaphore's value and waiters are evaluated again; one to a semaphore that the device owns is
ignored (R151, R173, R311). -/
def hostSemWrite (s : State) (c i : Nat) (w : HW) : State :=
  match w.get R.CX_SEM_VALUE with
  | none => s
  | some v => if s.semOwned c i then s else (s.setSem c i v).settle

/-- HOST_SEMAPHORE_WRITE. -/
def execHostSemaphoreWrite (cx : Fin 16) (i : Fin 256) (v : Word) (s : State) : Host.Outcome State Fault Refusal :=
  .next (s.hostGate .CX cx (R.CX_SEM_VALUE.off + 8 * i) fun s => hostSemWrite s cx i (hw8 v.toNat))

-- Versions and fences (R150, R151).

/-- The checks of WAIT_VERSION (R147). -/
def prepWaitVersion (s : State) (x : Cmd) : Res Cmd :=
  (Res.check (rsvZero x.w [(68, 4), (128, 384)] && s.granted x.cx (pkt x.w 64 4)) illegal).bind fun _ => .ok x

/-- WAIT_VERSION holds its stream processor until the version entry reaches PRINT (R150). -/
def runWaitVersion (s : State) (x : Cmd) : State :=
  beginWait s x (.version (pkt x.w 64 4) (pkt x.w 72 24) (pkt x.w 96 32) (s.waitOrder x.sp))

/-- WAIT_VERSION. -/
def execWaitVersion (sp : Fin 32) (s : State) : Host.Outcome State Fault Refusal :=
  .next (dispatch sp (fun w => opc w == 0x42) prepWaitVersion runWaitVersion s)

/-- VERSION_POLL: a waiting WAIT_VERSION is evaluated again (R150). -/
def execVersionPoll (sp : Fin 32) (s : State) : Host.Outcome State Fault Refusal :=
  .next (if s.live then (s.pollVersion sp).settle else s)

/-- The checks of FENCE (R151). -/
def prepFence (_ : State) (x : Cmd) : Res Cmd :=
  (Res.check (rsvZero x.w [(69, 443)]) illegal).bind fun _ => .ok x

/-- FENCE holds its stream processor until the earlier commands of its classes have completed (R151). -/
def runFence (s : State) (x : Cmd) : State := beginWait s x (.fence (pkt x.w 64 8))

/-- FENCE. -/
def execFence (sp : Fin 32) (s : State) : Host.Outcome State Fault Refusal :=
  .next (dispatch sp (fun w => opc w == 0x43) prepFence runFence s)

-- STEP_BEGIN (R59, R66, R72, R152).

/-- STEP of STEP_BEGIN and STEP_VERDICT. -/
def stepField (w : Packet) : Nat := pkt w 64 32

/-- The checks of STEP_BEGIN: the steps of one processor do not fall, and S_INIT lies in its range where S is taken from it. -/
def prepStepBegin (s : State) (x : Cmd) : Res Cmd :=
  let k := signedOf 8 (s.rd R.CX_LEARN_S_INIT x.cx)
  (Res.check (rsvZero x.w [(96, 416)] && x.step.all (fun st => decide (st ≤ stepField x.w)) &&
    (!s.isLearn x.cx || (s.cx x.cx).first.isSome || (decide (-64 ≤ k) && decide (k ≤ 64)))) illegal).bind fun _ => .ok x

/-- The first STEP_BEGIN of a LEARN context takes S from S_INIT and fixes the oldest step (R66, R72). -/
def State.firstStep (s : State) (c n : Nat) : State :=
  let s := s.wr R.CX_LEARN_S (s.rd R.CX_LEARN_S_INIT c) c
  s.updCx c fun x => { x with first := some n, oldest := n, s0 := signedOf 8 (s.rd R.CX_LEARN_S_INIT c) }

/-- STEP_BEGIN sets the step of its stream processor; a step two beyond the oldest without a verdict waits (R66). -/
def runStepBegin (s : State) (x : Cmd) : State :=
  let n := stepField x.w
  let set (s : State) : State := completeNow (s.updSp x.sp fun u => { u with step := some n }) x
  if !s.isLearn x.cx then set s
  else if (s.cx x.cx).first.isNone then set ((s.firstStep x.cx n).copyPim x.cx)
  else if n ≤ (s.cx x.cx).oldest + 1 then set (s.copyPim x.cx)
  else beginWait s x (.step n)

/-- STEP_BEGIN. -/
def execStepBegin (sp : Fin 32) (s : State) : Host.Outcome State Fault Refusal :=
  .next (dispatch sp (fun w => opc w == 0x51) prepStepBegin runStepBegin s)

-- Doorbells and rings (R121, R123).

/-- A doorbell value is accepted: the ring is enabled and the value passes neither TAIL nor HEAD by more than the ring
holds (R121). -/
def State.bellOk (s : State) (n v : Nat) : Bool :=
  s.flag R.SP_RING_CTL_EN n &&
    decide ((2 ^ 32 + v - s.rd R.SP_PTRS_TAIL n) % 2 ^ 32 ≤ s.ringSize n) &&
    decide ((2 ^ 32 + v - s.rd R.SP_PTRS_HEAD n) % 2 ^ 32 ≤ s.ringSize n)

/-- A doorbell: the new TAIL is taken, or ignored with BAD_DOORBELL (R121). -/
def ringBell (s : State) (n v : Nat) : State :=
  if s.bellOk n v then (s.wr R.SP_PTRS_TAIL v n).settle else s.setFlag R.SP_STATUS_BAD_DOORBELL true n

/-- DOORBELL. -/
def execDoorbell (sp : Fin 32) (v : BitVec 32) (s : State) : Host.Outcome State Fault Refusal :=
  .next (s.hostGate .SP sp R.SP_PTRS_TAIL.off fun s => ringBell s sp v.toNat)

/-- EN of a ring goes from 0 to 1: the counts and the fault fields return to zero (R123, R446). -/
def State.ringStart (s : State) (n : Nat) : State :=
  let s := s.setFlag R.SP_RING_CTL_EN true n
  let s := s.wr R.SP_PTRS_HEAD 0 n
  let s := s.wr R.SP_PTRS_TAIL 0 n
  let s := s.setFlag R.SP_STATUS_FAULTED false n
  let s := s.wr R.SP_STATUS_FAULT_CODE 0 n
  let s := s.wr R.SP_STATUS_FAULT_INDEX 0 n
  s.setHeld n false

/-- The fields of RING_CTL beside EN; a processor bound anew has no step (R66). -/
def State.ringBind (s : State) (n : Nat) (w : HW) : State :=
  let old := s.cxOf n
  let s := s.puts w [R.SP_RING_CTL_CX, R.SP_RING_CTL_LOG2_SIZE, R.SP_RING_CTL_VECTOR] n
  if s.cxOf n = old then s else s.updSp n fun u => { u with step := none }

/-- A host write to RING_CTL (R123). -/
def ringCtlWrite (s : State) (n : Nat) (w : HW) : State :=
  let en := s.flag R.SP_RING_CTL_EN n
  let en' := s.after w R.SP_RING_CTL_EN n == 1
  let s := if en then s else s.ringBind n w
  if en && !en' then (s.setFlag R.SP_RING_CTL_EN false n).settle
  else if !en && en' then (s.ringStart n).settle
  else s.settle

/-- A host write to RING_BASE (R123). -/
def ringBaseWrite (s : State) (n : Nat) (w : HW) : State :=
  if s.flag R.SP_RING_CTL_EN n then s else s.put w R.SP_RING_BASE_BASE n

/-- RING_ENABLE: the write that changes EN from 0 to 1. -/
def execRingEnable (sp : Fin 32) (v : Word) (s : State) : Host.Outcome State Fault Refusal :=
  .next (s.hostGate .SP sp R.SP_RING_CTL_EN.off fun s =>
    if s.flag R.SP_RING_CTL_EN sp || !(hw8 v.toNat).one R.SP_RING_CTL_EN then s else ringCtlWrite s sp (hw8 v.toNat))

/-- RING_DISABLE: the write that changes EN from 1 to 0. -/
def execRingDisable (sp : Fin 32) (v : Word) (s : State) : Host.Outcome State Fault Refusal :=
  .next (s.hostGate .SP sp R.SP_RING_CTL_EN.off fun s =>
    if !s.flag R.SP_RING_CTL_EN sp || (hw8 v.toNat).one R.SP_RING_CTL_EN then s else ringCtlWrite s sp (hw8 v.toNat))

end Sys2Proof.Machine
end

