-- ==== Sys2Proof/Machine/Stash.lean ====
section
/-! DEFINITION. The events of the stash controllers: offloads and recalls that end, admissions, and the enabling of a
table (R162, R163, R167, R170, R172). -/

namespace Sys2Proof.Machine

/-- The entry of a context in a given state. -/
def Stash.inState (t : Stash) (st : StashState) : Option (Nat × StashEntry) := t.indexed.find? fun p => p.2.state == st

/-- Copy the pages of an entry into free pool frames, which are a free choice (R167). -/
def State.offloadPages (s : State) (c i : Nat) (ps : List (Nat × Nat)) : State :=
  ps.foldl (fun s p => match s.takePool c with
    | some (f, s') => (s'.pcopy p.2 pageBytes f).updEntry c i fun e => { e with pool := e.pool ++ [(p.1, f)] }
    | none => s) s

/-- The first of some stash pages that holds an uncorrectable block: its address in the window, and the block. -/
def State.stashBad (s : State) (c : Nat) (e : StashEntry) (ps : List (Nat × Nat)) : Option (Nat × Nat) :=
  ps.findSome? fun p => (s.badIn p.2 pageBytes).map fun b => (s.winBase c + pageBytes * (e.woff + p.1), b)

/-- The copy of an offload ends: the pages stand in the pool, and the near pages are free (R165, R167). -/
def offloadEnd (s : State) (c : Nat) : State :=
  if !s.live || s.cxState c != 3 then s else
  match (s.cx c).stash.inState .offloading with
  | none => s
  | some (i, e) =>
    if s.poolFree c < e.near.length then s else
    match s.stashBad c e e.near with
    | some q => (s.faultCx c (uncorrectable q.1 q.2)).settle
    | none =>
    let s := s.offloadPages c i e.near
    let s := s.stashSet c i fun e => { e with state := .offloaded, near := [] }
    ((s.count 0x090 0xFF c 1).bump R.CX_STASH_COUNT_OFFLOADS 1 c).settle

/-- OFFLOAD_DONE. -/
def execOffloadDone (cx : Fin 16) (s : State) : Host.Outcome State Fault Refusal := .next (offloadEnd s cx)

/-- The copy of a recall ends: the entry is NEAR and its pool pages are free (R165, R170). -/
def recallEnd (s : State) (c : Nat) : State :=
  if !s.live || s.cxState c != 3 then s else
  match (s.cx c).stash.inState .recalling with
  | none => s
  | some (i, e) =>
    match s.stashBad c e e.pool with
    | some q => (s.faultCx c (uncorrectable q.1 q.2)).settle
    | none =>
    let s := e.pool.foldl (fun s p => match e.near.find? fun q => q.1 == p.1 with
      | some q => s.pcopy p.2 pageBytes q.2
      | none => s) s
    let s := s.stashSet c i fun e => { e with state := .near, pool := [], recalled := true }
    ((s.count 0x091 0xFF c 1).bump R.CX_STASH_COUNT_RECALLS 1 c).settle

/-- RECALL_DONE. -/
def execRecallDone (cx : Fin 16) (s : State) : Host.Outcome State Fault Refusal := .next (recallEnd s cx)

/-- The controller grants the next admission, where its test passes (R172, R173). With ADMIT_EN = 0 admissions are made
by the commands that need them (R174). -/
def admitNext (s : State) (c : Nat) : State :=
  if !s.live || s.cxState c != 3 || !s.flag R.CX_STASH_CTL_EN c || !s.flag R.CX_STASH_CTL_ADMIT_EN c then s
  else if s.admissible c (s.nextSlot c) then (s.grantSlot c (s.nextSlot c)).settle
  else s

/-- ADMISSION. -/
def execAdmission (cx : Fin 16) (s : State) : Host.Outcome State Fault Refusal := .next (admitNext s cx)

-- The table (R162, R163).

/-- A stash table entry's 32 bytes; none where a reserved bit is set or a static field lies outside its range. -/
def stashEntryOf (v slots near : Nat) : Option StashEntry :=
  let e : StashEntry :=
    { mb := bitsAt v 0 8, bord := bitsAt v 16 16, size := bitsAt v 32 24, woff := bitsAt v 64 32, writes := bitsAt v 96 16,
      uses := bitsAt v 112 16 }
  if bitsAt v 8 8 != 0 || bitsAt v 56 8 != 0 || bitsAt v 131 13 != 0 || bitsAt v 176 16 != 0 || bitsAt v 224 32 != 0 then none
  else if decide (slots ≤ e.mb) || e.size == 0 || decide (near < e.size) || e.writes == 0 || e.uses == 0 then none
  else some e

/-- What the check of a table finds: the entries, or the refusal with its ERR_ENTRY. -/
inductive StashCheck where
  | table (es : List StashEntry)
  | refused (entry : Nat)
deriving DecidableEq, Repr

/-- Read and check the entries one by one, each against those before it (R163). -/
def State.stashRead (s : State) (c : Nat) (slots near : Nat) : List Nat → List StashEntry → StashCheck
  | [], es => .table es
  | i :: t, es =>
    match s.vreadNat c (s.rdAddr R.CX_STASH_TABLE_BASE c + 32 * i) 32 with
    | .ok v =>
      match stashEntryOf v slots near with
      | none => .refused i
      | some e =>
        if es.any fun q => overlaps q.woff q.size e.woff e.size then .refused i
        else if 2 ^ 48 < s.winBase c + pageBytes * (e.woff + e.size) then .refused i
        else s.stashRead c slots near t (es ++ [e])
    | _ => .refused i

/-- ADMIT_SEM as R206 forbids it: a gate semaphore in force, or a hold semaphore of a LEARN context. -/
def State.admitSemBad (s : State) (c m : Nat) : Bool :=
  let h := s.rd R.CX_PRINTS_HOLD_SEM c
  (s.flag R.CX_CKPT_CTL_EN c && s.rd R.CX_CKPT_CTL_GATE_SEM c == m) || (s.isLearn c && decide (h ≤ m) && decide (m < h + 4))

/-- The check of R163. -/
def State.stashCheck (s : State) (c : Nat) : StashCheck :=
  let near := s.rd R.CX_STASH_NEAR_PAGES c
  if (near != 0 && !s.inNear (s.rdAddr R.CX_STASH_NEAR_BASE c) (pageBytes * near)) ||
      (s.rd R.CX_STASH_POOL_PAGES c != 0 && !s.inSlow (s.rdAddr R.CX_STASH_POOL_BASE c) (pageBytes * s.rd R.CX_STASH_POOL_PAGES c)) ||
      (s.flag R.CX_STASH_CTL_ADMIT_EN c && s.admitSemBad c (s.rd R.CX_STASH_CTL_ADMIT_SEM c)) then .refused 0xFFFF
  else s.stashRead c (s.mbSlots c) near (List.range (s.rd R.CX_STASH_TABLE_ENTRIES c)) []

/-- EN goes from 0 to 1: the table is checked, and taken with every entry EMPTY, or refused (R163). -/
def stashOn (s : State) (c : Nat) : State :=
  match s.stashCheck c with
  | .refused i => (s.setFlag R.CX_STASH_STAT_TABLE_ERR true c).wr R.CX_STASH_STAT_ERR_ENTRY i c
  | .table es =>
    let s := s.setFlag R.CX_STASH_CTL_EN true c
    let s := s.setFlag R.CX_STASH_STAT_TABLE_ERR false c
    let s := s.wr R.CX_STASH_STAT_ERR_ENTRY 0 c
    let s := s.wr R.CX_STASH_COUNT_OFFLOADS 0 c
    let s := s.wr R.CX_STASH_COUNT_RECALLS 0 c
    let s := s.updCx c fun x => { x with stash := { entries := es } }
    (List.range es.length).foldl (fun s i => s.stashStore c i) s

/-- Fields of STASH_CTL that take effect at once, EN or not. -/
def stashFree : List Fld := [R.CX_STASH_CTL_LOW_WATER, R.CX_STASH_CTL_RECALL_PAGES]

/-- Fields of STASH_CTL that are ignored while EN is 1. -/
def stashFixed : List Fld := [R.CX_STASH_CTL_ADMIT_EN, R.CX_STASH_CTL_ADMIT_SEM, R.CX_STASH_CTL_MB_SLOTS]

/-- A write to STASH_CTL of a context (R163). -/
def stashCtlWrite (s : State) (c : Nat) (w : HW) : State :=
  let en := s.flag R.CX_STASH_CTL_EN c
  let en' := s.after w R.CX_STASH_CTL_EN c == 1
  let s := s.puts w stashFree c
  if en then
    if en' || (s.cx c).stash.entries.any (fun e => e.state != .empty) then s.settle
    else (s.setFlag R.CX_STASH_CTL_EN false c).settle
  else
    let s := s.puts w stashFixed c
    if en' && s.cxLive c then (stashOn s c).settle else s

/-- STASH_ENABLE: the write that changes EN from 0 to 1. -/
def execStashEnable (cx : Fin 16) (v : Word) (s : State) : Host.Outcome State Fault Refusal :=
  .next (s.hostGate .CX cx R.CX_STASH_CTL_EN.off fun s =>
    if s.flag R.CX_STASH_CTL_EN cx || !(hw8 v.toNat).one R.CX_STASH_CTL_EN then s else stashCtlWrite s cx (hw8 v.toNat))

end Sys2Proof.Machine
end

