-- ==== Sys2Proof/Machine/Contexts.lean ====
section
/-! DEFINITION. The life of a context: creation, destruction, residency, translation invalidation, and the ends of parks
and restores (R277 to R295). -/

namespace Sys2Proof.Machine

-- Creation (R278).

/-- A near-tier region lies in the domain of a context's partition; an empty one does. -/
def State.regionIn (s : State) (c base pages : Nat) : Bool :=
  pages == 0 || s.inDomain (s.rd R.CX_MEMPART_PART c) base (pageBytes * pages)

/-- A slow-tier region lies in the populated slow tier; an empty one does. -/
def State.regionSlow (s : State) (base pages : Nat) : Bool := pages == 0 || s.inSlow base (pageBytes * pages)

/-- Take area, stash regions and shadow pools of a context: first address and bytes. -/
def State.regions (s : State) (c : Nat) : List (Nat × Nat) :=
  [(s.rdAddr R.CX_TAKE_BASE c, pageBytes * s.rd R.CX_TAKE_PAGES c),
   (s.rdAddr R.CX_STASH_NEAR_BASE c, pageBytes * s.rd R.CX_STASH_NEAR_PAGES c),
   (s.rdAddr R.CX_STASH_POOL_BASE c, pageBytes * s.rd R.CX_STASH_POOL_PAGES c),
   (s.rdAddr R.CX_SHADOW_NEAR_BASE c, pageBytes * s.rd R.CX_SHADOW_NEAR_PAGES c),
   (s.rdAddr R.CX_SHADOW_SLOW_BASE c, pageBytes * s.rd R.CX_SHADOW_SLOW_PAGES c)]

/-- The regions of a context with its rushes spill region. -/
def State.allRegions (s : State) (c : Nat) : List (Nat × Nat) :=
  s.regions c ++ [(s.rdAddr R.CX_RUSH_SPILL_BASE c, pageBytes * s.rd R.CX_RUSH_SPILL_PAGES c)]

/-- A region of context `c` overlaps one of another context that is not FREE. -/
def State.regionClash (s : State) (c : Nat) : Bool :=
  (List.range 16).any fun d => d != c && s.cxState d != 0 &&
    (s.regions c).any fun a => (s.allRegions d).any fun b => overlaps a.1 a.2 b.1 b.2

/-- The scratch share lies in frames 0 to 127, with at most 64 frames unless NOPREEMPT is 1. -/
def State.scratchOk (s : State) (c : Nat) : Bool :=
  decide (s.rd R.CX_SCRATCH_BASE c + s.rd R.CX_SCRATCH_PAGES c ≤ 128) &&
    (s.flag R.CX_CTL_NOPREEMPT c || decide (s.rd R.CX_SCRATCH_PAGES c ≤ 64))

/-- The creation checks in their order: the code of the first that fails, 0 where all pass. -/
def State.createCheck (s : State) (c : Nat) : Nat :=
  if s.rd R.NT_CFG_PARTS ≤ s.rd R.CX_MEMPART_PART c then 1
  else if !s.inDomain (s.rd R.CX_MEMPART_PART c) (s.rdAddr R.CX_PT_ROOT c) 32768 then 2
  else if !s.scratchOk c then 3
  else if s.rd R.CX_TAKE_PAGES c < 42 + s.rd R.CX_SCRATCH_PAGES c ∨
      s.regionIn c (s.rdAddr R.CX_TAKE_BASE c) (s.rd R.CX_TAKE_PAGES c) = false then 4
  else if !(s.regionIn c (s.rdAddr R.CX_STASH_NEAR_BASE c) (s.rd R.CX_STASH_NEAR_PAGES c) &&
      s.regionIn c (s.rdAddr R.CX_SHADOW_NEAR_BASE c) (s.rd R.CX_SHADOW_NEAR_PAGES c) &&
      s.regionSlow (s.rdAddr R.CX_STASH_POOL_BASE c) (s.rd R.CX_STASH_POOL_PAGES c) &&
      s.regionSlow (s.rdAddr R.CX_SHADOW_SLOW_BASE c) (s.rd R.CX_SHADOW_SLOW_PAGES c)) then 5
  else if !s.regionIn c (s.rdAddr R.CX_RUSH_SPILL_BASE c) (s.rd R.CX_RUSH_SPILL_PAGES c) then 6
  else if s.regionClash c then 7
  else 0

/-- Fields of a context that a creation clears: the fault fields (R446), and what is kept since creation. -/
def createCleared : List Fld :=
  [R.CX_STATUS_CREATE_ERR, R.CX_STATUS_FAULT_CODE, R.CX_STATUS_FAULT_SP, R.CX_STATUS_WAIT_DEAD, R.CX_STATUS_SWITCHES,
   R.CX_FAULT_ADDR, R.CX_FAULT_REASON, R.CX_NUMERIC_PIM_ACTIVE, R.CX_NUMERIC_PIM_REFUSED, R.CX_LEARN_S,
   R.CX_LEARN_CLEAN_RUN, R.CX_LEARN_SKIPS, R.CX_VERDICT_MARK_CUR, R.CX_VERDICT_MARK_NEXT, R.CX_VERDICT_LAST_SKIP,
   R.CX_VERDICT_LAST_STEP]

/-- A pool of frames from a region. -/
def poolOf (base pages : Nat) : Pool := if pages = 0 then [] else [(base, pages)]

/-- A context as a creation leaves it: PARKED with an empty take (R288); its semaphores stand in the store with the values
they had (log entry 22). A stash table that is still enabled stays. -/
def makeCx (s : State) (c : Nat) : State :=
  let im := s.semImage c
  let s := createCleared.foldl (fun s f => s.wr f 0 c) s
  let s := (s.boundSps c).foldl (fun s n => s.updSp n fun u => { u with step := none, halted := false }) s
  let s := s.updCx c fun x =>
    { stash := x.stash, ckpt := x.ckpt, 
      poolNear := poolOf (s.rdAddr R.CX_SHADOW_NEAR_BASE c) (s.rd R.CX_SHADOW_NEAR_PAGES c),
      poolSlow := poolOf (s.rdAddr R.CX_SHADOW_SLOW_BASE c) (s.rd R.CX_SHADOW_SLOW_PAGES c) }
  let s := s.pwrite (0x1000 + s.rdAddr R.CX_TAKE_BASE c) im
  (s.wr R.CX_STATUS_STATE 1 c).dropTranslations c

/-- CREATE: the checks, and the creation they allow (R278). -/
def createCx (s : State) (c : Nat) : State :=
  if s.cxState c != 0 then s else
  let k := s.createCheck c
  if k = 0 then makeCx s c else s.wr R.CX_STATUS_CREATE_ERR k c

-- Destruction (R295).

/-- Free the cast-table entries and the KV reservations of a context. -/
def State.freeCast (s : State) (c : Nat) : State :=
  { s with cast := (s.cast.filter fun e => e.cx != c).map fun e => if e.scx = c then { e with sres := false, spages := [] } else e }

/-- Waits of other contexts that name a destroyed context set WAIT_DEAD. -/
def State.markDead (s : State) (c : Nat) : State :=
  (List.range 16).foldl (fun s x => if x != c && s.waitsOn x c then s.setFlag R.CX_STATUS_WAIT_DEAD true x else s) s

/-- DESTROY (R295). Its checkpoint engine ends with it: EN and the generations return to zero, and what a teardown still kept is
dropped (R318; log entry 40). -/
def destroyCx (s : State) (c : Nat) : State :=
  if s.cxState c == 0 then s else
  let s := s.faultCx c { code := 9 }
  let s := s.freeCast c
  let s := s.updCx c fun x => { x with ckpt := {} }
  let s := [R.CX_CKPT_CTL_EN, R.CX_CKPT_STAT_GEN, R.CX_CKPT_STAT_SEALED].foldl (fun s f => s.wr f 0 c) s
  (s.wr R.CX_STATUS_STATE 0 c).markDead c

-- CXn.CTL.

/-- A host write to CXn.CTL: DESTROY, then the fields, then XLT_INV and CREATE (log entry 23). CLASS and NOPREEMPT are
fixed while the context exists (R277). -/
def cxCtlWrite (s : State) (c : Nat) (w : HW) : State :=
  let s := if w.one R.CX_CTL_DESTROY then destroyCx s c else s
  let s := if s.cxState c == 0 then s.puts w [R.CX_CTL_CLASS, R.CX_CTL_NOPREEMPT] c else s
  let s := s.puts w [R.CX_CTL_RUN, R.CX_CTL_AT_POINT, R.CX_CTL_PRIO, R.CX_CTL_VECTOR] c
  let s := if w.one R.CX_CTL_XLT_INV then s.setFlag R.CX_STATUS_INV_BUSY true c else s
  let s := if w.one R.CX_CTL_CREATE then createCx s c else s
  s.settle

/-- A host write to CXn.CTL as a command of the table. -/
def ctlCommand (cx : Fin 16) (v : Word) (f : Fld) (s : State) : State :=
  s.hostGate .CX cx R.CX_CTL_RUN.off fun s => if (hw8 v.toNat).one f then cxCtlWrite s cx (hw8 v.toNat) else s

/-- CREATE. -/
def execCreate (cx : Fin 16) (v : Word) (s : State) : Host.Outcome State Fault Refusal :=
  .next (ctlCommand cx v R.CX_CTL_CREATE s)

/-- DESTROY. -/
def execDestroy (cx : Fin 16) (v : Word) (s : State) : Host.Outcome State Fault Refusal :=
  .next (ctlCommand cx v R.CX_CTL_DESTROY s)

/-- RUN: a write of RUN or PRIO (R282). -/
def execRun (cx : Fin 16) (v : Word) (s : State) : Host.Outcome State Fault Refusal :=
  .next (s.hostGate .CX cx R.CX_CTL_RUN.off fun s => cxCtlWrite s cx (hw8 v.toNat))

/-- XLT_INV (R280). -/
def execXltInv (cx : Fin 16) (v : Word) (s : State) : Host.Outcome State Fault Refusal :=
  .next (ctlCommand cx v R.CX_CTL_XLT_INV s)

/-- The discard of a context's translations ends (R280). -/
def invDone (s : State) (c : Nat) : State :=
  if s.flag R.CX_STATUS_INV_BUSY c && s.live then (s.dropTranslations c).setFlag R.CX_STATUS_INV_BUSY false c else s

/-- INVALIDATION_DONE. -/
def execInvalidationDone (cx : Fin 16) (s : State) : Host.Outcome State Fault Refusal := .next (invDone s cx)

-- The end of a park (R284 to R288).

/-- A STREAM or WGRAD in progress stands at a multiple of 512 entered rows, or waits on every array it has rows for
(R286). -/
def State.streamStopped (s : State) (x : Cmd) : Bool :=
  x.pos % 512 == 0 || x.arrays.all fun a =>
    !x.rowsLeft a || (match s.nextEntering a with
      | some y => y.id != x.id || !s.rowReady x a || (match s.enterRow a x (x.nextRow a) with | .wait => true | _ => false)
      | none => true)

/-- Every pre-emptible command of a context has reached its point. -/
def State.cmdsStopped (s : State) (c : Nat) : Bool :=
  (s.cmds.filter fun x => x.cx == c && preemptible (opc x.w)).all (fun x =>
    x.phase != .finished && ((opc x.w != 2 && opc x.w != 3) || s.streamStopped x)) &&
  (List.range 8).all fun a => (s.arr a).flight.all fun f => f.cx != c

/-- The take sequencer writes the take of context `c` now: no restore runs, and no park decided before it (R284). -/
def State.parkTurn (s : State) (c : Nat) : Bool :=
  (List.range 16).all fun d => d == c || (s.cxState d != 2 &&
    (s.cxState d != 4 || decide ((s.cx c).parkAt < (s.cx d).parkAt) || ((s.cx c).parkAt == (s.cx d).parkAt && decide (c < d))))

/-- A load in progress is abandoned: its slot is EMPTY and it will be issued again (R103, R286). -/
def State.abandonLoad (s : State) (x : Cmd) : State :=
  let s := x.arrays.foldl (fun s a => s.updArr a fun r => r.setSlot x.slot {}) s
  let s := s.updCx x.cx fun c => { c with binds := c.binds.map fun b => if b.load = x.id then { b with slot := 2 } else b }
  { s with cmds := s.cmds.map fun y => if y.id = x.id then { y with phase := .queued, slot := 2 }
      else if y.source = x.id ∧ y.cx = x.cx then { y with slot := 2 } else y }

/-- The number under which a take keeps a slot: 3 or 4 for slot 0 or 1, further ones for images that an earlier restore
had not reloaded. -/
def savedSlot (k : Nat) : Nat := if k < 2 then 3 + k else if k = 2 then 2 else k + 2

/-- The tiles of the slots that a context pins, by arrays and slot. -/
def State.pinnedTiles (s : State) (c : Nat) (cmds : List Cmd) : List SavedTile :=
  let named := ((s.cx c).binds.map fun b => (b.arrays, b.slot)) ++ cmds.map fun x => (x.arrays, x.slot)
  (dedup (named.filter fun p => decide (p.2 < 2))).filterMap fun p => match p.1 with
    | [] => none
    | a :: _ => some ⟨p.1, p.2, ((s.arr a).slot p.2).tile⟩

/-- The parts of a take that have no byte layout. -/
def State.takeOf (s : State) (c : Nat) : Take :=
  let cmds := s.cmds.filter fun x => x.cx == c && preemptible (opc x.w)
  { empty := false,
    cmds := cmds.map fun x => { x with slot := savedSlot x.slot },
    binds := (s.cx c).binds.map fun b => { b with slot := savedSlot b.slot },
    tiles := s.pinnedTiles c cmds ++ (s.cx c).tiles.map fun t => { t with slot := t.slot + 2 },
    rings := ((List.range 8).flatMap fun a => ((s.arr a).ring.filter fun r => r.cx == c).map fun r => (a, r)) ++ (s.cx c).rings }

/-- Address and bytes of the scratch share, and of its copy in the take area (R288). -/
def State.shareBase (s : State) (c : Nat) : Nat := scratchBase + pageBytes * s.rd R.CX_SCRATCH_BASE c

/-- Bytes of the scratch share. -/
def State.shareBytes (s : State) (c : Nat) : Nat := pageBytes * s.rd R.CX_SCRATCH_PAGES c

/-- The copy of the scratch share in the take area. -/
def State.shareCopy (s : State) (c : Nat) : Nat := 0x5400000 + s.rdAddr R.CX_TAKE_BASE c

/-- Write the take: commands, bindings, tiles, ring rows and the scratch share leave the die. -/
def writeTake (s : State) (c : Nat) : State :=
  let s := (s.cmds.filter fun x => x.cx == c && opc x.w == 1 && x.phase == .running).foldl (fun s x => s.abandonLoad x) s
  let t := s.takeOf c
  let s := s.updCx c fun x => { x with take := t, binds := [], rings := [], tiles := [] }
  let s := { s with cmds := s.cmds.filter fun x => !(x.cx == c && preemptible (opc x.w)) }
  let s := (List.range 8).foldl (fun s a => s.updArr a fun r => { r with ring := r.ring.filter fun q => q.cx != c }) s
  let s := t.tiles.foldl (fun s q => q.arrays.foldl (fun s a => s.leaveSlot a (q.slot % 2)) s) s
  s.pcopy (s.shareBase c) (s.shareBytes c) (s.shareCopy c)

/-- The take of a PARKING context is written, and the context is PARKED (R281, R288). -/
def takeDone (s : State) (c : Nat) : State :=
  if !s.live || s.cxState c != 4 || !s.parkTurn c || !s.cmdsStopped c then s else
  let s := writeTake s c
  let s := s.wr R.CX_STATUS_STATE 1 c
  let s := s.bump R.CX_STATUS_SWITCHES 1 c
  ((s.count 0x080 0xFF c 1).rush 4 c 0 0 0 0 0).settle

/-- TAKE_WRITTEN. -/
def execTakeWritten (cx : Fin 16) (s : State) : Host.Outcome State Fault Refusal := .next (takeDone s cx)

-- The end of a restore (R290).

/-- An uncorrectable block in the part of a take that a restore reads first. -/
def State.takeBad (s : State) (c : Nat) : Option Nat :=
  if (s.cx c).take.empty then none else
  match s.badIn (s.rdAddr R.CX_TAKE_BASE c) 0x60000 with
  | some b => some b
  | none => s.badIn (s.shareCopy c) (s.shareBytes c)

/-- Read the control part and the scratch share of a take: an empty take writes zero to the share (R288, R290). -/
def readTake (s : State) (c : Nat) : State :=
  let t := (s.cx c).take
  let s := if t.empty then s.pzero (s.shareBase c) (s.shareBytes c)
    else s.pcopy (s.shareCopy c) (s.shareBytes c) (s.shareBase c)
  let s := s.semLoad c
  let s := s.updCx c fun x => { x with binds := t.binds, rings := t.rings, tiles := t.tiles, take := {}, resident := true }
  { s with cmds := s.cmds ++ t.cmds }

/-- The control state and the scratch share are restored, and the context is RESIDENT: wait records are evaluated again,
and what the take still holds reloads as room appears (R290). -/
def controlDone (s : State) (c : Nat) : State :=
  if !s.live || s.cxState c != 2 then s else
  match s.takeBad c with
  | some b => (s.faultCx c (uncorrectable b b)).settle
  | none =>
    let s := readTake s c
    let s := s.wr R.CX_STATUS_STATE 3 c
    let s := (s.count 0x081 0xFF c 1).rush 4 c 0 0 0 0 0
    ((s.boundSps c).foldl (fun s n => s.pollVersion n) s).settle

/-- CONTROL_RESTORED. -/
def execControlRestored (cx : Fin 16) (s : State) : Host.Outcome State Fault Refusal := .next (controlDone s cx)

end Sys2Proof.Machine
end

