-- ==== Sys2Proof/Machine/Ckpt.lean ====
section
/-! DEFINITION. Checkpoints: the list, the gate, the sweep, sealing, and the operations of the driver (R308 to R329). -/

namespace Sys2Proof.Machine

-- The image and the parity group (R309, R315).

/-- The frames of the image at this moment: the committed frame of each page of the PARITY ranges, and zero pages up to
IMG_PAGES. -/
def State.imageNow (s : State) (c : Nat) : Res (List (Option Nat)) :=
  let vs := (s.cx c).ckpt.pages true
  (Res.mapM (fun va => (s.walk c va).bind fun p => .ok (some p.frame)) vs).bind fun fs =>
    .ok (fs ++ List.replicate (s.rd R.CX_CKPT_PAR_IMG_PAGES c - vs.length) none)

/-- Pages of a stripe. -/
def State.stripePages (s : State) (c : Nat) : Nat := s.stripeBytes c / pageBytes

/-- The send of image page `i` into slot `k` of its holder (R315, R316). The holder's window is taken to begin where the
member's own does (log entry 41). -/
def State.imageSend (s : State) (c k i : Nat) (frame : Option Nat) : CkSend :=
  let x := (s.cx c).ckpt
  let sp := s.stripePages c
  let h := (x.rank + 1 + i / sp) % x.group.length
  let hold := nth (0, 0) x.group h
  { kind := .parity, dev := hold.1, cx := hold.2, frame := frame, page := i,
    addr := s.rdAddr R.CX_CKPT_HOLD_BASE c + pageBytes * (k * sp + i % sp) }

/-- The holder of image page `i`. -/
def State.holderOf (s : State) (c i : Nat) : Nat :=
  ((s.cx c).ckpt.rank + 1 + i / s.stripePages c) % (s.cx c).ckpt.group.length

/-- Sends of the image pages whose holder a test picks, in ascending order. -/
def State.imageSends (s : State) (c k : Nat) (fs : List (Option Nat)) (p : Nat → Bool) : List CkSend :=
  ((List.range fs.length).zip fs).filterMap fun q => if p (s.holderOf c q.1) then some (s.imageSend c k q.1 q.2) else none

/-- Zero a parity slot of a holder: its window must be mapped (R316, R319). -/
def State.zeroSlot (s : State) (c k : Nat) : Res State :=
  (Res.fold (fun (s : State) (q : Nat × Nat) =>
    (s.writeAt c q.1 .plain).bind fun r => .ok (r.1.pzero r.2 q.2)) s
      (pieces (s.rdAddr R.CX_CKPT_HOLD_BASE c + k * s.stripeBytes c) (s.stripeBytes c))).bind fun s =>
  .ok (s.updCkpt c fun x => if k = 0 then { x with got0 := 0 } else { x with got1 := 0 })

/-- Join a barrier on the parity accord (R319). -/
def State.ckptBarrier (s : State) (c : Nat) (ready : Bool) : State :=
  match s.readAccord c (s.rd R.CX_CKPT_PAR_ACCORD c) with
  | .ok a =>
    let id := s.nextColl
    let s := s.updCkpt c fun x => { x with sealing := if ready then 3 else 1 }
    let s := s.openColl { id := 0, cmd := none, cx := c, acc := a, seq := 0, op := .barrier, ready5 := ready }
    match s.colls.find? fun k => k.id == id with
    | some k => s.enterColl k
    | none => s
  | .fault k => s.faultCx c k
  | .wait => s

/-- Zero parity slots and run a ready barrier; without a parity group there is nothing to do (R319). -/
def State.readySlots (s : State) (c : Nat) (ks : List Nat) : State :=
  if (s.cx c).ckpt.group.isEmpty then s.readyBarrierDone c else
  match Res.fold (fun (s : State) k => s.zeroSlot c k) s ks with
  | .ok s => (s.updCkpt c fun x => { x with readyOk := false }).ckptBarrier c true
  | .fault k => s.faultCx c k
  | .wait => s

-- EN (R309).

/-- A checkpoint list entry: BASE, PAGES, PARITY; none where it fails a check that needs no other entry. -/
def State.listEntry (s : State) (c v : Nat) : Option (Nat × Nat × Bool) :=
  let base := bitsAt v 0 48
  let n := bitsAt v 64 32
  let par := bitAt v 96
  if bitsAt v 48 16 != 0 || bitsAt v 97 31 != 0 || base % pageBytes != 0 || n == 0 || (par && decide (n < 32)) then none
  else if decide (2 ^ 27 < n) then none
  else if (List.range n).all fun i => match s.walk c (base + pageBytes * i) with
    | .ok p => p.cow
    | _ => false
  then some (base, n, par) else none

/-- The checkpoint list as it is read and checked entry by entry: the ranges, or the first failing entry. -/
def State.readList (s : State) (c : Nat) : List Nat → List (Nat × Nat × Bool) → Except Nat (List (Nat × Nat × Bool))
  | [], rs => .ok rs
  | i :: t, rs =>
    match s.vreadNat c (s.rdAddr R.CX_CKPT_LIST_BASE c + 16 * i) 16 with
    | .ok v =>
      match s.listEntry c v with
      | none => .error i
      | some r =>
        if rs.any fun q => overlaps q.1 (pageBytes * q.2.1) r.1 (pageBytes * r.2.1) then .error i
        else if r.2.2 && decide (s.rd R.CX_CKPT_PAR_IMG_PAGES c <
            (((rs ++ [r]).filter fun q => q.2.2).map fun q => q.2.1).foldl (· + ·) 0) then .error i
        else s.readList c t (rs ++ [r])
    | _ => .error i

/-- GATE_SEM as R206 forbids it. -/
def State.gateSemBad (s : State) (c : Nat) : Bool :=
  let m := s.rd R.CX_CKPT_CTL_GATE_SEM c
  let h := s.rd R.CX_PRINTS_HOLD_SEM c
  (s.flag R.CX_STASH_CTL_EN c && s.flag R.CX_STASH_CTL_ADMIT_EN c && s.rd R.CX_STASH_CTL_ADMIT_SEM c == m) ||
    (s.isLearn c && decide (h ≤ m) && decide (m < h + 4))

/-- The list is refused: EN stays 0 (R309). -/
def State.listRefused (s : State) (c i : Nat) : State :=
  (s.setFlag R.CX_CKPT_OPSTAT_LIST_ERR true c).wr R.CX_CKPT_OPSTAT_ERR_ENTRY i c

/-- The parity group as R315 asks: DIRECT, 4 to 16 members, IMG_PAGES a multiple of G − 1. -/
def State.groupOk (s : State) (c : Nat) (a : Accord) : Bool :=
  a.shape == 0 && decide (4 ≤ a.members.length) && decide (a.members.length ≤ 16) &&
    s.rd R.CX_CKPT_PAR_IMG_PAGES c % (a.members.length - 1) == 0

/-- Append every journaled page once with GEN 0 (R321). -/
def State.appendAll (s : State) (c : Nat) : State :=
  let vs := (s.cx c).ckpt.pages false
  ((List.range vs.length).zip vs).foldl (fun s q => match s.walk c q.2 with
    | .ok p => s.appendPage c q.1 p.frame 0 0
    | _ => s) s

/-- The engine begins with a list that has passed its checks and, for a PARITY range, with its group. -/
def State.ckptStart (s : State) (c : Nat) (rs : List (Nat × Nat × Bool)) (a : Option Accord) : State :=
  let s := (s.setFlag R.CX_CKPT_CTL_EN true c).setFlag R.CX_CKPT_OPSTAT_LIST_ERR false c
  let s := s.wr R.CX_CKPT_OPSTAT_ERR_ENTRY 0 c
  let s := s.updCkpt c fun x =>
    { x with ranges := rs, group := (a.map (·.members)).getD [], rank := (a.map (·.rank)).getD 0, slots := [], readyOk := false }
  ((s.appendAll c).kickSends c).readySlots c [0, 1]

/-- EN changes from 0 to 1: the list is checked, and taken or refused (R309, R319, R321). -/
def ckptOn (s : State) (c : Nat) : State :=
  match s.readList c (List.range (s.rd R.CX_CKPT_CTL_LIST_COUNT c)) [] with
  | .error i => s.listRefused c i
  | .ok rs =>
    if s.gateSemBad c then s.listRefused c 0xFFF
    else if rs.any fun q => q.2.2 then
      match s.readAccord c (s.rd R.CX_CKPT_PAR_ACCORD c) with
      | .ok a => if s.groupOk c a then s.ckptStart c rs (some a) else s.faultCx c illegal
      | .fault k => s.faultCx c k
      | .wait => s
    else s.ckptStart c rs none

/-- A generation of the context is not sealed. -/
def State.unsealed (s : State) (c : Nat) : Bool :=
  s.rd R.CX_CKPT_STAT_GEN c != s.rd R.CX_CKPT_STAT_SEALED c || (s.cx c).ckpt.sealing != 0

/-- Fields of CKPT_CTL other than EN. -/
def ckptCtlFields : List Fld :=
  [R.CX_CKPT_CTL_GATE_SEM, R.CX_CKPT_CTL_LIST_COUNT, R.CX_CKPT_CTL_BIND_COUNT, R.CX_CKPT_CTL_VCOUNT]

/-- A host write to CKPT_CTL of a context (R309, R329). -/
def ckptCtlWrite (s : State) (c : Nat) (w : HW) : State :=
  let en' := s.after w R.CX_CKPT_CTL_EN c == 1
  if s.flag R.CX_CKPT_CTL_EN c then
    if en' || s.unsealed c then s else s.setFlag R.CX_CKPT_CTL_EN false c
  else
    let s := s.puts w ckptCtlFields c
    if en' && s.cxLive c then (ckptOn s c).settle else s

/-- CHECKPOINT_ENABLE: the write that changes EN from 0 to 1. -/
def execCheckpointEnable (cx : Fin 16) (v : Word) (s : State) : Host.Outcome State Fault Refusal :=
  .next (s.hostGate .CX cx R.CX_CKPT_CTL_EN.off fun s =>
    if s.flag R.CX_CKPT_CTL_EN cx || !(hw8 v.toNat).one R.CX_CKPT_CTL_EN then s else ckptCtlWrite s cx (hw8 v.toNat))

-- The schedule record (R312, R313, R323).

/-- A binding: the address of a RAND record, PER_POS, BASE (R323). -/
def State.readBinding (s : State) (c i : Nat) : Res (Nat × Nat × Nat) :=
  (s.vreadNat c (s.rdAddr R.CX_CKPT_BIND_BASE c + 32 * i) 32).bind fun v => .ok (bitsAt v 0 48, bitsAt v 64 64, bitsAt v 128 64)

/-- The bindings of a context. -/
def State.bindings (s : State) (c : Nat) : Res (List (Nat × Nat × Nat)) :=
  Res.mapM (fun i => s.readBinding c i) (List.range (s.rd R.CX_CKPT_CTL_BIND_COUNT c))

/-- The DRAW that a binding expects at a data position. -/
def drawAt (b : Nat × Nat × Nat) (pos : Nat) : Nat := (b.2.2 + b.2.1 * pos) % 2 ^ 64

/-- The fields of the last CONVGEN at their places of the command (R114). -/
def convBits (v : Conv) : Nat :=
  v.inH + v.inW * 2 ^ 16 + v.kh * 2 ^ 32 + v.kw * 2 ^ 36 + v.sh * 2 ^ 40 + v.sw * 2 ^ 44 + v.dh * 2 ^ 48 + v.dw * 2 ^ 52 +
    v.pt * 2 ^ 56 + v.pb * 2 ^ 60 + v.pl * 2 ^ 64 + v.pq * 2 ^ 68 + v.uh * 2 ^ 72 + v.uw * 2 ^ 76

/-- The record of a stream processor, zero for one that is not bound to the context. -/
def State.spRecord (s : State) (c n : Nat) : List Byte :=
  if s.rd R.SP_RING_CTL_CX n != c then List.replicate 64 0 else
  let u := s.sp n
  leBytes 4 (s.rd R.SP_PTRS_HEAD n) ++ leBytes 4 (u.step.getD 0) ++ leBytes 18 ((u.conv.map convBits).getD 0) ++
    leBytes 1 (bitOf u.conv.isSome) ++ List.replicate 37 0

/-- Entries of the stash table that a record copies. -/
def State.stashCopied (s : State) (c : Nat) : Nat := if s.flag R.CX_STASH_CTL_EN c then (s.cx c).stash.entries.length else 0

/-- The version entries of the version list (R312). -/
def State.versionEntries (s : State) (c : Nat) : Res (List (List Byte)) :=
  Res.mapM (fun i => (s.vreadNat c (s.rdAddr R.CX_CKPT_VLIST_BASE c + 4 * i) 4).bind fun w =>
    let t := w % 2 ^ 24
    (s.vreadNat c (s.versionAddr c t) 8).bind fun v => .ok (leBytes 4 t ++ leBytes 4 v)) (List.range (s.rd R.CX_CKPT_CTL_VCOUNT c))

/-- The fixed fields of the header, but for the CRC: what stands before the data position. -/
def State.recordHead (s : State) (c gen : Nat) (fail : Bool) : List Byte :=
  leBytes 4 gen ++ leBytes 4 0 ++ leBytes 8 (s.rd R.CX_SEED c) ++ leBytes 1 (s.rd R.CX_LEARN_S c) ++
    leBytes 2 (s.rd R.CX_LEARN_CLEAN_RUN c) ++ leBytes 2 (s.rd R.CX_LEARN_SKIPS c) ++
    leBytes 1 (s.rd R.CX_NUMERIC_PIM_ACTIVE c + 2 * s.rd R.CX_VERDICT_MARK_CUR c + 4 * s.rd R.CX_VERDICT_MARK_NEXT c +
      8 * bitOf fail) ++ leBytes 2 0 ++ leBytes 4 (s.rd R.CX_VERDICT_LAST_STEP c) ++ leBytes 4 (s.cx c).stash.admitted

/-- The schedule record with its CRC field zero, and whether a binding is off its position (R312, R323). -/
def State.recordBody (s : State) (c gen : Nat) : Res (List Byte × Bool) :=
  (s.vreadNat c (s.rdAddr R.CX_CKPT_DPOS_ADDR c) 8).bind fun pos =>
  (s.bindings c).bind fun bs =>
  (Res.mapM (fun (b : Nat × Nat × Nat) => s.vreadNat c b.1 16) bs).bind fun draws =>
  let fail := (bs.zip draws).any fun q => drawAt q.1 pos != q.2 % 2 ^ 64
  let k := s.stashCopied c
  (s.vread c (s.rdAddr R.CX_STASH_TABLE_BASE c) (32 * k)).bind fun table =>
  (s.versionEntries c).bind fun vs =>
  let es := s.castOfCx c
  .ok (s.recordHead c gen fail ++ leBytes 8 pos ++ leBytes 4 k ++ leBytes 4 vs.length ++ leBytes 2 es.length ++
      leBytes 2 bs.length ++ List.replicate 204 0 ++ ((List.range 256).flatMap fun i => leBytes 8 (s.sem c i)) ++
      ((List.range 32).flatMap fun n => s.spRecord c n) ++
      (draws.flatMap fun d => leBytes 12 d ++ leBytes 4 0) ++ List.replicate (16 * (1024 - bs.length)) 0 ++
      table ++ vs.flatten ++ es.flatMap CastEntry.bytes, fail)

/-- A record with its CRC: CRC-32C of the record with the field read as zero. -/
def withCrc (bs : List Byte) : List Byte := bs.take 4 ++ leBytes 4 (crc32c bs) ++ bs.drop 8

/-- The record slot of a generation in the checkpoint area. -/
def State.recordSlot (s : State) (c g : Nat) : Nat := s.rdAddr R.CX_CKPT_AREA_BASE c + 0x400000 * (g % 2)

/-- The snapshot table of a generation in the checkpoint area: after the record slots, 8 bytes a page (log entry 42). -/
def State.tableAddr (s : State) (c g : Nat) : Nat :=
  0x800000 + s.rdAddr R.CX_CKPT_AREA_BASE c + g % 2 * (pageBytes * ceilDiv (s.rd R.CX_CKPT_PAR_IMG_PAGES c) 262144)

-- The gate (R310).

/-- A stream processor stands at the gate of generation `g`: idle, or its last command waits for it. -/
def State.atGate (s : State) (c g n : Nat) : Bool :=
  match (s.sp n).wait with
  | some (.sem o i v _ _) => o == c && i == s.rd R.CX_CKPT_CTL_GATE_SEM c && v == g
  | some _ => false
  | none => s.rd R.SP_PTRS_HEAD n == s.rd R.SP_PTRS_TAIL n

/-- The commands of a context that have not completed are the waits at the gate. -/
def State.drained (s : State) (c : Nat) : Bool :=
  s.cmds.all fun x => x.cx != c || (s.sp x.sp).waitCmd == some x.id

/-- The conditions of the snapshot instant of generation g + 1 hold (R310). -/
def State.gateOpen (s : State) (c : Nat) : Bool :=
  let g := s.rd R.CX_CKPT_STAT_GEN c
  s.live && s.cxLive c && s.flag R.CX_CKPT_CTL_EN c &&
    ((s.boundSps c).filter fun n => s.flag R.SP_RING_CTL_EN n).all (fun n => s.atGate c (g + 1) n) && s.drained c &&
    (s.cx c).shadows.isEmpty && ((s.cx c).stash.entries.all fun e => e.state == .empty) &&
    s.rd R.CX_CKPT_STAT_SEALED c == g && (s.cx c).ckpt.readyOk && (s.cx c).ckpt.sealing == 0

/-- What a snapshot instant does once the record and the image are known: GEN, the record, the snapshot table, the sends, the
gate semaphore (R310, R317, R321). -/
def State.snapshotTaken (s : State) (c : Nat) (rec : List Byte) (fail : Bool) (img : List (Option Nat)) : State :=
  let g := s.rd R.CX_CKPT_STAT_GEN c + 1
  let s := (s.wr R.CX_CKPT_STAT_GEN g c).setFlag R.CX_CKPT_OPSTAT_BIND_FAIL fail c
  let s := s.pwrite (s.recordSlot c g) rec
  let s := if img.isEmpty then s else s.pwrite (s.tableAddr c g) (img.flatMap fun f => leBytes 8 (f.getD 0))
  let send (q : Nat × Nat) : CkSend :=
    { kind := .record, dev := q.1, cx := q.2, addr := s.recordBase c + 0x400000 * (g % 2), frame := some (s.recordSlot c g),
      gen := g, bytes := rec.length }
  let sends := if (s.cx c).ckpt.group.isEmpty then [] else s.imageSends c (g % 2) img fun _ => true
  let recs := (s.jpeers c).map send
  let s := s.updCkpt c fun x =>
    let x := { x with sends := x.sends ++ sends, journal := x.journal ++ recs, readyOk := false }
    if g % 2 = 0 then { x with snap0 := img } else { x with snap1 := img }
  (s.kickSends c).setSem c (s.rd R.CX_CKPT_CTL_GATE_SEM c) g

/-- The snapshot instant. -/
def snapshotNow (s : State) (c : Nat) : State :=
  if !s.gateOpen c then s else
  match s.recordBody c (s.rd R.CX_CKPT_STAT_GEN c + 1), s.imageNow c with
  | .ok (body, fail), .ok img => (s.snapshotTaken c (withCrc body) fail img).settle
  | .fault k, _ => (s.faultCx c k).settle
  | _, .fault k => (s.faultCx c k).settle
  | _, _ => s

/-- SNAPSHOT_INSTANT. -/
def execSnapshotInstant (cx : Fin 16) (s : State) : Host.Outcome State Fault Refusal := .next (snapshotNow s cx)

-- Sealing (R319).

/-- The obligations of the generation being built are met: its sends are acknowledged, its own slot is complete, its record
and every append of an earlier generation have completed (R319, R321). -/
def State.locallyDone (s : State) (c : Nat) : Bool :=
  let x := (s.cx c).ckpt
  let g := s.rd R.CX_CKPT_STAT_GEN c
  let got := if g % 2 = 0 then x.got0 else x.got1
  s.flag R.CX_CKPT_CTL_EN c && s.rd R.CX_CKPT_STAT_SEALED c != g && x.sealing == 0 && x.sends.isEmpty &&
    (x.group.isEmpty || decide ((x.group.length - 1) * s.stripeBytes c ≤ got)) &&
    !x.journal.any fun k => k.kind == .record || decide (k.gen < g)

/-- The member joins the seal barrier; one without a PARITY range seals the generation. -/
def localNow (s : State) (c : Nat) : State :=
  if !s.live || !s.cxLive c || !s.locallyDone c then s
  else if (s.cx c).ckpt.group.isEmpty then ((s.sealed c).updCkpt c fun x => { x with readyOk := true }).settle
  else (s.ckptBarrier c false).settle

/-- LOCALLY_COMPLETE. -/
def execLocallyComplete (cx : Fin 16) (s : State) : Host.Outcome State Fault Refusal := .next (localNow s cx)

/-- The slot of the next generation has been zeroed, and the holder joins the ready barrier. -/
def zeroedNow (s : State) (c : Nat) : State :=
  if !s.live || !s.cxLive c || (s.cx c).ckpt.sealing != 2 then s
  else (s.readySlots c [(s.rd R.CX_CKPT_STAT_GEN c + 1) % 2]).settle

/-- SLOT_ZEROED. -/
def execSlotZeroed (cx : Fin 16) (s : State) : Host.Outcome State Fault Refusal := .next (zeroedNow s cx)

-- The operations (R324 to R326).

/-- An operation ends at once with a result. -/
def State.opResult (s : State) (c r : Nat) : State := s.wr R.CX_CKPT_OPSTAT_RESULT r c

/-- EXPORT: the map of the sealed generation. -/
def State.ckptExport (s : State) (c v : Nat) : State :=
  let x := (s.cx c).ckpt
  let g := bitsAt v 0 32
  if s.cxState c = 0 then s.opResult c 4
  else if bitsAt v 32 96 != 0 || bitsAt v 176 336 != 0 || g != s.rd R.CX_CKPT_STAT_SEALED c || g == 0 then s.opResult c 1
  else
    let img := x.snap g
    let ps := x.pages true
    let bytes := ((List.range img.length).zip img).flatMap fun q => leBytes 8 (nth 0 ps q.1) ++ leBytes 8 (q.2.getD 0)
    match s.vwrite c (bitsAt v 128 48) bytes with
    | .ok s => s.opResult c 0
    | _ => s.opResult c 1

/-- SEND_STRIPES: the stripes of the image as it stands, but for those of the member itself and of the lost rank. -/
def State.ckptSend (s : State) (c v : Nat) : State :=
  let x := (s.cx c).ckpt
  let lost := bitsAt v 32 16
  if (s.cxState c != 1 && s.cxState c != 3) || !s.flag R.CX_CKPT_CTL_EN c then s.opResult c 4
  else if bitsAt v 0 32 != 0 || bitsAt v 49 463 != 0 || decide (x.group.length ≤ lost) then s.opResult c 1
  else match s.imageNow c with
    | .ok img =>
      let out := s.imageSends c (bitsAt v 48 1) img fun h => h != x.rank && h != lost
      if out.isEmpty then s.opResult c 0
      else
        let s := s.setFlag R.CX_CKPT_OPSTAT_BUSY true c
        (s.updCkpt c fun x => { x with sends := x.sends ++ out, sendOp := true }).kickSends c
    | _ => s.opResult c 1

/-- Bytes of a record whose header is read: none where its counts pass the limits of R313. -/
def recordBytes (h : Nat) : Option Nat :=
  let st := bitsAt h 320 32
  let ve := bitsAt h 352 32
  let ca := bitsAt h 384 16
  let n := 0x5100 + 32 * st + 8 * ve + 64 * ca
  if st ≤ 65535 ∧ ve ≤ 65535 ∧ ca ≤ 8192 ∧ bitsAt h 400 16 ≤ 1024 ∧ n ≤ 0x400000 then some n else none

/-- Bytes `o` to `o + n − 1` of a record as a number. -/
def recNat (r : List Byte) (o n : Nat) : Nat := leNat ((r.drop o).take n)

/-- A record does not fit what it would be restored to (R324). -/
def State.mismatch (s : State) (c pos : Nat) (r : List Byte) (bs : List (Nat × Nat × Nat)) : Bool :=
  recNat r 32 8 != pos || recNat r 8 8 != s.rd R.CX_SEED c || bitAt (recNat r 21 1) 3 || recNat r 50 2 != bs.length ||
    ((List.range bs.length).zip bs).any fun q => recNat r (0x1100 + 16 * q.1) 8 != drawAt q.2 pos

/-- Restore the stream processors that are bound to a context (R326). -/
def State.restoreSps (s : State) (c : Nat) (r : List Byte) : State :=
  (s.boundSps c).foldl (fun s n =>
    let o := 0x900 + 64 * n
    let head := recNat r o 4
    let w : Packet := BitVec.ofNat 512 (recNat r (o + 8) 18 * 2 ^ 64)
    let s := (s.wr R.SP_PTRS_HEAD head n).wr R.SP_PTRS_TAIL head n
    s.updSp n fun u => { u with step := some (recNat r (o + 4) 4),
                                conv := if bitAt (recNat r (o + 26) 1) 0 then some (convOf w) else none }) s

/-- Restore S, the clean run, SKIPS, the marks, LAST_STEP and PIM (R326). -/
def State.restoreLearn (s : State) (c : Nat) (r : List Byte) : State :=
  let f := recNat r 21 1
  let last := recNat r 24 4
  let s := ((s.wr R.CX_LEARN_S (recNat r 16 1) c).wr R.CX_LEARN_S_INIT (recNat r 16 1) c).wr R.CX_LEARN_CLEAN_RUN (recNat r 17 2) c
  let s := (s.wr R.CX_LEARN_SKIPS (recNat r 19 2) c).wr R.CX_NUMERIC_PIM (bitsAt f 0 1) c
  let s := (s.wr R.CX_NUMERIC_PIM_ACTIVE (bitsAt f 0 1) c).wr R.CX_VERDICT_MARK_CUR (bitsAt f 1 1) c
  let s := (s.wr R.CX_VERDICT_MARK_NEXT (bitsAt f 2 1) c).wr R.CX_VERDICT_LAST_STEP last c
  s.updCx c fun x => { x with first := some (last + 1), oldest := last + 1, s0 := signedOf 8 (recNat r 16 1), closed := [], verdicts := [] }

/-- The memory that a restore writes: version entries, bound DRAWs, the data position. -/
def State.restoreMemory (s : State) (c pos : Nat) (r : List Byte) (bs : List (Nat × Nat × Nat)) : Res State :=
  let o := 0x5100 + 32 * recNat r 40 4
  (Res.fold (fun (s : State) i => s.vwriteNat c (s.versionAddr c (recNat r (o + 8 * i) 3)) 8 (recNat r (o + 8 * i + 4) 4)) s
    (List.range (recNat r 44 4))).bind fun s =>
  (Res.fold (fun (s : State) (q : Nat × Nat × Nat × Nat) => s.vwriteNat c q.2.1 8 (recNat r (0x1100 + 16 * q.1) 8)) s
    ((List.range bs.length).zip bs)).bind fun s =>
  s.vwriteNat c (s.rdAddr R.CX_CKPT_DPOS_ADDR c) 8 pos

/-- The acts of RESTORE (R326). -/
def State.restoreActs (s : State) (c g : Nat) (r : List Byte) : State :=
  let s := (List.range 256).foldl (fun s i => s.setSem c i (recNat r (0x100 + 8 * i) 4)) s
  let s := (s.restoreSps c r).restoreLearn c r
  let s := if s.flag R.CX_STASH_CTL_EN c then
      s.updCx c fun x => { x with stash := { x.stash with admitted := recNat r 28 4 } } else s
  let s := ((s.setFlag R.CX_CKPT_OPSTAT_BUSY true c).opResult c 0)
  ((s.wr R.CX_CKPT_STAT_GEN g c).wr R.CX_CKPT_STAT_SEALED g c).readySlots c [0, 1]

/-- RESTORE. -/
def State.ckptRestore (s : State) (c v : Nat) : State :=
  let g := bitsAt v 0 32
  let pos := bitsAt v 64 64
  let a := bitsAt v 128 48
  if s.cxState c != 1 || (s.cx c).resident || !s.flag R.CX_CKPT_CTL_EN c then s.opResult c 4
  else if bitsAt v 32 32 != 0 || bitsAt v 176 336 != 0 then s.opResult c 1
  else match s.vreadNat c a 256 with
    | .ok h =>
      match recordBytes h with
      | none => s.opResult c 3
      | some n =>
        match s.vread c a n, s.bindings c with
        | .ok r, .ok bs =>
          if crc32c (r.take 4 ++ leBytes 4 0 ++ r.drop 8) != recNat r 4 4 || recNat r 0 4 != g then s.opResult c 3
          else if s.mismatch c pos r bs then s.opResult c 2
          else match s.restoreMemory c pos r bs with
            | .ok s => s.restoreActs c g r
            | _ => s.opResult c 1
        | _, _ => s.opResult c 1
    | _ => s.opResult c 1

/-- A host write to CKPT_OP: an operation with the operand block at ADDR, ignored while one is running (R325). -/
def ckptOpWrite (s : State) (c : Nat) (w : HW) : State :=
  let op := (w.get R.CX_CKPT_OP_OP).getD 0
  let a := (w.get R.CX_CKPT_OP_ADDR).getD 0 * 64
  if s.flag R.CX_CKPT_OPSTAT_BUSY c || op == 0 then s
  else match s.vreadNat c a 64 with
    | .ok v =>
      if op = 1 then (s.ckptExport c v).settle
      else if op = 2 then (s.ckptSend c v).settle
      else if op = 3 then (s.ckptRestore c v).settle
      else s.opResult c 1
    | _ => s.opResult c (if s.cxState c = 0 then 4 else 1)

/-- A host write of an operation as a command of the table. -/
def opCommand (cx : Fin 16) (v : Word) (op : Nat) (s : State) : State :=
  s.hostGate .CX cx R.CX_CKPT_OP_OP.off fun s =>
    if (hw8 v.toNat).get R.CX_CKPT_OP_OP == some op then ckptOpWrite s cx (hw8 v.toNat) else s

/-- EXPORT. -/
def execCkptExport (cx : Fin 16) (v : Word) (s : State) : Host.Outcome State Fault Refusal := .next (opCommand cx v 1 s)

/-- SEND_STRIPES. -/
def execSendStripes (cx : Fin 16) (v : Word) (s : State) : Host.Outcome State Fault Refusal := .next (opCommand cx v 2 s)

/-- RESTORE. -/
def execRestore (cx : Fin 16) (v : Word) (s : State) : Host.Outcome State Fault Refusal := .next (opCommand cx v 3 s)

end Sys2Proof.Machine
end

