-- ==== Sys2Proof/Machine/Messages.lean ====
section
/-! DEFINITION. PUT and GET, and the frames of their messages (R144, R145, R252 to R256). -/

namespace Sys2Proof.Machine

-- The commands.

/-- DEV and RCX of PUT and GET: the target device and context. -/
def mvTarget (w : Packet) : Nat × Nat := (pkt w 96 16, pkt w 112 4)

/-- The checks of PUT at dispatch (R144, R251). -/
def prepPut (s : State) (x : Cmd) : Res Cmd :=
  (Res.check (rsvZero x.w [(72, 2), (83, 13), (116, 12), (264, 248)] && moverOk x.w && mvBytes x.w != 0 && s.seated) illegal).bind fun _ =>
  (s.touches x.cx [(mvSrc x.w, mvBytes x.w)] []).bind fun ts =>
  if s.moverFull x.w then .wait else .ok { x with stash := ts }

/-- The checks of GET at dispatch (R144, R251). -/
def prepGet (s : State) (x : Cmd) : Res Cmd :=
  (Res.check (rsvZero x.w [(70, 2), (74, 22), (116, 12), (264, 248)] && moverOk x.w && mvBytes x.w != 0 && s.seated) illegal).bind fun _ =>
  (s.touches x.cx [] [(mvDst x.w, mvBytes x.w)]).bind fun ts =>
  if s.moverFull x.w then .wait else .ok { x with stash := ts }

/-- Start a dispatched PUT, if the stash lets it: its source is read and its frames go to the ports (R253). -/
def tryPut (s : State) (x : Cmd) : State :=
  match s.stashReady x.cx x.stash with
  | (s, false) => s
  | (s, true) =>
    match s.vread x.cx (mvSrc x.w) (mvBytes x.w) with
    | .fault k => s.faultCmd x k
    | .wait => s
    | .ok bs =>
      let t := mvTarget x.w
      (s.updCmd x.id fun y => { y with phase := .running }).startPut (some x.id) x.cx t.1 t.2 (mvDst x.w) bs
        (if pktBit x.w 74 then some (pkt x.w 75 8) else none) false

/-- Start a dispatched GET, if the stash lets it (R254). -/
def tryGet (s : State) (x : Cmd) : State :=
  match s.stashReady x.cx x.stash with
  | (s, false) => s
  | (s, true) =>
    let t := mvTarget x.w
    let os := msgOffsets (mvBytes x.w)
    let m : Msg := { id := s.nextMsg, cmd := some x.id, cx := x.cx, dev := t.1, rcx := t.2, isGet := true, src := mvSrc x.w,
                     dst := mvDst x.w, bytes := mvBytes x.w, rpost := none, left := os, unsent := os, last := s.clock }
    (s.updCmd x.id fun y => { y with phase := .running }).startMsg m (s.getFrames m)

/-- PUT is dispatched. -/
def runPut (s : State) (x : Cmd) : State :=
  let s := enqueue s x
  if s.cxLive x.cx then tryPut s x else s

/-- GET is dispatched. -/
def runGet (s : State) (x : Cmd) : State :=
  let s := enqueue s x
  if s.cxLive x.cx then tryGet s x else s

/-- PUT. -/
def execPut (sp : Fin 32) (s : State) : Host.Outcome State Fault Refusal :=
  .next (dispatch sp (fun w => opc w == 0x23) prepPut runPut s)

/-- GET. -/
def execGet (sp : Fin 32) (s : State) : Host.Outcome State Fault Refusal :=
  .next (dispatch sp (fun w => opc w == 0x24) prepGet runGet s)

-- The target's side (R252, R255).

/-- Checks 1 to 3 at the target: the reason code of the first that fails. -/
def State.targetCheck (s : State) (f : Frame) : Option Nat :=
  if !s.cxLive f.dstCx then some 1
  else if !s.flag R.CX_REMOTE_EN f.dstCx then some 2
  else if s.rd R.CX_REMOTE_JOB f.dstCx != f.job then some 3
  else none

/-- Answer a frame of a message: the answer carries the frame's message, offset and length, and goes back to its sender. -/
def State.respond (s : State) (f : Frame) (typ addr : Nat) (pl : List Byte) : State :=
  s.sendFrames [{ typ := typ, vc := 1, srcDev := s.dev, dstDev := f.srcDev, srcCx := f.dstCx, dstCx := f.srcCx, job := f.job,
                  addr := addr, offset := f.offset, msgBytes := f.msgBytes, msgId := f.msgId, payload := pl }]

/-- PUT_ACK. -/
def State.ack (s : State) (f : Frame) : State := s.respond f 4 f.addr []

/-- REFUSE with a reason code; the target context counts it, where it exists (R252). -/
def State.refuseFrame (s : State) (f : Frame) (reason : Nat) : State :=
  let s := if s.cxLive f.dstCx then s.bump R.CX_REMOTE_REFUSED 1 f.dstCx else s
  (s.count 0x0B0 0xFF f.dstCx 1).respond f 6 reason []

/-- XOR a frame into the parity window of its target (R316). -/
def State.takeParity (s : State) (f : Frame) : State :=
  match s.vread f.dstCx f.addr f.len with
  | .ok old => match s.vwrite f.dstCx f.addr (xorBytes old f.payload) with
    | .ok s' => (s'.gotParity f.dstCx f.addr f.len).ack f
    | _ => s.refuseFrame f 4
  | .fault k => if k.code = 3 then (s.faultCx f.dstCx k).refuseFrame f 1 else s.refuseFrame f 4
  | .wait => s.refuseFrame f 4

/-- PUT_DATA at the target: written or XORed, and acknowledged, or refused (R252, R253). -/
def takePut (f : Frame) (s : State) : State :=
  match s.targetCheck f with
  | some r => s.refuseFrame f r
  | none =>
    if s.inParity f.dstCx f.addr f.len then s.takeParity f
    else match s.vwriteFrom f.dstCx f.addr f.payload .plain with
      | (s', .ok _) => s'.ack f
      | (s', .fault k) => if k.block.isSome then (s'.faultCx f.dstCx k).ack f else s.refuseFrame f 4
      | (_, .wait) => s.refuseFrame f 4

/-- PUT_DATA. -/
def execPutData (p : Fin 18) (f : Frame) (s : State) : Host.Outcome State Fault Refusal := .next (receive p f 1 takePut s)

/-- Bytes that a GET_REQ asks for (R254). -/
def getBytes (f : Frame) : Nat := min 2048 (f.msgBytes - f.offset)

/-- GET_REQ at the target: the range is read and returned, or refused (R252, R254). -/
def takeGet (f : Frame) (s : State) : State :=
  match s.targetCheck f with
  | some r => s.refuseFrame f r
  | none =>
    match s.vread f.dstCx f.addr (getBytes f) with
    | .ok bs => s.respond f 5 f.addr bs
    | .fault k => match k.block with
      | some b => (s.uncorrEvent b (some f.dstCx) false).refuseFrame f 6
      | none => s.refuseFrame f 4
    | .wait => s.refuseFrame f 4

/-- GET_REQ. -/
def execGetReq (p : Fin 18) (f : Frame) (s : State) : Host.Outcome State Fault Refusal := .next (receive p f 2 takeGet s)

/-- POST at the target: a SEM_POST of VALUE 1 (R253). One that names a semaphore the device owns faults the target context
(R173, R311). -/
def takePost (f : Frame) (s : State) : State :=
  match s.targetCheck f with
  | some r => s.refuseFrame f r
  | none =>
    if s.semOwned f.dstCx f.rpostSem then (s.faultCx f.dstCx illegal).refuseFrame f 1
    else match s.post f.dstCx f.rpostSem 1 with
      | some s' => s'.ack f
      | none => s.refuseFrame f 5

/-- POST. -/
def execPost (p : Fin 18) (f : Frame) (s : State) : Host.Outcome State Fault Refusal := .next (receive p f 3 takePost s)

-- The sender's side (R253, R254, R256).

/-- Change a message of this device. -/
def State.updMsg (s : State) (id : Nat) (g : Msg → Msg) : State :=
  { s with msgs := replaceFirst (fun m => m.id == id) g s.msgs }

/-- A message completes: its command is finished, or its checkpoint engine goes on (R253, R254). -/
def State.msgDone (s : State) (m : Msg) : State :=
  let s := { s with msgs := s.msgs.filter fun x => x.id != m.id }
  match m.cmd with
  | some id => s.updCmd id fun y => { y with phase := .finished }
  | none => if m.ckpt then s.sendDone m.cx m.id else s

/-- The frame at an offset has been sent and not yet answered. -/
def Msg.awaits (m : Msg) (o : Nat) : Bool := m.left.contains o && !m.unsent.contains o

/-- The frame at an offset has been answered. -/
def State.answered (s : State) (m : Msg) (o : Nat) : State × Msg :=
  let m' := { m with left := m.left.erase o, last := s.clock }
  (s.updMsg m.id fun _ => m', m')

/-- Every byte of a PUT is acknowledged: the POST frame goes, where one was asked for (R253). -/
def State.sendPost (s : State) (m : Msg) (sem : Nat) : State :=
  let s := s.updMsg m.id fun m => { m with left := [m.bytes], unsent := [m.bytes], posted := true }
  s.sendFrames [{ s.msgFrame m 3 0 m.bytes [] with rpostEn := true, rpostSem := sem }]

/-- An answer that finds no message waiting for it is dropped and counted (R256). -/
def dropAnswer (p : Nat) (s : State) : State := s.dropFrame p

/-- PUT_ACK at the sender. -/
def takeAck (p : Nat) (f : Frame) (s : State) : State :=
  match s.msg? f.msgId with
  | none => dropAnswer p s
  | some m =>
    let o := if m.posted then m.bytes else f.offset
    if m.isGet || !m.awaits o then dropAnswer p s
    else
      let (s, m) := s.answered m o
      if !m.left.isEmpty then s
      else match m.posted, m.rpost with
        | false, some sem => s.sendPost m sem
        | _, _ => s.msgDone m

/-- PUT_ACK. -/
def execPutAck (p : Fin 18) (f : Frame) (s : State) : Host.Outcome State Fault Refusal := .next (receive p f 4 (takeAck p) s)

/-- GET_DATA at the issuer: the bytes land, and the GET completes with its last (R254). -/
def takeData (p : Nat) (f : Frame) (s : State) : State :=
  match s.msg? f.msgId with
  | none => dropAnswer p s
  | some m =>
    if !m.isGet || !m.awaits f.offset || f.len != min 2048 (m.bytes - f.offset) then dropAnswer p s
    else match s.vwriteFrom m.cx (m.dst + f.offset) f.payload .plain with
      | (s, .ok _) =>
        let (s, m) := s.answered m f.offset
        if m.left.isEmpty then s.msgDone m else s
      | (s, .fault k) => s.failMsg m k
      | (s, .wait) => s.failMsg m stashExhausted

/-- GET_DATA. -/
def execGetData (p : Fin 18) (f : Frame) (s : State) : Host.Outcome State Fault Refusal := .next (receive p f 5 (takeData p) s)

/-- REFUSE at the sender: the message fails with the reason (R256). -/
def takeRefuse (p : Nat) (f : Frame) (s : State) : State :=
  match s.msg? f.msgId with
  | none => dropAnswer p s
  | some m => s.failMsg m { code := 5, reason := f.addr % 256 }

/-- REFUSE. -/
def execRefuse (p : Fin 18) (f : Frame) (s : State) : Host.Outcome State Fault Refusal := .next (receive p f 6 (takeRefuse p) s)

/-- LOSS: a switch has discarded a frame of this device. It names a frame of a message by number and offset, which is
ignored once answered, or else a frame of a collective (R256, R263, R264). -/
def takeLoss (f : Frame) (s : State) : State :=
  if f.msgId != 0 then
    match s.msg? f.msgId with
    | some m => if m.awaits f.offset then s.failMsg m frameLost else s
    | none => s
  else match s.coll? f.dstCx f.accord f.collSeq with
    | some k => if k.acc.epoch = f.epoch then s.failColl k collFailed else s
    | none => s

/-- LOSS. -/
def execLoss (p : Fin 18) (f : Frame) (s : State) : Host.Outcome State Fault Refusal := .next (receive p f 14 takeLoss s)

/-- The progress limit of a message, in nanoseconds (R256). -/
def State.e2eNs (s : State) : Nat :=
  1000 * (if s.rd R.CE_CFG_E2E_US = 0 then 1000 else s.rd R.CE_CFG_E2E_US)

/-- MESSAGE_TIMEOUT: a message with a frame sent and not answered has made no progress for E2E_US (R256). -/
def msgTimeout (s : State) (id : Nat) : State :=
  match s.msgs.find? fun m => m.id == id with
  | none => s
  | some m =>
    if s.live && decide (m.unsent.length < m.left.length) && decide (m.last + s.e2eNs ≤ s.clock) then
      (s.failMsg m { code := 7 }).settle
    else s

/-- MESSAGE_TIMEOUT. -/
def execMessageTimeout (msg : Nat) (s : State) : Host.Outcome State Fault Refusal := .next (msgTimeout s msg)

end Sys2Proof.Machine
end

