-- ==== Sys2Proof/Machine/Verdict.lean ====
section
/-! DEFINITION. STEP_VERDICT: the close of a step, its OR, and what the verdict does (R66 to R70, R153, R195, R200). -/

namespace Sys2Proof.Machine

/-- ACCORD of STEP_VERDICT. -/
def vdAccord (w : Packet) : Nat := pkt w 96 16

/-- A STEP_VERDICT of a step is in progress. -/
def State.verdictOpen (s : State) (c st : Nat) : Bool := s.cmds.any fun x => opc x.w == 0x52 && x.cx == c && stepField x.w == st

/-- The checks of STEP_VERDICT at dispatch: it names the oldest step without a verdict, or the one after, and no other
verdict of that step is in progress (R67, R153; log entry 29). -/
def prepVerdict (s : State) (x : Cmd) : Res Cmd :=
  let c := s.cx x.cx
  let n := stepField x.w
  (Res.check (rsvZero x.w [(112, 400)] && s.isLearn x.cx && c.first.isSome && (n == c.oldest || n == c.oldest + 1) &&
    !s.verdictOpen x.cx n) illegal).bind fun _ =>
  (s.commandAccord x.cx (vdAccord x.w)).bind fun _ => .ok x

/-- STEP_VERDICT is dispatched: its collective takes its number (R258). -/
def runVerdict (s : State) (x : Cmd) : State :=
  let s := enqueue s { x with phase := .running }
  match s.commandAccord x.cx (vdAccord x.w) with
  | .ok a => s.openColl { id := 0, cmd := some x.id, cx := x.cx, acc := a, seq := 0, op := .verdict }
  | .fault e => s.faultCmd x e
  | .wait => s

/-- STEP_VERDICT. -/
def execStepVerdict (sp : Fin 32) (s : State) : Host.Outcome State Fault Refusal :=
  .next (dispatch sp (fun w => opc w == 0x52) prepVerdict runVerdict s)

-- The close (R67).

/-- The verdict of the next step of a context to be closed, if it is in progress: of the oldest step, which has not closed
yet. -/
def State.nextClose (s : State) (c : Nat) : Option Cmd :=
  let n := (s.cx c).oldest
  if (s.cx c).closed.contains n then none
  else s.cmds.find? fun x => opc x.w == 0x52 && x.cx == c && stepField x.w == n && x.phase == .running

/-- A command of a step is still incomplete: the verdict itself and STEP_BEGINs do not count. -/
def State.stepBusy (s : State) (c st : Nat) : Bool :=
  s.cmds.any fun x => x.cx == c && x.step == some st && !(opc x.w == 0x52 && stepField x.w == st) && opc x.w != 0x51

/-- The mark of a step: MARK_CUR is that of the oldest (R66). -/
def State.markOf (s : State) (c st : Nat) : Nat :=
  if st = (s.cx c).oldest then s.rd R.CX_VERDICT_MARK_CUR c else s.rd R.CX_VERDICT_MARK_NEXT c

/-- STEP_CLOSE: the step closes, and its verdict enters the rendezvous with this member's mark and S (R67, R260). -/
def stepCloseNow (s : State) (c : Nat) : State :=
  match s.nextClose c with
  | none => s
  | some x =>
    let n := stepField x.w
    if !s.live || !s.cxLive c || s.stepBusy c n then s else
    let s := s.updCx c fun y => { y with closed := y.closed ++ [n] }
    (s.enterVote x.id (leBytes 1 (s.markOf c n) ++ leBytes 1 (s.rd R.CX_LEARN_S c))).settle

/-- STEP_CLOSE. -/
def execStepClose (cx : Fin 16) (s : State) : Host.Outcome State Fault Refusal := .next (stepCloseNow s cx)

-- What the verdict does (R68, R70).

/-- S as a signed number. -/
def State.lossScale (s : State) (c : Nat) : Int := signedOf 8 (s.rd R.CX_LEARN_S c)

/-- S is replaced. -/
def State.setScale (s : State) (c : Nat) (k : Int) : State := s.wr R.CX_LEARN_S (unsignedOf 8 k) c

/-- The effect of a SKIP on S, the clean run and SKIPS. -/
def State.skipped (s : State) (c : Nat) : State :=
  ((s.setScale c (max (s.lossScale c - 1) (-64))).wr R.CX_LEARN_CLEAN_RUN 0 c).bump R.CX_LEARN_SKIPS 1 c

/-- The effect of a CLEAN on S and the clean run. -/
def State.cleaned (s : State) (c : Nat) : State :=
  let n := s.rd R.CX_LEARN_CLEAN_RUN c + 1
  if s.rd R.CX_LEARN_RISE_AFTER c ≤ n then (s.setScale c (min (s.lossScale c + 1) 64)).wr R.CX_LEARN_CLEAN_RUN 0 c
  else s.wr R.CX_LEARN_CLEAN_RUN n c

/-- UPDATEs in progress of a step that a SKIP stops (R200). -/
def State.stopUpdates (s : State) (c st : Nat) : State :=
  (s.udBusy.filter fun x => x.cx == c && udStep x.w == st && x.phase != .finished).foldl (fun s x => udSkip s x) s

/-- A verdict is applied: UPDATEs of a skipped step stop and its shadows go; S, the clean run and SKIPS move; the marks
shift; a shadow left from the step before faults the context (R67, R68, R70, R195). -/
def State.applyVerdict (s : State) (x : Cmd) : State :=
  let c := x.cx
  let st := stepField x.w
  let skip := x.upd.skipped
  let s := if skip then ((s.stopUpdates c st).discardShadows c fun h => h.step == st).skipped c else s.cleaned c
  let s := s.setFlag R.CX_VERDICT_LAST_SKIP skip c
  let s := s.wr R.CX_VERDICT_LAST_STEP st c
  let s := s.wr R.CX_VERDICT_MARK_CUR (s.rd R.CX_VERDICT_MARK_NEXT c) c
  let s := s.wr R.CX_VERDICT_MARK_NEXT 0 c
  let k := s.lossScale c
  let s := s.updCx c fun y => { y with verdicts := y.verdicts ++ [⟨st, skip, k⟩], oldest := st + 1, closed := y.closed.filter (· != st) }
  let s := s.rush 7 c x.sp (opc x.w) (pkt x.w 32 16) x.index st
  if (s.cx c).shadows.any fun h => h.step + 1 == st then s.faultCmd x illegal else s

end Sys2Proof.Machine
end

