-- ==== Sys2Proof/Machine/Complete.lean ====
section
/-! DEFINITION. COMMAND_COMPLETION: a command in progress goes on where it waited, and completes once its work is done
(R127, R286). -/

namespace Sys2Proof.Machine

/-- A command that waited for the stash, a verdict or a frame tries again; arrays, the update unit and COMMIT have events of
their own. -/
def tryAgain (s : State) (x : Cmd) : State :=
  match opc x.w with
  | 0x10 => if s.cmdRuns x then tryFinish s x else s
  | 0x11 => if s.cmdRuns x then tryHcount s x else s
  | 0x20 => if s.cmdRuns x then tryMover s x else s
  | 0x21 => if s.cmdRuns x then tryMover s x else s
  | 0x22 => if s.cmdRuns x then tryMover s x else s
  | 0x23 => tryPut s x
  | 0x24 => tryGet s x
  | 0x30 => tryColl s x
  | 0x31 => tryColl s x
  | 0x32 => tryColl s x
  | 0x33 => tryColl s x
  | 0x60 => tryCast s x
  | _ => s

/-- The values that a command writes when it completes (R139). -/
def State.writeAfter (s : State) (c : Nat) (ws : List (Nat × Nat)) : Res State :=
  Res.fold (fun s (w : Nat × Nat) => s.vwriteNat c w.1 8 w.2) s ws

/-- A finished command completes: what it writes last, its verdict, its health additions, its post and its interrupt
(R127). -/
def finishCmd (s : State) (x : Cmd) : State :=
  match s.writeAfter x.cx x.after with
  | .fault k => s.faultCmd x k
  | .wait => s
  | .ok s =>
    let s := if opc x.w = 0x52 then s.applyVerdict x else s
    if s.cxLive x.cx then s.complete x else s

/-- The command with a given number goes on, and completes if it has finished. -/
def completionNow (s : State) (id : Nat) : State :=
  match s.cmd? id with
  | none => s
  | some x =>
    if !s.live || !s.cxLive x.cx then s else
    let s := if x.phase = CmdPhase.queued then tryAgain s x else s
    (match s.cmd? id with
     | some y => if y.phase = CmdPhase.finished then finishCmd s y else s
     | none => s).settle

/-- COMMAND_COMPLETION. -/
def execCommandCompletion (id : Nat) (s : State) : Host.Outcome State Fault Refusal := .next (completionNow s id)

end Sys2Proof.Machine
end

