-- ==== Sys2Proof/Machine/Drain.lean ====
section
/-! DEFINITION. The drain side of the arrays: DRAIN in its four modes, and the drain of a row or of a group of rows (R104,
R106 to R109, R113, R156, R443). -/

namespace Sys2Proof.Machine

-- Fields.

/-- MODE of a DRAIN: 0 FINAL, 1 SPILL, 2 ADD, 3 CONVERT_IMAGE (R106). -/
def drainMode (w : Packet) : Nat := pkt w 70 2

/-- OUT_TID. -/
def drainTid (w : Packet) : Nat := pkt w 80 24

/-- ROW0. -/
def drainRow0 (w : Packet) : Nat := pkt w 128 32

/-- ROWS. -/
def drainRows (w : Packet) : Nat := pkt w 160 32

/-- IMG. -/
def drainImg (w : Packet) : Nat := pkt w 240 48

/-- PROG. -/
def drainProg (w : Packet) : Nat := pkt w 288 48

/-- COL0. -/
def drainCol0 (w : Packet) : Nat := pkt w 336 32

/-- The modes that write a destination. -/
def drainConverts (w : Packet) : Bool := drainMode w == 0 || drainMode w == 3

-- Dispatch.

/-- The field checks of a DRAIN (R104, R106). -/
def drainFieldsOk (w : Packet) : Bool :=
  rsvZero w [(72, 8), (104, 24), (370, 142)] && drainTid w != 0 && drainRows w != 0 && drainCol0 w % 32 == 0 &&
    (drainMode w == 0 || drainImg w % 64 == 0)

/-- The checks of a DRAIN against its destination (R107, R108, R160). -/
def drainDstOk (w : Packet) (d : Desc) : Bool :=
  d.tid == drainTid w && (!d.fmt.isEs || drainProg w == 0) &&
    (!d.square || d.fmt.isEs ||
      (drainRow0 w % d.b == 0 && (drainRows w % d.b == 0 || drainRow0 w + drainRows w == d.rows)))

/-- Ranges that a DRAIN reads: images, and the vectors of its program (R164). -/
def drainReads (s : State) (x : Cmd) : List (Nat × Nat) :=
  let img := if drainMode x.w = 3 then [(drainImg x.w, imageBytes * drainRows x.w)] else []
  let lv := if drainConverts x.w && drainProg x.w != 0 then
      match s.readProgram x.cx (drainProg x.w) true with
      | .ok ops => loadvRanges ops (drainCol0 x.w) 896
      | _ => []
    else []
  img ++ lv

/-- The array on which a CONVERT_IMAGE runs: the lowest-numbered of CXn.ARRAYS.MASK; the choice changes no result (R107). -/
def convertArray (x : Cmd) : Option Nat := (maskArrays (x.mask % 256)).head?

/-- The arrays, slot and load of a DRAIN (R82, R107, R119). -/
def drainPlace (s : State) (x : Cmd) : Res Cmd :=
  if drainMode x.w = 3 then
    match convertArray x with
    | some a => .ok { x with arrays := [a] }
    | none => .fault illegal
  else
    (s.takeBinding x.cx (pkt x.w 64 6)).bind fun b =>
    (Res.check ((arraysMask b.arrays).land (x.mask % 256) == arraysMask b.arrays) illegal).bind fun _ =>
    .ok { x with arrays := b.arrays, slot := b.slot, source := b.load }

/-- The checks and reads of a DRAIN at dispatch. -/
def prepDrain (s : State) (x : Cmd) : Res Cmd :=
  (Res.check (drainFieldsOk x.w) illegal).bind fun _ =>
  (drainPlace s x).bind fun x =>
  (if drainConverts x.w then
     (s.readDesc x.cx (pkt x.w 192 48)).bind fun d =>
     (Res.check (drainDstOk x.w d) illegal).bind fun _ =>
     (s.pimCheck x.cx (d.fmt != .es32)).bind fun _ => .ok { x with desc := d }
   else .ok x).bind fun x =>
  (s.touches x.cx (drainReads s x)
    (if drainConverts x.w then x.desc.ranges else [(drainImg x.w, imageBytes * drainRows x.w)])).bind fun ts =>
  if x.arrays.any fun a => s.queueFull a [4] then .wait else .ok { x with stash := ts }

/-- A DRAIN in a mode is dispatched. -/
def dispatchDrain (mode sp : Nat) (s : State) : State :=
  dispatch sp (fun w => opc w == 0x04 && drainMode w == mode) prepDrain enqueue s

/-- DRAIN_FINAL. -/
def execDrainFinal (sp : Fin 32) (s : State) : Host.Outcome State Fault Refusal := .next (dispatchDrain 0 sp s)

/-- DRAIN_SPILL. -/
def execDrainSpill (sp : Fin 32) (s : State) : Host.Outcome State Fault Refusal := .next (dispatchDrain 1 sp s)

/-- DRAIN_ADD. -/
def execDrainAdd (sp : Fin 32) (s : State) : Host.Outcome State Fault Refusal := .next (dispatchDrain 2 sp s)

/-- DRAIN_CONVERT_IMAGE. -/
def execDrainConvertImage (sp : Fin 32) (s : State) : Host.Outcome State Fault Refusal := .next (dispatchDrain 3 sp s)

-- Exchange blocks (R107, R443).

/-- A column group of a bin was computed (R443). -/
def RingRow.has (r : RingRow) (g : Nat) : Bool := bitAt r.computed g

/-- The exact value of column j of a bin (R38). -/
def RingRow.dy (r : RingRow) (j : Nat) : Dy := esDy (nth 0 r.vals j) (nth 0 r.anchors (j / 32))

/-- One exchange block of a bin, of which `n` columns lie in the destination; a group that was not computed is 0 and counts
nothing. -/
def drainBlock (es32 : Bool) (r : RingRow) (n g : Nat) : List Byte × Counts :=
  let a := nth 0 r.anchors g
  if es32 then
    if r.has g then es32Out ((List.range 32).map fun j => if 32 * g + j < n then r.dy (32 * g + j) else ⟨0, 0⟩)
    else ((es32Out []).1, {})
  else
    let ns := (List.range 32).map fun j => if r.has g && decide (32 * g + j < n) then es64Steps (nth 0 r.vals (32 * g + j)) else 0
    (es64Block ns a 1, if r.has g then { total := 32, zero := (ns.filter (· == 0)).length } else {})

/-- Write a bin as exchange blocks from its column origin. -/
def writeBlocks (st : Writing) (cx : Nat) (d : Desc) (col0 : Nat) (r : RingRow) : Writing × Counts :=
  let n := min 896 (d.cols - col0)
  if d.rows ≤ r.row then (st, {}) else
  let bs := (List.range (ceilDiv n 32)).map fun g => (g, drainBlock (d.fmt == .es32) r n g)
  (bs.foldl (fun st q => putBytes st cx (d.esAddr r.row (col0 / 32 + q.1)) q.2.1 .plain) st, sumCounts (bs.map fun q => q.2.2))

-- Conversion of a group of rows (R47, R108, R443).

/-- The values of a bin's columns that lie in the destination, after the program where there is one, with the window-low
events of its sums. A value without a program is rounded once, by the conversion (R47). -/
def drainValues (s : State) (x : Cmd) (r : RingRow) (rel : Nat) : Res (List FV × Nat) :=
  let col0 := drainCol0 x.w
  let n := min 896 (x.desc.cols - col0)
  let vals := (List.range n).map fun j => dyFV (r.dy j)
  if drainProg x.w = 0 then .ok (vals, 0) else
  let e : FRow :=
    { cx := x.cx, seed := x.seed, step := x.step.getD 0, rel := rel, row := r.row, col0 := col0, n := n, cols := x.desc.cols,
      key := 0, srcB := none }
  (runProgram e (x.prog.filterMap fopOf) s (vals.map fun v => (rn32Clamp v).1)).bind fun q => .ok (fitRow n (q.reg 0), q.low)

/-- A row for conversion: elements of groups that were not computed are left out. -/
def maskedRow (r : RingRow) (vals : List FV) : List (Option FV) :=
  ((List.range vals.length).zip vals).map fun p => if r.has (p.1 / 32) then some p.2 else none

/-- T128 blocks of the destination, as (block row, block column), in which some element of the rows is computed. -/
def liveBlocks (col0 n : Nat) (rows : List RingRow) : List (Nat × Nat) :=
  dedup (rows.flatMap fun r =>
    ((List.range (ceilDiv n 32)).filter fun g => r.has g).map fun g => (r.row / 128, (col0 + 32 * g) / 128))

/-- A row of +0 that R443 withheld until its block is shown. -/
def writeKept (st : Writing) (cx : Nat) (d : Desc) (col0 n : Nat) (q : Nat × Nat) : Writing :=
  writeConverted st cx d col0 (convertRows d col0 [(q.1, List.replicate n none)]) [q.2]

/-- Convert a group of bins and write it, as far as R443 lets its blocks be written; the command's record of blocks moves. -/
def drainConvert (s : State) (x : Cmd) (rows : List RingRow) : Writing × Counts × Cmd :=
  let d := x.desc
  let col0 := drainCol0 x.w
  let n := min 896 (d.cols - col0)
  if d.fmt.isEs then
    let r := rows.foldl (fun (acc : Writing × Counts) r =>
      let w := writeBlocks acc.1 x.cx d col0 r
      (w.1, acc.2.add w.2)) ((s, .ok ()), {})
    (r.1, r.2, x)
  else
    match Res.mapM (fun (r : RingRow) => (drainValues s x r (r.row - drainRow0 x.w)).bind fun v => .ok (r, v)) rows with
    | .fault k => ((s, .fault k), {}, x)
    | .wait => ((s, .wait), {}, x)
    | .ok vs =>
      let inside := vs.filter fun p => decide (p.1.row < d.rows)
      let v := convertRows d col0 (inside.map fun p => (p.1.row, maskedRow p.1 p.2.1))
      let all := blocksOf col0 n
      let shown := dedup (x.shown ++ liveBlocks col0 n (inside.map (·.1)))
      let open_ (row bc : Nat) : Bool := shown.contains (row / 128, bc)
      let now := match inside with
        | [] => []
        | p :: _ => all.filter fun bc => open_ p.1.row bc
      let st := (x.kept.filter fun q => open_ q.1 q.2).foldl (fun st q => writeKept st x.cx d col0 n q) (s, .ok ())
      let st := writeConverted st x.cx d col0 v now
      let hid := inside.flatMap fun p => (all.filter fun bc => !open_ p.1.row bc).map fun bc => (p.1.row, bc)
      (st, v.counts.add { wlow := (vs.map fun p => p.2.2).foldl (· + ·) 0 },
       { x with shown := shown, kept := (x.kept.filter fun q => !open_ q.1 q.2) ++ hid })

-- One step of a DRAIN.

/-- The DRAIN that the drain side of an array runs: the oldest one not done (R109). -/
def State.drainHead (s : State) (a : Nat) : Option Cmd :=
  s.cmds.find? fun x => opc x.w == 4 && x.phase != .finished && x.arrays.contains a

/-- Rows of the next group of a DRAIN: one row, or the rows up to the next multiple of b (R108). -/
def Cmd.drainGroup (x : Cmd) : List Nat :=
  let r := drainRow0 x.w + x.pos
  let m := if drainConverts x.w && !x.desc.fmt.isEs then x.desc.groupRows else 1
  (List.range (min (m - r % m) (drainRows x.w - x.pos))).map (r + ·)

/-- The bin of a row in the ring of an array. -/
def State.binOf (s : State) (x : Cmd) (a row : Nat) : Option RingRow :=
  (s.arr a).ring.find? fun r => r.tagged x.cx (drainTid x.w) row (drainCol0 x.w)

/-- The members of a DRAIN's gang whose rings hold rows of a group. -/
def State.holders (s : State) (x : Cmd) (rows : List Nat) : List Nat :=
  x.arrays.filter fun a => rows.any fun r => (s.binOf x a r).isSome

/-- Contributions are in flight to a bin. -/
def Arr.hasFlight (a : Arr) (r : RingRow) : Bool :=
  a.flight.any fun f => f.cx == r.cx && f.tid == r.tid && f.row == r.row && f.col0 == r.col0

/-- A bin can be drained in a mode: FINAL in mode 0, with nothing in flight in the others (R107). -/
def State.drainable (s : State) (a mode : Nat) (r : RingRow) : Bool :=
  !(s.arr a).hasFlight r && (mode != 0 || r.cover == r.klen)

/-- The rows of a group leave the ring of an array (R101, R107). -/
def State.freeRows (s : State) (x : Cmd) (a : Nat) (rows : List RingRow) : State :=
  (s.updArr a fun r => { r with ring := r.ring.filter fun q => !rows.contains q }).count 0x013 a x.cx rows.length

/-- A group is drained: the command moves past it, and past the last one it is done. -/
def State.drainedGroup (s : State) (x : Cmd) (n : Nat) : State :=
  s.updCmd x.id fun y =>
    { y with pos := x.pos + n, shown := x.shown, kept := x.kept,
             phase := if drainRows x.w ≤ x.pos + n then .finished else .running }

/-- Address of the image row of an output row (R104). -/
def imageAddr (x : Cmd) (row : Nat) : Nat := drainImg x.w + imageBytes * (row - drainRow0 x.w)

/-- SPILL and ADD of one bin (R104, R107). -/
def spillRow (s : State) (x : Cmd) (a : Nat) (r : RingRow) : State :=
  let va := imageAddr x r.row
  let out : Res RingRow :=
    if drainMode x.w = 1 then .ok r
    else
      (s.vread x.cx va imageBytes).bind fun bs =>
      let im := imageRow x.cx bs
      if im.anchors != r.anchors || im.exch != r.exch || im.klen != r.klen || decide (r.klen < im.cover + r.cover) then .fault illegal
      else .ok { im with vals := (im.vals.zip r.vals).map fun p => p.1 + p.2, cover := im.cover + r.cover,
                         computed := im.computed.lor r.computed }
  match out.bind fun q => s.vwrite x.cx va (imageOf q) with
  | .ok s => (s.freeRows x a [r]).drainedGroup x 1
  | .fault k => s.faultCmd x k
  | .wait => s

/-- Convert a group and write it, on the engine of array `a`. -/
def convertStep (s : State) (x : Cmd) (a : Nat) (rows : List RingRow) : State :=
  match drainConvert s x rows with
  | ((s, .ok _), k, x) =>
    let s := if drainMode x.w = 0 then s.freeRows x a rows else s
    let s := s.drainedGroup x rows.length
    (s.countFor x.id x.desc.tid x.desc.kind k).count 0x020 a x.cx k.total
  | ((_, .wait), _, _) => s
  | ((s, .fault e), _, _) => s.faultCmd x e

/-- A group of a CONVERT_IMAGE: each image row must carry OUT_TID and be complete (R107). -/
def imageStep (s : State) (x : Cmd) (a : Nat) : State :=
  let got := Res.mapM (fun row =>
    (s.vread x.cx (imageAddr x row) imageBytes).bind fun bs =>
      let im := imageRow x.cx bs
      if im.tid != drainTid x.w || im.cover != im.klen then .fault illegal else .ok { im with row := row }) x.drainGroup
  match got with
  | .ok rows => convertStep s x a rows
  | .fault k => s.faultCmd x k
  | .wait => s

/-- A group of a DRAIN from the ring: it waits for its rows, and faults where they lie in the rings of more than one member
(R107, R108), or where a bin of an input gradient would leave kind G (R156). -/
def ringStep (s : State) (x : Cmd) (a : Nat) : State :=
  let rows := x.drainGroup
  let hs := s.holders x rows
  if 1 < hs.length then s.faultCmd x illegal else
  let bins := rows.filterMap fun r => s.binOf x a r
  if bins.length < rows.length || bins.any fun r => !s.drainable a (drainMode x.w) r then s
  else if drainMode x.w = 0 then
    if x.desc.kind != .g && bins.any fun r => r.igrad then s.faultCmd x illegal else convertStep s x a bins
  else match bins with
    | r :: _ => spillRow s x a r
    | [] => s

/-- A DRAIN starts: its program is read and checked (R130). -/
def startDrain (s : State) (x : Cmd) : Res Cmd :=
  if x.phase = .running || !drainConverts x.w || drainProg x.w == 0 then .ok { x with phase := .running }
  else (s.readProgramWords x.cx (drainProg x.w) true).bind fun ws => .ok { x with phase := .running, prog := ws }

/-- The drain side of an array takes one step of the DRAIN it runs. -/
def drainRow (s : State) (a : Nat) : State :=
  match s.drainHead a with
  | none => s
  | some x =>
    if s.cmdRuns x = false then s else
    match s.stashReady x.cx x.stash with
    | (s, false) => s
    | (s, true) =>
      match startDrain s x with
      | .wait => s
      | .fault k => (s.faultCmd x k).settle
      | .ok x =>
        let s := s.updCmd x.id fun _ => x
        (if drainMode x.w = 3 then imageStep s x a else ringStep s x a).settle

/-- DRAIN_ROW. -/
def execDrainRow (a : Fin 8) (s : State) : Host.Outcome State Fault Refusal := .next (drainRow s a)

end Sys2Proof.Machine
end

