-- ==== Sys2Proof/Machine/Memtier.lean ====
section
/-! DEFINITION. The events of the memory tiers: retraining, scrubbing, failing channels and the migration to a spare (R222 to
R230, R235). -/

namespace Sys2Proof.Machine

/-- The active channel that stands on a physical channel, 17 × stack + number (R207). -/
def State.activeOf (s : State) (ph : Nat) : Option Nat :=
  (List.range 192).find? fun i => i % 12 == ph / 17 && s.physOf i == ph % 17 && !s.nt.removed.contains i

/-- The role of a physical channel by its index. -/
def State.roleOf (s : State) (ph : Nat) : Nat := s.role (ph / 17) (ph % 17)

/-- Set the role of a physical channel. -/
def State.setRole (s : State) (ph v : Nat) : State :=
  let w := s.rd R.NT_CHMAP_ROLE 0 (ph / 17)
  s.wr R.NT_CHMAP_ROLE (w - bitsAt w (2 * (ph % 17)) 2 * 4 ^ (ph % 17) + v % 4 * 4 ^ (ph % 17)) 0 (ph / 17)

/-- Change the memory controllers' state. -/
def State.updNt (s : State) (f : Tiers → Tiers) : State := { s with nt := f s.nt }

/-- The spare of a channel's stack. -/
def spareOf (ph : Nat) : Nat := 17 * (ph / 17) + 16

/-- The roles of a stack as a REPAIR record shows them: a channel recorded for removal as removed (R229). -/
def State.repairRoles (s : State) (j : Nat) : Nat :=
  (List.range 17).foldl (fun v k =>
    v + (if s.nt.recorded.contains (17 * j + k) then 3 else s.role j k) * 4 ^ k) 0

/-- The channel of a stack that its spare stands for: 255 where none. -/
def State.replacedIn (s : State) (j : Nat) : Nat :=
  match s.nt.phys.find? fun p => p.1 % 12 == j && p.2 == 16 with
  | some p => p.1 / 12
  | none => 255

/-- Write the REPAIR record of a stack: the stack, two bits for each physical channel, and the channel that the spare stands
for (R227, R230, R352). -/
def State.repairRecord (s : State) (j : Nat) : State :=
  s.reelEvent 0x03 (blkIndex .NT) noCx (leBytes 1 j ++ leBytes 5 (s.repairRoles j) ++ leBytes 1 (s.replacedIn j))

/-- A channel is recorded for removal at the next start (R229). -/
def State.recordRemoval (s : State) (ph : Nat) : State :=
  if s.nt.recorded.contains ph then s else
  ((s.updNt fun t => { t with recorded := t.recorded ++ [ph] }).bump R.NT_REPAIR_STAT_TO_REMOVE).repairRecord (ph / 17)

/-- A near channel goes offline until the next start (R229). -/
def State.goOffline (s : State) (ph : Nat) : State :=
  match s.activeOf ph with
  | some i =>
    if s.nt.offline.contains i then s else
    ((s.setRole ph 3).updNt fun t => { t with offline := t.offline ++ [i] }).bump R.NT_REPAIR_STAT_OFFLINE
  | none => s

/-- Begin the migration of a failing channel, the lowest of those that wait whose stack's spare is free, while NT migrates
and none is in progress (R226; log entry 36). -/
def State.nextMigration (s : State) : State :=
  if !s.flag R.NT_REPAIR_CFG_AUTO || s.nt.migration.isSome then s else
  match (sortBy id s.nt.waiting).find? fun ph => s.roleOf (spareOf ph) == 1 with
  | some ph =>
    let s := s.updNt fun t => { t with waiting := t.waiting.filter (· != ph), migration := some { src := ph } }
    let s := s.setFlag R.NT_REPAIR_STAT_MIGRATING true
    s.wr R.NT_REPAIR_STAT_SRC ph
  | none => s

/-- Bits of the reason why a channel is failing, as a reel record gives them. -/
def failCode : FailCause → Nat
  | .symbols => 0
  | .retrain => 1
  | .uncorrectable => 2

/-- A near channel becomes failing: it migrates where its spare is free, and is recorded for removal where the spare is used
already or is being used (R226, R228, R229). -/
def State.nearFailing (s : State) (ph : Nat) : State :=
  if s.roleOf ph != 0 || (s.activeOf ph).isNone then s else
  let s := s.setRole ph 2
  let busy := s.nt.migration.any fun m => m.src / 17 == ph / 17
  if s.roleOf (spareOf ph) = 1 ∧ busy = false then
    (s.updNt fun t => { t with waiting := t.waiting ++ [ph] }).nextMigration
  else s.recordRemoval ph

/-- A slow channel is failing: it is recorded and stays in service (R235). -/
def State.slowFailing (s : State) (ch : Nat) (why : FailCause) : State :=
  s.reelEvent 0x06 (blkIndex .UD) noCx (leBytes 1 ch ++ leBytes 1 (failCode why))

/-- Slow channels in use (R233). -/
def State.slowChannels (s : State) : Nat := 4 * s.rd R.MGT_POPULATION_SLOW_PKGS

/-- CHANNEL_FAILING. -/
def channelFailingNow (s : State) (ch : Nat) (why : FailCause) : State :=
  if !s.live then s
  else if ch < 204 then s.nearFailing ch
  else if ch - 204 < s.slowChannels then s.slowFailing (ch - 204) why
  else s

/-- CHANNEL_FAILING. -/
def execChannelFailing (ch : Fin 332) (why : FailCause) (s : State) : Host.Outcome State Fault Refusal :=
  .next (channelFailingNow s ch why)

-- Retraining (R222, R229, R235).

/-- A near channel may be held: none is, 100 µs have passed since the last hold, and it is in service and not migrating. -/
def State.mayRetrain (s : State) (ph : Nat) : Bool :=
  s.live && s.nt.held.isNone && decide (100000 + s.nt.holdEnd ≤ s.clock || s.nt.holdEnd == 0) &&
    !s.testing 5 ph && !s.nt.migration.any (fun m => m.src == ph) &&
    match s.activeOf ph with
    | some i => !s.nt.offline.contains i
    | none => false

/-- RETRAIN: the channel's queue is held. -/
def execRetrain (phys : Fin 204) (s : State) : Host.Outcome State Fault Refusal :=
  .next (if s.mayRetrain phys then
    ((s.updNt fun t => { t with held := some phys.val }).setFlag R.NT_RETRAIN_HOLDING true).wr R.NT_RETRAIN_HELD phys
  else s)

/-- Failed retrainings in a row of a channel. -/
def missCount (l : List (Nat × Nat)) (ch : Nat) : Nat := ((l.find? fun p => p.1 == ch).map (·.2)).getD 0

/-- Count a retraining: a success ends the row of failures. -/
def missAfter (l : List (Nat × Nat)) (ch : Nat) (ok : Bool) : List (Nat × Nat) :=
  let r := l.filter fun p => p.1 != ch
  if ok then r else r ++ [(ch, missCount l ch + 1)]

/-- Three retrainings in a row have failed: the channel migrates where that is possible, else it goes offline (R226,
R229). -/
def State.thirdMiss (s : State) (ph : Nat) : State :=
  let s := s.nearFailing ph
  if s.nt.waiting.contains ph && s.flag R.NT_REPAIR_CFG_AUTO || s.nt.migration.any (fun m => m.src == ph) then s else s.goOffline ph

/-- The hold of a near channel ends. -/
def retrainEndNow (s : State) (ph : Nat) (ok : Bool) : State :=
  if !s.live || s.nt.held != some ph then s else
  let l := missAfter s.nt.misses ph ok
  let s := s.updNt fun t => { t with held := none, holdEnd := s.clock, misses := l }
  let s := s.setFlag R.NT_RETRAIN_HOLDING false
  if 3 ≤ missCount l ph then s.thirdMiss ph else s

/-- RETRAIN_END. -/
def execRetrainEnd (phys : Fin 204) (ok : Bool) (s : State) : Host.Outcome State Fault Refusal := .next (retrainEndNow s phys ok)

/-- SLOW_RETRAIN: one slow channel in service is held at a time (R235). -/
def execSlowRetrain (ch : Fin 128) (s : State) : Host.Outcome State Fault Refusal :=
  .next (if s.live && s.nt.slowHeld.isNone && decide (ch.val < s.slowChannels) && !s.nt.slowOff.contains ch.val then
    s.updNt fun t => { t with slowHeld := some ch.val }
  else s)

/-- The hold of a slow channel ends; a third failure in a row takes it offline (R235). -/
def slowRetrainEndNow (s : State) (ch : Nat) (ok : Bool) : State :=
  if !s.live || s.nt.slowHeld != some ch then s else
  let l := missAfter s.nt.slowMisses ch ok
  let s := s.updNt fun t => { t with slowHeld := none, slowMisses := l }
  if 3 ≤ missCount l ch then (s.slowFailing ch .retrain).updNt fun t => { t with slowOff := t.slowOff ++ [ch] } else s

/-- SLOW_RETRAIN_END. -/
def execSlowRetrainEnd (ch : Fin 128) (ok : Bool) (s : State) : Host.Outcome State Fault Refusal :=
  .next (slowRetrainEndNow s ch ok)

-- Scrubbing (R223 to R225).

/-- Bytes of a near channel. -/
def channelBytes : Nat := 6 * 2 ^ 30

/-- The copy rate of a migration in bytes per nanosecond (R227). -/
def State.copyRate (s : State) : Nat :=
  let r := s.rd R.NT_REPAIR_CFG_COPY_GBPS
  if 16 ≤ r ∧ r ≤ 96 then r else 56

/-- The block has been copied to the spare by the migration in progress, which the read is then made from (R228). -/
def State.onSpare (s : State) (a : Nat) : Bool :=
  s.inNear a 64 && s.nt.migration.any fun m =>
    let p := s.nearPlace a
    m.copying && s.activeOf m.src == some p.1 && decide (p.2 + 512 ≤ (s.clock - m.since) * s.copyRate)

/-- A scrub read of a block: an uncorrectable one stays in place, and the event is recorded; a corrected one is written
back. -/
def scrubNow (s : State) (a : Nat) (r : ScrubResult) : State :=
  if !s.live || a % 64 != 0 || !(s.inNear a 64 || s.inSlow a 64) then s else
  match r with
  | .uncorrectable => if s.onSpare a then s else { s with bad := if s.bad.contains a then s.bad else s.bad ++ [a] }.uncorrEvent a none false
  | _ => s

/-- SCRUB. -/
def execScrub (addr : Nat) (r : ScrubResult) (s : State) : Host.Outcome State Fault Refusal := .next (scrubNow s addr r)

-- Migration (R227, R228).

/-- The MIGRATION record: channel, spare, outcome. -/
def State.migrationRecord (s : State) (ph : Nat) (ok : Bool) : State :=
  s.reelEvent 0x04 (blkIndex .NT) noCx (leBytes 1 ph ++ leBytes 1 (spareOf ph) ++ leBytes 1 (if ok then 0 else 1))

/-- The spare fails: the migration is abandoned, the old channel stays, the spare counts as used (R228). -/
def State.abandonMigration (s : State) (ph : Nat) : State :=
  let s := s.updNt fun t => { t with migration := none }
  let s := (s.setFlag R.NT_REPAIR_STAT_MIGRATING false).setRole (spareOf ph) 3
  let s := (s.bump R.NT_REPAIR_STAT_SPARES_USED).migrationRecord ph false
  (s.repairRecord (ph / 17)).nextMigration

/-- SPARE_TRAINED: the copy begins, or the migration is abandoned. -/
def spareTrainedNow (s : State) (ok : Bool) : State :=
  match s.nt.migration with
  | some m =>
    if m.copying || !s.live then s
    else if ok then (s.updNt fun t => { t with migration := some { m with copying := true, since := s.clock } }).wr R.NT_REPAIR_STAT_PROGRESS 0
    else s.abandonMigration m.src
  | none => s

/-- SPARE_TRAINED. -/
def execSpareTrained (ok : Bool) (s : State) : Host.Outcome State Fault Refusal := .next (spareTrainedNow s ok)

/-- MIGRATION_COPY_END: later requests go to the spare, and the old channel is retired (R227). -/
def migrationEndNow (s : State) : State :=
  match s.nt.migration with
  | some m =>
    if !m.copying || !s.live || decide ((s.clock - m.since) * s.copyRate < channelBytes) then s else
    match s.activeOf m.src with
    | none => s
    | some i =>
      let s := s.updNt fun t => { t with migration := none, phys := (i, 16) :: t.phys.filter fun p => p.1 != i }
      let s := ((s.setRole m.src 3).setRole (spareOf m.src) 0).setFlag R.NT_REPAIR_STAT_MIGRATING false
      let s := (s.wr R.NT_REPAIR_STAT_PROGRESS 255).bump R.NT_REPAIR_STAT_SPARES_USED
      ((s.migrationRecord m.src true).repairRecord (m.src / 17)).nextMigration
  | none => s

/-- MIGRATION_COPY_END. -/
def execMigrationCopyEnd (s : State) : Host.Outcome State Fault Refusal := .next (migrationEndNow s)

end Sys2Proof.Machine
end

