-- ==== Sys2Proof/Machine/Umdin.lean ====
section
/-! DEFINITION. The Umdin image: its layout, its checks and its configuration items (R384 to R386, R388, R391), the fuses
(R391, R392) and the identity of the device (R389). -/

namespace Sys2Proof.Machine

-- Fuses and identity.

/-- The fuse of the life-cycle state. -/
def fuseLc : Nat := 0

/-- The fuse that says that the device secret is present. -/
def fuseSecret : Nat := 1

/-- The fused security-version floor. -/
def fuseFloor : Nat := 2

/-- The number of owner slots used. -/
def fuseOwners : Nat := 3

/-- The digest in an owner slot. -/
def fuseOwner (i : Nat) : Nat := 4 + i

/-- What a fuse reads as where no event of the model has written it: the part is in FIELD with its secret and one owner (log
entry 3). -/
def fuseDefault (k : Nat) : Nat :=
  if k = fuseLc then 2 else if k = fuseSecret then 1 else if k = fuseOwners then 1
  else if k = fuseOwner 0 then Config.ownerDigest.toNat else 0

/-- A fuse. -/
def State.fuse (s : State) (k : Nat) : Nat :=
  match s.boot.fuses.find? fun p => p.1 == k with
  | some p => p.2
  | none => fuseDefault k

/-- Change the state of the start sequence and the security block. -/
def State.updBoot (s : State) (f : Boot → Boot) : State := { s with boot := f s.boot }

/-- Write a fuse. -/
def State.setFuse (s : State) (k v : Nat) : State :=
  s.updBoot fun b => { b with fuses := (k, v) :: b.fuses.filter fun p => p.1 != k }

/-- The 64 bytes of a SHA3-512 digest. -/
def digestOf (bs : List Byte) : List Byte := leBytes 64 (Config.sha3 bs).toNat

/-- The device identifier: the first 16 bytes of the digest of the identity public key (R389). -/
def deviceId : List Byte := (digestOf Config.identityKey).take 16

/-- The bytes of a text of ASCII characters. -/
def asciiBytes (t : String) : List Byte := t.toList.map fun c => BitVec.ofNat 8 c.toNat

/-- The life-cycle state in force: 0 BLANK, 1 MAKER, 2 FIELD, 3 RETURN, 4 SCRAP (R392). -/
def State.lifeCycle (s : State) : Nat := s.rd R.MGT_LC_STATE

-- Layout (R384).

/-- A little-endian number of the image. -/
def imgNat (im : List Byte) (off n : Nat) : Nat := leNat ((im.drop off).take n)

/-- LENGTH. -/
def imgLength (im : List Byte) : Nat := imgNat im 0x1C 4

/-- SVN. -/
def imgSvn (im : List Byte) : Nat := imgNat im 0x14 4

/-- SVN_FLOOR. -/
def imgFloor (im : List Byte) : Nat := imgNat im 0x18 4

/-- Offset of section `k`, 1 to 5. -/
def secOffset (im : List Byte) (k : Nat) : Nat := imgNat im (0x20 + 72 * (k - 1)) 4

/-- Length of section `k`. -/
def secLength (im : List Byte) (k : Nat) : Nat := imgNat im (0x24 + 72 * (k - 1)) 4

/-- The digest of section `k` in the section table. -/
def secDigest (im : List Byte) (k : Nat) : List Byte := (im.drop (0x28 + 72 * (k - 1))).take 64

/-- The bytes of section `k`. -/
def secBytes (im : List Byte) (k : Nat) : List Byte := (im.drop (secOffset im k)).take (secLength im k)

/-- The header: bytes 0x0000 to 0x0FFF. -/
def imgHeader (im : List Byte) : List Byte := im.take 0x1000

/-- The vendor signature. -/
def vendorSig (im : List Byte) : List Byte := (im.drop (imgLength im - 9254)).take 4627

/-- The owner signature. -/
def ownerSig (im : List Byte) : List Byte := (im.drop (imgLength im - 4627)).take 4627

/-- The largest length of section `k`. -/
def secMax (k : Nat) : Nat := if k = 1 then 0x800000 else if k = 2 then 0x400000 else if k = 3 then 0x100000 else 2592

/-- Section `k` lies where R384 allows it: aligned, within its size, after the section before it, before the signatures. -/
def secOk (im : List Byte) (k : Nat) : Bool :=
  let o := secOffset im k
  let n := secLength im k
  o % 4096 == 0 && decide (n ≤ secMax k) && (decide (k ≤ 3) || n == 2592) &&
    (if k = 1 then o == 0x1000 else decide (secOffset im (k - 1) + secLength im (k - 1) ≤ o)) &&
    decide (o + n ≤ imgLength im - 9254)

/-- Check 0x2: the header matches R384, with FORMAT 1 and LENGTH at most 16 MiB. -/
def headerMatches (im : List Byte) : Bool :=
  im.take 16 == asciiBytes "UMDIN-XN896-IMG1" && imgNat im 0x10 4 == 1 && decide (imgLength im ≤ 0x1000000) &&
    decide (0x1000 + 9254 ≤ imgLength im) && (((im.drop 0x188).take 3704).all fun b => b == 0) &&
    [1, 2, 3, 4, 5].all fun k => secOk im k

-- Configuration items (R386).

/-- The items of section 3: ID, the zero bits, VALUE. -/
def itemsFrom : Nat → List Byte → List (Nat × Nat × Nat)
  | 0, _ => []
  | n + 1, bs => (leNat (bs.take 2), leNat ((bs.drop 2).take 6), leNat ((bs.drop 8).take 8)) :: itemsFrom n (bs.drop 16)

/-- The configuration items of an image. -/
def imgItems (im : List Byte) : List (Nat × Nat × Nat) := itemsFrom (secLength im 3 / 16) (secBytes im 3)

/-- The value of an item, if the image has it. -/
def itemOf (im : List Byte) (id : Nat) : Option Nat := ((imgItems im).find? fun i => i.1 == id).map fun i => i.2.2

/-- The value of an item, or its default. -/
def itemOr (im : List Byte) (id d : Nat) : Nat := (itemOf im id).getD d

/-- The value of an item is in its range; an unknown ID has none. -/
def itemInRange (id v : Nat) : Bool :=
  if id = 0x0001 then decide (500 ≤ v) && decide (v ≤ 65535)
  else if id = 0x0002 ∨ id = 0x0003 ∨ id = 0x0004 then decide (v ≤ 1)
  else if id = 0x0005 then decide (1 ≤ v) && decide (v ≤ 16383)
  else if id = 0x0006 then decide (1 ≤ v) && decide (v ≤ 168)
  else if id = 0x0007 then decide (10 ≤ v) && decide (v ≤ 60000)
  else if 0x0010 ≤ id ∧ id ≤ 0x001F then decide (v < 2 ^ 32)
  else decide (0x0020 ≤ id) && decide (id ≤ 0x0027)

/-- The partition entries: those of the image, or the one entry of shared mode (R210). -/
def imgParts (im : List Byte) : List Nat :=
  let ps := (List.range 16).filterMap fun i => itemOf im (0x10 + i)
  if ps.isEmpty then [0xFFFFFFFF] else ps

/-- Masks are non-empty, disjoint, and together cover all sixteen. -/
def masksOk (ms : List Nat) : Bool :=
  (ms.all fun m => m != 0) && (List.range 16).all fun b => (ms.filter fun m => bitAt m b).length == 1

/-- The entries run from 0 with no gap, and their masks meet R210. -/
def partsOk (im : List Byte) : Bool :=
  let n := ((List.range 16).filter fun i => (itemOf im (0x10 + i)).isSome).length
  ((List.range n).all fun i => (itemOf im (0x10 + i)).isSome) &&
    masksOk ((imgParts im).map fun v => v % 65536) && masksOk ((imgParts im).map fun v => v / 65536)

/-- How many of the NEXT_OWNER items the image carries. -/
def nextOwnerCount (im : List Byte) : Nat := ((List.range 8).filter fun i => (itemOf im (0x20 + i)).isSome).length

/-- The next-owner digest that the items hold. -/
def nextOwner (im : List Byte) : Nat :=
  leNat ((List.range 8).flatMap fun i => leBytes 8 (itemOr im (0x20 + i) 0))

/-- Check 0x7, with the number of owner slots used (R386, R391). -/
def itemsOk (im : List Byte) (owners : Nat) : Bool :=
  let l := imgItems im
  secLength im 3 % 16 == 0 && (l.all fun i => i.2.1 == 0 && itemInRange i.1 i.2.2) &&
    (dedup (l.map (·.1))).length == l.length && partsOk im &&
    (nextOwnerCount im == 0 || (nextOwnerCount im == 8 && decide (owners < 4)))

-- The checks of P3 (R385).

/-- The digest of an owner slot, of the newest filled one. -/
def State.boundOwner (s : State) : Nat := s.fuse (fuseOwner (s.fuse fuseOwners - 1))

/-- Check 0x3: the vendor key and the vendor signature. -/
def vendorOk (im : List Byte) : Bool :=
  digestOf (secBytes im 4) == leBytes 64 Config.vendorDigest.toNat &&
    Config.mldsaVerify (secBytes im 4) (imgHeader im) (vendorSig im)

/-- The owner signature verifies. -/
def ownerOk (im : List Byte) : Bool := Config.mldsaVerify (secBytes im 5) (imgHeader im ++ vendorSig im) (ownerSig im)

/-- At the first start in FIELD with every owner slot blank, the digest of section 5 is fused into slot 0 once the vendor
signature has verified (R391). -/
def State.firstOwner (s : State) (im : List Byte) : State :=
  if s.lifeCycle = 2 ∧ s.fuse fuseOwners = 0 then
    (s.setFuse (fuseOwner 0) (Config.sha3 (secBytes im 5)).toNat).setFuse fuseOwners 1
  else s

/-- The part of the checks that follows the vendor's signature: the code of the first that fails, 0 where none does. -/
def State.laterChecks (s : State) (im : List Byte) : Nat :=
  if s.lifeCycle = 2 ∧ ((Config.sha3 (secBytes im 5)).toNat != s.boundOwner || !ownerOk im) = true then 4
  else if !([1, 2, 3, 4, 5].all fun k => digestOf (secBytes im k) == secDigest im k) then 5
  else if imgSvn im < s.fuse fuseFloor ∨ imgSvn im < imgFloor im then 6
  else if !itemsOk im (s.fuse fuseOwners) then 7
  else 0

/-- The checks of an image in their order, on the bytes that its source delivers: the cause, 0 where all pass, and the state
with what the checks fuse (R385, R391). -/
def State.checkImage (s : State) (src : Option (List Byte)) : Nat × State :=
  match src with
  | none => (1, s)
  | some bs =>
    if bs.length < 0x20 ∨ bs.length < imgLength bs then (1, s)
    else
      let im := bs.take (imgLength bs)
      if !headerMatches im then (2, s)
      else if !vendorOk im then (3, s)
      else
        let s := s.firstOwner im
        (s.laterChecks im, s)

/-- The measurements M0 to M5 (R388). -/
def measure (im : List Byte) : List Byte :=
  [1, 2, 3, 4, 5].flatMap (fun k => digestOf (secBytes im k)) ++ digestOf (imgHeader im)

/-- The message and the signature of an authorisation block or a life-cycle token: 48 bytes, then 4,627 (R356, R393). -/
def State.tokenAt (s : State) (a : Nat) : List Byte × List Byte := (s.pread a 48, s.pread (a + 48) 4627)

/-- Take the next nonce. -/
def State.takeNonce (s : State) : Nat × State := ((Config.nonce s.nonces).toNat, { s with nonces := s.nonces + 1 })

end Sys2Proof.Machine
end

