-- ==== Sys2Proof/Machine/Observe.lean ====
section
/-! DEFINITION. Observation: the counters' snapshot, the clapper, rushes, the cut and the reel (R331 to R359). -/

namespace Sys2Proof.Machine

-- The snapshot (R335).

/-- Change the debug unit and the counters. -/
def State.updDbg (s : State) (f : Dbg → Dbg) : State := { s with dbg := f s.dbg }

/-- Sources that count clock cycles, cache traffic or memory traffic: timing, which the model leaves out (log entry 43). -/
def openSources : List Nat := [0x001, 0x030, 0x031, 0x032, 0x040, 0x041, 0x042, 0x050, 0x051, 0x063]

/-- Programmable counter `i` counts such a source now, so that its value is open. -/
def State.counterOpen (s : State) (i : Nat) : Bool := s.flag R.PMC_SEL_EN 0 i && openSources.contains (s.rd R.PMC_SEL_SOURCE 0 i)

/-- The open counters take free values, for a snapshot or as their source is written. -/
def State.settleCounters (s : State) (is : List Nat) : State :=
  (is.filter fun i => s.counterOpen i).foldl (fun s i =>
    let (v, s) := s.takeFree
    s.wr R.PMC_CNT_VALUE v 0 i) s

/-- Every programmable counter that is not zero, by its offset in PMC. -/
def State.counters (s : State) : List (Nat × BitVec 64) :=
  let lo := R.PMC_CNT_VALUE.addr
  (s.regs.filter fun r => decide (lo ≤ r.1) && decide (r.1 < lo + 8 * 128)).map fun r => (r.1 - blkBase .PMC, r.2)

/-- A host write to PMC.CTL. -/
def pmcCtlWrite (s : State) (w : HW) : State :=
  let s := s.puts w [R.PMC_CTL_READ_SNAP, R.PMC_CTL_VECTOR]
  if w.one R.PMC_CTL_SNAP then
    let s := s.settleCounters (List.range 128)
    s.updDbg fun d => { d with snap := s.counters }
  else s

/-- A host write to PMC.SEL_i: a counter whose source was open keeps the value it stood at (R334). -/
def pmcSelWrite (s : State) (i : Nat) (w : HW) : State :=
  (s.settleCounters [i]).puts w [R.PMC_SEL_SOURCE, R.PMC_SEL_UNIT, R.PMC_SEL_CX, R.PMC_SEL_EN, R.PMC_SEL_EVT_EN] 0 i

/-- SNAP. -/
def execSnap (v : Word) (s : State) : Host.Outcome State Fault Refusal :=
  .next (s.hostGate .PMC 0 R.PMC_CTL_SNAP.off fun s =>
    if (hw8 v.toNat).one R.PMC_CTL_SNAP then pmcCtlWrite s (hw8 v.toNat) else s)

-- The clapper (R337 to R339).

/-- A host write to TSU.CLAP. -/
def clapWrite (s : State) (w : HW) : State :=
  let s := s.put w R.TSU_CLAP_MASTER
  if w.one R.TSU_CLAP_RUN then s.clapStart.settle else s

/-- CLAPPER_RUN. -/
def execClapperRun (v : Word) (s : State) : Host.Outcome State Fault Refusal :=
  .next (s.hostGate .TSU 0 R.TSU_CLAP_RUN.off fun s =>
    if (hw8 v.toNat).one R.TSU_CLAP_RUN then clapWrite s (hw8 v.toNat) else s)

/-- CLAPPER_TIMEOUT: the master has not replied within 10 ms. -/
def clapTimeout (s : State) : State :=
  if s.flag R.TSU_CLAP_BUSY && decide (10000000 + s.tsu.began ≤ s.clock) then s.clapEnd false else s

/-- CLAPPER_TIMEOUT. -/
def execClapperTimeout (s : State) : Host.Outcome State Fault Refusal := .next (clapTimeout s)

/-- The round trip of a sample, and the offset that it gives, rounded down. -/
def tripOf (x : Nat × Nat × Nat × Nat × Nat) : Int × Int :=
  let (_, t1, t2, t3, t4) := x
  (((t4 : Int) - t1) - ((t3 : Int) - t2), (((t2 : Int) - t1) + ((t3 : Int) - t4)) / 2)

/-- The sample with the smallest round trip, the earliest of equal ones. -/
def bestTrip : List (Nat × Nat × Nat × Nat × Nat) → Int × Int
  | [] => (0, 0)
  | x :: t => t.foldl (fun b y => if (tripOf y).1 < b.1 then tripOf y else b) (tripOf x)

/-- A run has its samples: the first since start applies its offset at once, a later one slews (R339). -/
def State.clapDone (s : State) : State :=
  let (rtt, off) := bestTrip s.tsu.samples
  let s := s.wr R.TSU_CLAP_RTT_NS (stick 0xFFFF rtt.toNat)
  let s := if s.tsu.ran then s else s.wr R.TSU_OFFSET (unsignedOf 64 off)
  (s.updTsu fun t => { t with ran := true, goal := off }).clapEnd true

/-- A reply of the master is a sample, and the next request follows, or the run ends. -/
def State.clapReply (s : State) (f : Frame) : State :=
  let n (o k : Nat) : Nat := leNat ((f.payload.drop o).take k)
  if !s.flag R.TSU_CLAP_BUSY || f.srcDev != s.clapMaster || n 1 1 != s.tsu.samples.length then s else
  let s := s.updTsu fun t => { t with samples := t.samples ++ [(n 1 1, t.began, n 16 8, n 24 8, s.clock)] }
  if s.tsu.samples.length < 64 then s.clapAsk else s.clapDone

/-- A CLAPPER frame: a request is answered with the times of this device, a reply is a sample. -/
def clapTake (f : Frame) (s : State) : State :=
  let n (o k : Nat) : Nat := leNat ((f.payload.drop o).take k)
  if n 0 1 = 0 then s.sendFrames [clapFrame s.dev f.srcDev 1 (n 1 1) (n 2 2) (n 8 8) s.now s.now]
  else if n 0 1 = 1 then s.clapReply f
  else s

/-- CLAPPER. -/
def execClapper (p : Fin 18) (f : Frame) (s : State) : Host.Outcome State Fault Refusal := .next (receive p f 12 clapTake s)

-- Rushes (R340 to R345).

/-- Recording is enabled: numbers count from 0 again. -/
def State.rushOn (s : State) : State :=
  let s := (s.wr R.DBG_RUSH_POS_SEQ_NEXT 0).setFlag R.DBG_RUSH_STAT_SPILL_LOST false
  let s := s.updDbg fun d => { d with count := 0, left := none, spilling := true, spillOk := none }
  if s.rd R.DBG_RUSH_STAT_STATE = 0 then s.wr R.DBG_RUSH_STAT_STATE 1 else s

/-- Recording is disabled; a recorder that was stopped or frozen stays so until REARM (R342). -/
def State.rushOff (s : State) : State :=
  if s.rd R.DBG_RUSH_STAT_STATE = 1 then s.wr R.DBG_RUSH_STAT_STATE 0 else s

/-- REARM: a stopped or frozen recorder starts again, and TRIGGERED is cleared (R342). -/
def State.rearmNow (s : State) : State :=
  let s := s.setFlag R.DBG_RUSH_STAT_TRIGGERED false
  if 2 ≤ s.rd R.DBG_RUSH_STAT_STATE then
    (s.wr R.DBG_RUSH_STAT_STATE (if s.flag R.DBG_RUSH_CTL_EN then 1 else 0)).updDbg fun d => { d with count := 0, left := none }
  else s.updDbg fun d => { d with left := none }

/-- A host write to DBG.RUSH_CTL: while EN is 1, only EN, REARM and CX_MASK are written (R359). -/
def rushCtlWrite (s : State) (w : HW) : State :=
  let was := s.flag R.DBG_RUSH_CTL_EN
  let s := if was then s else
    s.puts w [R.DBG_RUSH_CTL_MODE, R.DBG_RUSH_CTL_SPILL, R.DBG_RUSH_CTL_SPILL_CX, R.DBG_RUSH_CTL_PRE, R.DBG_RUSH_CTL_CLASSES]
  let s := s.puts w [R.DBG_RUSH_CTL_EN, R.DBG_RUSH_CTL_CX_MASK]
  let s := if !was && s.flag R.DBG_RUSH_CTL_EN then s.rushOn else if was && !s.flag R.DBG_RUSH_CTL_EN then s.rushOff else s
  if w.one R.DBG_RUSH_CTL_REARM then s.rearmNow else s

/-- REARM. -/
def execRearm (v : Word) (s : State) : Host.Outcome State Fault Refusal :=
  .next (s.hostGate .DBG 0 R.DBG_RUSH_CTL_EN.off fun s =>
    if (hw8 v.toNat).one R.DBG_RUSH_CTL_REARM then rushCtlWrite s (hw8 v.toNat) else s)

/-- A host write to DBG.RUSH_TRIG. -/
def rushTrigWrite (s : State) (w : HW) : State :=
  let s := s.puts w [R.DBG_RUSH_TRIG_SOURCES, R.DBG_RUSH_TRIG_CUT_ON_TRIG, R.DBG_RUSH_TRIG_TAG, R.DBG_RUSH_TRIG_TAG_MASK]
  if w.one R.DBG_RUSH_TRIG_NOW then (s.trigger 4 0).settle else s

/-- TRIGGER_NOW. -/
def execTriggerNow (v : Word) (s : State) : Host.Outcome State Fault Refusal :=
  .next (s.hostGate .DBG 0 R.DBG_RUSH_TRIG_SOURCES.off fun s =>
    if (hw8 v.toNat).one R.DBG_RUSH_TRIG_NOW then rushTrigWrite s (hw8 v.toNat) else s)

-- The cut (R346 to R348).

/-- A cut order has been made in the present CCLK. -/
def State.cutNowActed (s : State) : Bool := s.boot.acted.any fun p => p.1 == objCut && p.2 == s.clock

/-- A host write to DBG.CUT_CTL: an order made after another of the same CCLK is superseded, and the write dropped (R416). -/
def cutCtlWrite (s : State) (w : HW) : State :=
  if w.one R.DBG_CUT_CTL_NOW && s.cutNowActed then s.supHost .DBG 0 R.DBG_CUT_CTL_NOW.off else
  let s := s.puts w [R.DBG_CUT_CTL_ACCEPT, R.DBG_CUT_CTL_LEAD_NS, R.DBG_CUT_CTL_SET_COUNT, R.DBG_CUT_CTL_VECTOR]
  if w.one R.DBG_CUT_CTL_NOW then (s.orderCut.act objCut).settle else s

/-- CUT_NOW. -/
def execCutNow (v : Word) (s : State) : Host.Outcome State Fault Refusal :=
  .next (s.hostGate .DBG 0 R.DBG_CUT_CTL_NOW.off fun s =>
    if (hw8 v.toNat).one R.DBG_CUT_CTL_NOW then cutCtlWrite s (hw8 v.toNat) else s)

/-- A host write to DBG.CUT_AT: a time arms a timed cut, and goes to the cut set; 0 arms nothing (R346, R348). -/
def cutAtWrite (s : State) (w : HW) : State :=
  match w.get R.DBG_CUT_AT_AT with
  | none => s
  | some t =>
    let s := s.wr R.DBG_CUT_AT_AT t
    if t = 0 then s else
    let k := s.dbg.cuts + 1
    let s := s.updDbg fun d => { d with cuts := k }
    let s := s.armTimed t s.dev k false
    (if s.rd R.DBG_CUT_CTL_SET_COUNT = 0 then s else s.sendCuts t k).settle

/-- CUT_AT. -/
def execCutAt (v : Word) (s : State) : Host.Outcome State Fault Refusal :=
  .next (s.hostGate .DBG 0 R.DBG_CUT_AT_AT.off fun s => cutAtWrite s (hw8 v.toNat))

/-- A CUT frame: T_CUT is armed where ACCEPT is 1, else the frame is dropped (R348). -/
def cutTake (f : Frame) (s : State) : State :=
  let n (o k : Nat) : Nat := leNat ((f.payload.drop o).take k)
  if s.flag R.DBG_CUT_CTL_ACCEPT then s.armTimed (n 0 8) (n 8 2) (n 10 4) true else s

/-- CUT. -/
def execCut (p : Fin 18) (f : Frame) (s : State) : Host.Outcome State Fault Refusal := .next (receive p f 13 cutTake s)

-- The reel (R351 to R357).

/-- Change the recorder. -/
def State.updRec (s : State) (f : Rec → Rec) : State := { s with recd := f s.recd }

/-- The message that an authorisation of a clear signs (R356). -/
def State.clearMessage (s : State) : List Byte :=
  asciiBytes "XN896 REEL CLEAR" ++ deviceId ++ leBytes 8 (s.rd R.REC_NONCE) ++ leBytes 4 (s.rd R.REC_STAT_SEQ_NEXT) ++ leBytes 4 0

/-- The valid records of the log. -/
def State.logRecords (s : State) : Nat := (s.reel.filter fun r => decide (16 ≤ r.1)).length

/-- The log is erased; slots 0 to 15 and SEQ stay. The CLEAR record is the first of the new log, and a mode that waited takes
effect with a MODE record (R354, R356). -/
def State.clearLog (s : State) : State :=
  let n := s.logRecords
  let s := { s with reel := s.reel.filter fun r => decide (r.1 < 16) }
  let s := s.updRec fun r => { r with pos := 0, newest := none, held := 0 }
  let key := (digestOf (secBytes s.boot.image 5)).take 8
  let pend := s.flag R.REC_STAT_MODE_PENDING
  let s := if pend then
      let s := (s.setFlag R.REC_STAT_MODE s.recd.imageMode).wr R.REC_STAT_KEEP s.recd.imageN
      (s.setFlag R.REC_STAT_MODE_PENDING false).updRec fun r => { r with n := r.imageN }
    else s
  let s := s.recWrite ⟨0x0D, blkIndex .REC, noCx, key ++ leBytes 4 n, s.now⟩
  if pend then
    s.recWrite ⟨0x15, blkIndex .REC, noCx, leBytes 1 (s.rd R.REC_STAT_MODE) ++ leBytes 2 (s.rd R.REC_STAT_KEEP), s.now⟩
  else s

/-- A clear is made: the authorisation block is checked against the owner key of the image; in either case NONCE changes. -/
def State.clearNow (s : State) (a : Nat) : State :=
  let t := s.tokenAt a
  let ok := t.1 == s.clearMessage && Config.mldsaVerify (secBytes s.boot.image 5) t.1 t.2
  let s := if ok then s.clearLog.wr R.REC_STAT_CLEAR_RESULT 1
    else (s.reelEvent 0x0E (blkIndex .REC) noCx (leBytes 1 1)).wr R.REC_STAT_CLEAR_RESULT 2
  let (v, s) := s.takeNonce
  s.wr R.REC_NONCE v

/-- FREEZE returns to 0: the queue is written, then a clear that waited is made (R355, R358). -/
def State.unfreeze (s : State) : State :=
  let s := (s.setFlag R.REC_STAT_FROZEN false).thaw
  match s.recd.clearDue with
  | some a => (s.updRec fun r => { r with clearDue := none }).clearNow a
  | none => s

/-- FREEZE is set: the held repeat count is written first (R353). -/
def State.freezeNow (s : State) : State :=
  let s := s.flushRepeat
  let s := (s.wr R.REC_CTL_FREEZE 1).setFlag R.REC_STAT_FROZEN true
  s.updRec fun r => { r with frozeAt := s.clock }

/-- A host write to REC.CTL. -/
def recCtlWrite (s : State) (w : HW) : State :=
  match w.get R.REC_CTL_FREEZE with
  | none => s
  | some v => if v = s.rd R.REC_CTL_FREEZE then s else if v = 1 then s.freezeNow else s.unfreeze

/-- FREEZE. -/
def execFreeze (v : Word) (s : State) : Host.Outcome State Fault Refusal :=
  .next (s.hostGate .REC 0 R.REC_CTL_FREEZE.off fun s => recCtlWrite s (hw8 v.toNat))

/-- FREEZE_EXPIRY: FREEZE has stood for 10 s. -/
def freezeExpiryNow (s : State) : State :=
  if s.flag R.REC_CTL_FREEZE && !s.recd.stopped && decide (10000000000 + s.recd.frozeAt ≤ s.clock) then
    (s.setFlag R.REC_STAT_FREEZE_EXPIRED true).unfreeze
  else s

/-- FREEZE_EXPIRY. -/
def execFreezeExpiry (s : State) : Host.Outcome State Fault Refusal := .next (freezeExpiryNow s)

/-- REPEAT_FLUSH: a millisecond has passed since the newest record was last written. -/
def repeatFlushNow (s : State) : State :=
  if s.recd.held != 0 && !s.flag R.REC_CTL_FREEZE && !s.recd.stopped && decide (1000000 + s.recd.wroteAt ≤ s.clock) then s.flushRepeat
  else s

/-- REPEAT_FLUSH. -/
def execRepeatFlush (s : State) : Host.Outcome State Fault Refusal := .next (repeatFlushNow s)

/-- A host write to REC.CLEAR: made at once, or once FREEZE has returned to 0 (R358). -/
def clearWrite (s : State) (w : HW) : State :=
  match w.get R.REC_CLEAR_ADDR with
  | none => s
  | some v =>
    let a := v * 64
    if s.flag R.REC_CTL_FREEZE then s.updRec fun r => { r with clearDue := some a } else s.clearNow a

/-- CLEAR. -/
def execClear (v : Word) (s : State) : Host.Outcome State Fault Refusal :=
  .next (s.hostGate .REC 0 R.REC_CLEAR_ADDR.off fun s => clearWrite s (hw8 v.toNat))

end Sys2Proof.Machine
end

