-- ==== Sys2Proof/Machine/Start.lean ====
section
/-! DEFINITION. Starts, trust, the life-cycle, SAFE (R378 to R402), and the fall and rise of PWRFAIL_N (R357, R427). -/

namespace Sys2Proof.Machine

-- SAFE (R399, R400).

/-- The device enters SAFE, unless it is in SAFE, HALTED or cut or its power fails: every context is torn down, every engine
and BST stop; the ports follow after 1 ms (R400). -/
def State.enterSafe (s : State) (unit test : Nat) : State :=
  if 3 ≤ s.rd R.MGT_START_STATE ∨ s.flag R.DBG_CUT_STAT_CUT = true ∨ s.recd.stopped = true then s else
  let s := (List.range 16).foldl (fun s c => s.faultCx c { code := 0x0A }) s
  let s := { s with slice := {} }.setFlag R.BST_STAT_ACTIVE false
  let s := (s.wr R.MGT_START_SAFE_UNIT unit).setStart stSafe
  let s := s.updBoot fun b => { b with safeAt := some s.clock, safeTest := test }
  (s.act objDevice).settle

/-- What sent the device to SAFE, in a SAFE record: a test that failed. -/
def testFailed : Nat := 1

/-- An order to enter SAFE, of the thermal sensors, the TAP or the board controller. -/
def safetyOrder : Nat := 2

/-- SAFE_PORT_SHUTDOWN: 1 ms after SAFE entry the ports go DOWN, then the SAFE record is written and the vector raised (R400). -/
def portShutdown (s : State) : State :=
  match s.boot.safeAt with
  | none => s
  | some t =>
    if s.rd R.MGT_START_STATE != 3 || !s.portsLive || decide (s.clock < 1000000 + t) then s else
    let s := (List.range 18).foldl (fun s p => if s.portState p == 4 then s else s.portDown p false) s
    let s := { s with txWait := [] }.updBoot fun b => { b with safeAt := none }
    let s := s.reelEvent 0x12 (blkIndex .MGT) noCx (leBytes 1 (s.rd R.MGT_START_SAFE_UNIT) ++ leBytes 1 s.boot.safeTest)
    s.msix (s.rd R.MGT_START_SAFE_VECTOR)

/-- SAFE_PORT_SHUTDOWN. -/
def execSafePortShutdown (s : State) : Host.Outcome State Fault Refusal := .next (portShutdown s)

/-- JUNCTION_OVERTEMP: a SAFETY order (R370). -/
def execJunctionOvertemp (s : State) : Host.Outcome State Fault Refusal := .next (s.enterSafe 0 safetyOrder)

-- The beginning of a start (R378).

/-- A start begins: only the fuses and the reel store, with its header, carry over; nonces are new. What waits outside and what
has left the block stay what they are. -/
def State.beginStart (s : State) : State :=
  let r : State := { State.reset with
    pending := s.pending, reel := s.reel, outs := s.outs, free := s.free, nonces := s.nonces,
    recd := { n := s.recd.n },
    boot := { fuses := s.boot.fuses, acted := [(objDevice, 0)] } }
  let r := (r.wr R.REC_STAT_MODE (s.rd R.REC_STAT_MODE)).wr R.REC_STAT_KEEP (s.rd R.REC_STAT_KEEP)
  let r := (r.wr R.MGT_START_STATE 0).wr R.MGT_START_PHASE 0
  let r := if s.rd R.MGT_START_STATE = 0 then r else r.emit (.ibi 0)
  let (v, r) := r.takeNonce
  let r := r.wr R.REC_NONCE v
  let (v, r) := r.takeNonce
  r.wr R.MGT_LC_NONCE_NONCE v

/-- The phase that a start is in. -/
def State.inPhase (s : State) (k : Nat) : Bool :=
  s.rd R.MGT_START_STATE == 0 && s.rd R.MGT_START_PHASE == k && !s.recd.stopped

/-- PWRFAIL_N_RISE: a start begins at P0. -/
def execPwrfailRise (s : State) : Host.Outcome State Fault Refusal :=
  .next (if s.boot.pwrfail then s else s.beginStart)

/-- PWRFAIL_N falls: everything stops; REC completes its record, writes the held count and a PWRFAIL record, and nothing more
(R357, R358, R427). -/
def pwrfailFallNow (s : State) : State :=
  if !s.boot.pwrfail then s else
  let s := s.updRec fun r => { r with queue := [], lost := 0, clearDue := none }
  let s := s.flushRepeat
  let s := s.recWrite ⟨0x11, blkIndex .REC, noCx, [], s.now⟩
  (s.updRec fun r => { r with stopped := true }).updBoot fun b => { b with pwrfail := false }

/-- PWRFAIL_N_FALL. -/
def execPwrfailFall (s : State) : Host.Outcome State Fault Refusal := .next (pwrfailFallNow s)

-- P0: fuses and the reel store (R357, R379, R392).

/-- The record in a slot's word is valid: its CRC and its COMMIT match its bytes (R352). -/
def recordValid (w : BitVec 512) : Bool :=
  let v := w.toNat
  bitsAt v 448 32 == crc32c (leBytes 56 v) && bitsAt v 504 8 == (v % 256).xor 0xC3

/-- The valid record with the highest SEQ: slot and SEQ. -/
def newestOf (l : List (Nat × BitVec 512)) : Option (Nat × Nat) :=
  l.foldl (fun b r => if !recordValid r.2 then b else
    let q := bitsAt r.2.toNat 0 32
    match b with
    | some (_, m) => if m ≤ q then some (r.1, q) else b
    | none => some (r.1, q)) none

/-- MGT reads the reel store: the log goes on after its newest valid record, and each torn log slot is recorded (R357). -/
def State.scanReel (s : State) : State :=
  let log := s.reel.filter fun r => decide (16 ≤ r.1)
  let s := s.wr R.REC_STAT_SEQ_NEXT (match newestOf s.reel with | some (_, q) => q + 1 | none => 0)
  let s := s.updRec fun r => match newestOf log with
    | some (k, _) => { r with pos := k - 15, newest := some k }
    | none => { r with pos := 0, newest := none }
  (log.filter fun r => !recordValid r.2).foldl (fun s r =>
    s.reelEvent 0x10 (blkIndex .REC) noCx (leBytes 2 r.1 ++ leBytes 4 r.2.toNat)) s

/-- FUSE: the end of P0. BLANK and SCRAP halt. -/
def fuseEnd (s : State) : State :=
  if !s.inPhase 0 then s else
  let lc := s.fuse fuseLc
  let s := ((s.wr R.MGT_LC_STATE lc).wr R.MGT_LC_SECRET (s.fuse fuseSecret)).wr R.MGT_LC_OWNERS (s.fuse fuseOwners)
  let s := s.scanReel
  if lc = 0 ∨ lc = 4 then s.setStart stHalted else s.wr R.MGT_START_PHASE 1

/-- FUSE. -/
def execFuse (s : State) : Host.Outcome State Fault Refusal := .next (fuseEnd s)

-- P1 to P3 (R379, R382, R385).

/-- SEC_TEST: the end of P1; a failure enters SAFE (R398). -/
def execSecTest (ok : Bool) (s : State) : Host.Outcome State Fault Refusal :=
  .next (if !s.inPhase 1 then s else if ok then s.wr R.MGT_START_PHASE 2 else s.enterSafe (blkIndex .SEC) testFailed)

/-- KEYS: the end of P2. -/
def execKeys (s : State) : Host.Outcome State Fault Refusal := .next (if s.inPhase 2 then s.wr R.MGT_START_PHASE 3 else s)

/-- XSPI_MODE_TIMEOUT: this start reads the flash in 1S-1S-1S. -/
def execXspiModeTimeout (s : State) : Host.Outcome State Fault Refusal :=
  .next (if s.inPhase 3 then s.updBoot fun b => { b with xspi1s := true } else s)

/-- A failure of P3: RECOVERY with its cause and a record (R381, R385). -/
def State.recovery (s : State) (cause : Nat) : State :=
  ((s.wr R.MGT_START_CAUSE cause).reelEvent 0x13 (blkIndex .MGT) noCx (leBytes 1 cause)).setStart stRecovery

/-- The image in use, its measurements, and what its items govern (R386, R388). -/
def State.useImage (s : State) (im : List Byte) : State :=
  let s := s.updBoot fun b => { b with image := im, measures := measure im }
  let s := (List.range 16).foldl (fun s c => s.wr R.CX_LEARN_RISE_AFTER (itemOr im 0x0001 2000) c) s
  let s := s.wr R.NT_CFG_SHARE (itemOr im 0x0002 0)
  let s := s.wr R.MGT_POPULATION_UD_AVAIL (itemOr im 0x0003 1)
  let mode := itemOr im 0x0004 0 == 1
  let keep := itemOr im 0x0005 1
  let s := s.updRec fun r => { r with imageMode := mode, imageN := keep }
  let s := s.setFlag R.REC_STAT_MODE_PENDING (s.flag R.REC_STAT_MODE != mode || s.rd R.REC_STAT_KEEP != keep)
  (s.wr R.BST_CFG_ROUND_H (itemOr im 0x0006 24)).wr R.BST_CFG_GAP_MS (itemOr im 0x0007 100)

/-- Check an image and go on with P4, or be in RECOVERY. -/
def State.tryImage (s : State) (src : Option (List Byte)) (pushed : Bool) : State :=
  let (k, s) := s.checkImage src
  if k != 0 then s.recovery k
  else
    let im := (src.getD []).take (imgLength (src.getD []))
    let s := (s.useImage im).setFlag R.MGT_START_PUSHED pushed
    (s.setStart stStarting).wr R.MGT_START_PHASE 4

/-- IMAGE: the end of P3, with the bytes that the flash delivers. -/
def execImage (flash : Option (List Byte)) (s : State) : Host.Outcome State Fault Refusal :=
  .next (if s.inPhase 3 then s.tryImage flash false else s)

/-- A host write to MGT.PUSH: in RECOVERY the image in scratch is checked (R387). -/
def pushWrite (s : State) (w : HW) : State :=
  if !w.one R.MGT_PUSH_GO || s.rd R.MGT_START_STATE != 1 then s else
  let n := min ((w.get R.MGT_PUSH_LEN).getD 0) 0x1000000
  (s.tryImage (some (s.pread scratchBase n)) true).act objDevice

/-- PUSH. -/
def execPush (v : Word) (s : State) : Host.Outcome State Fault Refusal :=
  .next (s.hostGate .MGT 0 R.MGT_PUSH_GO.off fun s => pushWrite s (hw8 v.toNat))

-- P4 to P7 (R230, R233, R239, R379).

/-- SELF_TEST: the end of P4. A failure enters SAFE; else P5 and P6 begin, and the ports train. -/
def selfTestEnd (s : State) (failed : Option Nat) : State :=
  if !s.inPhase 4 then s else
  match failed with
  | some u => s.enterSafe (u % 256) testFailed
  | none =>
    let s := s.wr R.MGT_START_PHASE 5
    ((List.range 18).foldl (fun s p => if s.flag R.LK_CTL_EN p then s.train p else s.setPort p 4) s).rollEnd

/-- SELF_TEST. -/
def execSelfTest (failed : Option Nat) (s : State) : Host.Outcome State Fault Refusal := .next (selfTestEnd s failed)

/-- P5 or P6 runs. -/
def State.inMemory (s : State) : Bool := s.inPhase 5 || s.inPhase 6

/-- What the REPAIR record of a stack says: the roles, and the channel that the spare stands for (255: none). -/
def State.repairRead (s : State) (j : Nat) : Nat × Nat :=
  let w := s.reelSlot (1 + j)
  if recordValid w ∧ bitsAt w.toNat 96 8 = 3 then (bitsAt w.toNat 152 40, bitsAt w.toNat 192 8) else (0x100000000, 255)

/-- The map of one stack (R230): the channel that the spare stands for (255: none), and the channels removed. `bad` are the
channels of the stack that fail training or test now. -/
def stackMap (roles repl : Nat) (bad : List Nat) : Nat × List Nat :=
  let failed := (List.range 16).filter fun k => k != repl && (bad.contains k || bitsAt roles (2 * k) 2 == 3)
  let spareGood := !bad.contains 16
  if repl < 16 then (if spareGood then (repl, failed) else (255, sortBy id (repl :: failed)))
  else match failed with
    | [] => (255, [])
    | k :: t => if spareGood && bitsAt roles 32 2 == 1 then (k, t) else (255, k :: t)

/-- The roles of a stack after a start. -/
def mapRoles (m : Nat × List Nat) (spareGood : Bool) : Nat :=
  (List.range 16).foldl (fun v k => v + (if k = m.1 ∨ m.2.contains k = true then 3 else 0) * 4 ^ k)
    ((if m.1 < 16 then 0 else if spareGood then 1 else 3) * 4 ^ 16)

/-- Lay out the domains of the partitions of the image (R208, R210). -/
def State.layDomains (s : State) : State :=
  let ps := imgParts s.boot.image
  let s := s.wr R.NT_CFG_PARTS ps.length
  ((List.range 16).foldl (fun (q : State × Nat) i =>
    let v := nth 0 ps i
    let sets := v % 65536
    let n := 6 * ((List.range 192).filter fun k => bitAt sets (k / 12) && !s.nt.removed.contains k).length
    let s := ((q.1.wr R.NT_PART_SETS sets 0 i).wr R.NT_PART_WAYS (v / 65536) 0 i).wr R.NT_PART_BASE_GIB q.2 0 i
    (s.wr R.NT_PART_SIZE_GIB n 0 i, q.2 + n)) (s, 0)).1

/-- Packages in use: the largest of 32, 24 and 16 for which every package below passes; 0 for none (R233). -/
def slowInUse (slow : List (Option Bool)) : Nat :=
  match [32, 24, 16].find? fun n => (List.range n).all fun p => nth none slow p == some true with
  | some n => n
  | none => 0

/-- The near tier is mapped stack by stack: roles, moved and removed channels (R230). -/
def State.mapNear (s : State) (bad : List Nat) : State :=
  (List.range 12).foldl (fun s j =>
    let (roles, repl) := s.repairRead j
    let mine := (bad.filter fun ph => ph / 17 == j).map fun ph => ph % 17
    let m := stackMap roles repl mine
    let spareGood := !mine.contains 16 && bitsAt roles 32 2 == 1
    let s := s.wr R.NT_CHMAP_ROLE (mapRoles m spareGood) 0 j
    let s := if m.1 < 16 ∨ spareGood = false then s.bump R.NT_REPAIR_STAT_SPARES_USED else s
    s.updNt fun t => { t with phys := t.phys ++ (if m.1 < 16 then [(12 * m.1 + j, 16)] else []),
                              removed := t.removed ++ m.2.map fun k => 12 * k + j }) s

/-- MEMORY: the end of P5. The tiers are mapped, or the device enters SAFE (R230, R231, R233). -/
def memoryEnd (s : State) (bad : List Nat) (slow : List (Option Bool)) : State :=
  if !s.inMemory || s.boot.memDone then s else
  let s := s.mapNear bad
  let lost (j : Nat) : Nat := (s.nt.removed.filter fun i => i % 12 == j).length
  let s := (List.range 12).foldl (fun s j => s.repairRecord j) s
  let s := s.wr R.MGT_POPULATION_NEAR_CH_LIVE (192 - s.nt.removed.length)
  let s := (s.wr R.MGT_POPULATION_NEAR_GIB (1152 - 6 * s.nt.removed.length)).layDomains
  let n := slowInUse slow
  let s := (List.range 32).foldl (fun s p =>
    if n ≤ p ∧ nth none slow p ≠ none then s.reelEvent 0x05 (blkIndex .UD) noCx (leBytes 1 p) else s) s
  let s := s.wr R.MGT_POPULATION_SLOW_PKGS n
  if (List.range 12).any fun j => decide (4 < lost j) then s.enterSafe (blkIndex .NT) testFailed
  else if n = 0 then s.enterSafe 150 testFailed
  else (s.updBoot fun b => { b with memDone := true }).wr R.MGT_START_PHASE 6

/-- MEMORY. -/
def execMemory (nearBad : List Nat) (slow : List (Option Bool)) (s : State) : Host.Outcome State Fault Refusal :=
  .next (memoryEnd s nearBad slow)

/-- FABRIC: the end of P6, with training, roll call and the first run of the clapper over. -/
def fabricEnd (s : State) : State :=
  if !s.inMemory || s.boot.fabDone || (List.range 18).any (fun p => s.portState p == 1 || s.portState p == 2) ||
      s.flag R.TSU_CLAP_BUSY || !(s.flag R.TSU_CLAP_DONE || s.flag R.TSU_CLAP_FAIL) then s
  else (s.updBoot fun b => { b with fabDone := true }).wr R.MGT_START_PHASE 6

/-- FABRIC. -/
def execFabric (s : State) : Host.Outcome State Fault Refusal := .next (fabricEnd s)

/-- After P7 the fused floor rises, and the digest of a next owner is fused (R385, R391). -/
def State.afterRelease (s : State) : State :=
  let im := s.boot.image
  let s := if s.fuse fuseFloor < imgFloor im then s.setFuse fuseFloor (imgFloor im) else s
  let n := s.fuse fuseOwners
  if nextOwnerCount im = 8 ∧ 0 < n ∧ n < 4 ∧ (Config.sha3 (secBytes im 5)).toNat = s.boundOwner ∧ ownerOk im = true then
    (s.setFuse (fuseOwner n) (nextOwner im)).setFuse fuseOwners (n + 1)
  else s

/-- RELEASE: the START record, and READY (R379). -/
def releaseNow (s : State) : State :=
  if !s.inMemory || !s.boot.memDone || !s.boot.fabDone then s else
  let s := s.wr R.MGT_START_PHASE 7
  let s := s.reelEvent 0x01 (blkIndex .MGT) noCx (leBytes 1 s.lifeCycle ++ s.boot.measures.take 8 ++
    leBytes 1 (s.rd R.MGT_POPULATION_SLOW_PKGS) ++ leBytes 1 (s.rd R.MGT_POPULATION_NEAR_CH_LIVE) ++
    leBytes 1 (s.rd R.MGT_POPULATION_UD_AVAIL))
  (s.setStart stReady).afterRelease

/-- RELEASE. -/
def execRelease (s : State) : Host.Outcome State Fault Refusal := .next (releaseNow s)

-- Attestation (R390).

/-- SEC can attest: a life-cycle state with attestation, and memories not cleared for scan. -/
def State.attests (s : State) : Bool := (s.lifeCycle == 1 || s.lifeCycle == 2) && !s.boot.secOff

/-- A host write to SEC.ATT_CTL. -/
def attCtlWrite (s : State) (w : HW) : State :=
  if !w.one R.SEC_ATT_CTL_GO || s.flag R.SEC_ATT_CTL_BUSY then s
  else if s.attests then s.setFlag R.SEC_ATT_CTL_BUSY true
  else s.wr R.SEC_ATT_CTL_RESULT 2

/-- ATTESTATION_REQUEST. -/
def execAttestationRequest (v : Word) (s : State) : Host.Outcome State Fault Refusal :=
  .next (s.hostGate .SEC 0 R.SEC_ATT_CTL_GO.off fun s => attCtlWrite s (hw8 v.toNat))

/-- Bytes 0 to 511 of the report. -/
def State.reportBody (s : State) : List Byte :=
  asciiBytes "XN896 ATTEST RPT" ++ deviceId ++ leBytes 1 s.lifeCycle ++ leBytes 1 (s.rd R.MGT_START_STATE) ++
    leBytes 1 (s.rd R.MGT_START_PUSHED) ++ leBytes 1 (s.rd R.MGT_LC_OWNERS) ++ leBytes 4 (imgSvn s.boot.image) ++
    leBytes 4 (s.fuse fuseFloor) ++ ((List.range 8).flatMap fun i => leBytes 8 (s.rd R.SEC_NONCE 0 i)) ++
    (s.boot.measures ++ List.replicate 384 0).take 384 ++ List.replicate 20 0

/-- ATTESTATION_REPORT: the signed report stands in SEC's window. -/
def reportDone (s : State) : State :=
  if !s.flag R.SEC_ATT_CTL_BUSY || s.recd.stopped || s.flag R.DBG_CUT_STAT_CUT then s else
  let b := s.reportBody
  let s := s.updBoot fun x => { x with report := b ++ (Config.mldsaSign b ++ List.replicate 4627 0).take 4627 }
  (s.setFlag R.SEC_ATT_CTL_BUSY false).wr R.SEC_ATT_CTL_RESULT 0

/-- ATTESTATION_REPORT. -/
def execAttestationReport (s : State) : Host.Outcome State Fault Refusal := .next (reportDone s)

-- The life-cycle (R392 to R394).

/-- The states that a token can move to. -/
def lcNext (lc target : Nat) : Bool :=
  match lc with
  | 1 => target == 2 || target == 4
  | 2 => target == 3 || target == 4
  | 3 => target == 4
  | _ => false

/-- The message of a life-cycle token. -/
def State.lcMessage (s : State) (target : Nat) : List Byte :=
  asciiBytes "XN896 LIFECYCLE " ++ deviceId ++ leBytes 1 target ++ List.replicate 7 0 ++ leBytes 8 (s.rd R.MGT_LC_NONCE_NONCE)

/-- Entry to RETURN or SCRAP overwrites the secret and the owner slots and clears SEC's memories (R394). -/
def State.eraseSecrets (s : State) : State :=
  let s := (List.range 4).foldl (fun s i => s.setFuse (fuseOwner i) (2 ^ 512 - 1)) s
  (s.setFuse fuseSecret 0).updBoot fun b => { b with report := [], secOff := true }

/-- An accepted transition: the new state is fused and recorded, and the device starts again. -/
def State.lcMove (s : State) (target : Nat) : State :=
  let old := s.lifeCycle
  let s := if 3 ≤ target then s.eraseSecrets else s
  let s := (s.setFuse fuseLc target).reelEvent 0x14 (blkIndex .MGT) noCx (leBytes 1 old ++ leBytes 1 target)
  s.beginStart

/-- A host write to MGT.LC_TOKEN (R393). -/
def lcTokenWrite (s : State) (w : HW) : State :=
  match w.get R.MGT_LC_TOKEN_ADDR with
  | none => s
  | some v =>
    let t := s.tokenAt (v * 64)
    let target := leNat ((t.1.drop 32).take 1)
    let free := (List.range 16).all fun c => s.cxState c == 0
    let good := t.1 == s.lcMessage target && lcNext s.lifeCycle target &&
      (s.lifeCycle == 3 || Config.mldsaVerify Config.lifecycleKey t.1 t.2)
    let s := s.act objDevice
    if free && good then (s.wr R.MGT_LC_RESULT 1).lcMove target
    else
      let (n, s) := s.takeNonce
      (s.wr R.MGT_LC_NONCE_NONCE n).wr R.MGT_LC_RESULT (if free then 2 else 3)

/-- LC_TOKEN. -/
def execLcToken (v : Word) (s : State) : Host.Outcome State Fault Refusal :=
  .next (s.hostGate .MGT 0 R.MGT_LC_TOKEN_ADDR.off fun s => lcTokenWrite s (hw8 v.toNat))

/-- EXTEST or a private instruction loaded while READY enters SAFE (R394). -/
def State.tapOrder (s : State) : State := if s.rd R.MGT_START_STATE = 2 then s.enterSafe 0 safetyOrder else s

/-- TAP_INSTRUCTION (R392, R394). -/
def tapLoad (s : State) (t : TapCode) : State :=
  match t with
  | .idcode => s.emit (.tap 0x0089634B)
  | .bypass => s
  | .sample => s
  | .extest => s.tapOrder
  | .mgtDebug => s.tapOrder
  | .privateScan =>
    let s := s.tapOrder
    if s.lifeCycle = 1 ∨ s.lifeCycle = 3 then s.updBoot fun b => { b with report := [], secOff := true } else s
  | .advanceToMaker =>
    if s.fuse fuseLc = 0 then (s.setFuse fuseLc 1).setFuse fuseSecret 1 else s

/-- TAP_INSTRUCTION. -/
def execTapInstruction (t : TapCode) (s : State) : Host.Outcome State Fault Refusal := .next (tapLoad s t)

end Sys2Proof.Machine
end

