-- ==== Sys2Proof/Machine/Selftest.lean ====
section
/-! DEFINITION. Periodic self-test: rounds, slices and their quiet points (R395 to R398). -/

namespace Sys2Proof.Machine

/-- Slices of a round: those of the slice table. -/
def sliceCount : Nat := (sliceTable.map fun r => r.2.1).foldl (· + ·) 0

/-- The save area is valid: at least 9 pages in the usable near tier (R396). -/
def State.saveOk (s : State) : Bool :=
  decide (9 ≤ s.rd R.BST_SAVE_PAGES) && s.inNear (s.rdAddr R.BST_SAVE_BASE) (pageBytes * s.rd R.BST_SAVE_PAGES)

/-- Change the self-test. -/
def State.updSlice (s : State) (f : Slice → Slice) : State := { s with slice := f s.slice }

/-- A round begins when the last one is over and its hours have passed since its beginning. -/
def State.roundDue (s : State) : Bool :=
  s.slice.todo.isEmpty && match s.slice.began with
    | none => true
    | some t => decide (t + s.rd R.BST_CFG_ROUND_H * 3600000000000 ≤ s.clock)

/-- Begin a round where one is due. -/
def State.openRound (s : State) : State :=
  if s.roundDue then
    (s.updSlice fun x => { x with todo := List.range sliceCount, began := some s.clock }).wr R.BST_STAT_LEFT sliceCount
  else s

/-- The gap between slices has passed. -/
def State.gapOver (s : State) : Bool :=
  s.slice.ended == 0 || decide (s.slice.ended + s.rd R.BST_CFG_GAP_MS * 1000000 ≤ s.clock)

/-- SLICE_DUE: the slice of the next unit waits for the unit's quiet point. -/
def sliceDueNow (s : State) : State :=
  if !s.live || !s.flag R.BST_CFG_EN || !s.saveOk || s.slice.phase != 0 || !s.gapOver then s else
  let s := s.openRound
  match s.slice.todo with
  | [] => s
  | k :: _ => (s.updSlice fun x => { x with phase := 1, since := s.clock }).wr R.BST_STAT_UNIT (sliceUnit k).1

/-- SLICE_DUE. -/
def execSliceDue (s : State) : Host.Outcome State Fault Refusal := .next (sliceDueNow s)

/-- A switch runs: a context is parking or restoring (R291). -/
def State.switching (s : State) : Bool := (List.range 16).any fun c => s.cxState c == 4 || s.cxState c == 2

/-- A COMMIT is in progress. -/
def State.committing (s : State) : Bool := s.cmds.any fun x => opc x.w == 0x53 && x.phase == .running

/-- The unit of a slice is at its quiet point (the slice table of R395; R291). Units whose every access is one step of the
block are always between accesses. -/
def State.quietAt (s : State) (b k : Nat) : Bool :=
  if 17 ≤ b ∧ b < 25 then (s.arr k).flight.isEmpty
  else if b = 8 then s.colls.isEmpty
  else if b = 7 then !s.switching && !s.committing
  else if b = 5 then !s.switching && s.nt.held != some k
  else if 113 ≤ b ∧ b < 131 then (s.port k).retry.isEmpty
  else if b = 150 then s.nt.slowHeld != some k
  else true

/-- What a slice discards: the translations held, for XLT (R395). -/
def State.sliceDiscards (s : State) (b : Nat) : State :=
  if b = 7 then (List.range 16).foldl (fun s c => s.dropTranslations c) s else s

/-- QUIET_POINT: the unit's state is saved, and its tests run. -/
def quietNow (s : State) : State :=
  match s.slice.todo with
  | [] => s
  | x :: _ =>
    let u := sliceUnit x
    if !s.live || s.slice.phase != 1 || !s.quietAt u.1 u.2 then s else
    ((s.updSlice fun y => { y with phase := 2, since := s.clock }).setFlag R.BST_STAT_ACTIVE true).sliceDiscards u.1

/-- QUIET_POINT. -/
def execQuietPoint (s : State) : Host.Outcome State Fault Refusal := .next (quietNow s)

/-- QUIET_TIMEOUT: after 10 ms without a quiet point the slice goes to the end of its round. -/
def quietLate (s : State) : State :=
  if !s.live || s.slice.phase != 1 || decide (s.clock < 10000000 + s.slice.since) then s else
  s.updSlice fun y => { y with phase := 0, todo := y.todo.drop 1 ++ y.todo.take 1 }

/-- QUIET_TIMEOUT. -/
def execQuietTimeout (s : State) : Host.Outcome State Fault Refusal := .next (quietLate s)

/-- SLICE_END: the state is restored and the unit returns to service; a failure enters SAFE with the unit (R398). -/
def sliceEndNow (s : State) (ok : Bool) : State :=
  if !s.live || s.slice.phase != 2 then s else
  if !ok then s.enterSafe (s.rd R.BST_STAT_UNIT) testFailed else
  let s := s.updSlice fun y => { y with phase := 0, todo := y.todo.drop 1, ended := s.clock }
  let s := (s.setFlag R.BST_STAT_ACTIVE false).wr R.BST_STAT_LEFT s.slice.todo.length
  (if s.slice.todo.isEmpty then s.bump R.BST_STAT_ROUNDS else s).settle

/-- SLICE_END. -/
def execSliceEnd (ok : Bool) (s : State) : Host.Outcome State Fault Refusal := .next (sliceEndNow s ok)

/-- A host write to BST.SAVE: ignored while a slice runs (R402). -/
def bstSaveWrite (s : State) (w : HW) : State :=
  if s.slice.phase = 2 then s else s.puts w [R.BST_SAVE_BASE, R.BST_SAVE_PAGES]

end Sys2Proof.Machine
end

