-- ==== Sys2Proof/Machine/Flags.lean ====
section
/-! DEFINITION. The status flags of the register map: what the fields that a block computes read as (R6), over the register
words that State stores. -/

namespace Sys2Proof.Machine

/-- A field and the value it reads as. -/
abbrev Shown := Fld × Nat

-- Status by block.

/-- The mask of the ports that are UP (R251). -/
def State.portsUp (s : State) : Nat := ((List.range 18).map fun p => if s.portState p = 3 then 2 ^ p else 0).foldl (· + ·) 0

/-- The next admission of a context's stash is held (R172). -/
def State.admissionHeld (s : State) (c : Nat) : Bool := s.flag R.CX_STASH_CTL_EN c && !s.admissible c (s.nextSlot c)

/-- In a SERVE context the fields of LEARN and VERDICT read their reset values (R72); RISE_AFTER's is the image's item. -/
def State.learnShown (s : State) (c : Nat) : List Shown :=
  if s.cxState c == 0 || s.isLearn c then [] else
  [R.CX_LEARN_S_INIT, R.CX_LEARN_S, R.CX_LEARN_CLEAN_RUN, R.CX_LEARN_SKIPS, R.CX_VERDICT_MARK_CUR, R.CX_VERDICT_MARK_NEXT,
   R.CX_VERDICT_LAST_SKIP, R.CX_VERDICT_LAST_STEP].map fun f => (f, f.rst)

/-- The status fields of context `c` (R72, R82, R147, R172, R196, R283, R292, R318). -/
def State.cxShown (s : State) (c : Nat) (o : Nat) : List Shown :=
  let x := s.cx c
  let near := (x.shadows.filter fun h => h.print).length
  if R.CX_SEM_VALUE.at? o then [(R.CX_SEM_VALUE, s.sem c ((o - R.CX_SEM_VALUE.off) / 8))] else
  [(R.CX_ARRAYS_HANDLES_BOUND, x.binds.length),
   (R.CX_STASH_STAT_NEAR_USED, x.stash.nearUsed), (R.CX_STASH_STAT_POOL_USED, x.stash.poolUsed),
   (R.CX_STASH_STAT_HOLD, bitOf (s.admissionHeld c)),
   (R.CX_SHADOW_STAT_NEAR_USED, near), (R.CX_SHADOW_STAT_SLOW_USED, x.shadows.length - near),
   (R.CX_SHADOW_STAT_PENDING, bitOf !x.shadows.isEmpty),
   (R.CX_STATUS_EFF_PRIO, nth 0 s.effPrios c), (R.CX_CKPT_OPSTAT_HELD, x.ckpt.held.length)]
   ++ s.learnShown c

/-- The code of a slot's state (R81). -/
def SlotState.code : SlotState → Nat
  | .empty => 0
  | .loading => 1
  | .ready => 2
  | .active => 3

/-- The code of a gang of `n` arrays. -/
def gangCode (n : Nat) : Nat := if n = 4 then 2 else if n = 2 then 1 else 0

/-- The gang of the stream-side command that runs on an array. -/
def State.gangOf (s : State) (a : Nat) : Nat :=
  match (s.streamSide a).find? fun x => decide (x.phase = CmdPhase.running) with
  | some x => gangCode x.arrays.length
  | none => 0

/-- The status fields of array `a` (R81, R84, R100, R101). -/
def State.maShown (s : State) (a : Nat) : List Shown :=
  let r := s.arr a
  [(R.MA_WLOAD_CFG_SLOT, r.lastSlot),
   (R.MA_WLOAD_CFG_LOADING, bitOf (r.slot0.state == .loading || r.slot1.state == .loading)),
   (R.MA_STATE_SLOT0, r.slot0.state.code), (R.MA_STATE_SLOT1, r.slot1.state.code),
   (R.MA_STATE_SLOT0_CX, r.slot0.tile.cx), (R.MA_STATE_SLOT1_CX, r.slot1.tile.cx),
   (R.MA_STATE_RING_USED, r.ring.length), (R.MA_STATE_RING_FINAL, (r.ring.filter fun x => x.cover == x.klen).length),
   (R.MA_STATE_AXIS, bitOf r.axis), (R.MA_STATE_GANG, s.gangOf a)]

/-- A command names a tile whose WLOAD has not been placed (R82). -/
def State.unplaced (s : State) (c : Nat) (w : Packet) : Bool :=
  (opc w == 2 || opc w == 3 || (opc w == 4 && pkt w 70 2 != 3)) &&
    match s.takeBinding c (pkt w 64 6) with
    | .wait => true
    | _ => false

/-- The command at HEAD is held back by its ORDER bit (R126), or by a tile that has not been placed (R82). -/
def State.orderHeld (s : State) (n : Nat) : Bool :=
  (s.sp n).held && match s.fetch n with
    | .ok w => (pktBit w 17 && !(s.earlier n).isEmpty) || s.unplaced (s.cxOf n) w
    | _ => false

/-- The status fields of stream processor `n` (R120, R126). -/
def State.spShown (s : State) (n : Nat) : List Shown :=
  [(R.SP_STATUS_IDLE, bitOf (s.rd R.SP_PTRS_HEAD n == s.rd R.SP_PTRS_TAIL n && !s.cmds.any fun x => x.sp == n)),
   (R.SP_STATUS_WAITING, bitOf ((s.sp n).wait.isSome || s.orderHeld n))]

/-- The UPDATE that began first among those in progress. -/
def State.oldestUpdate (s : State) : Option Cmd :=
  s.udBusy.foldl (fun m x => match m with
    | none => some x
    | some y => if x.upd.turn < y.upd.turn then some x else m) none

/-- Its phase: 1 pass 1, 2 exchange, 3 pass 2. -/
def updatePhase (x : Cmd) : Nat := if x.phase = CmdPhase.pass1 then 1 else if x.upd.exchanged then 3 else 2

/-- The TID of its MASTER. -/
def State.updateTid (s : State) (x : Cmd) : Nat :=
  match s.udTaken x with
  | .ok (r, _) => r.master.tid
  | _ => 0

/-- A parity slot of some context is being zeroed (R319). -/
def State.zeroing (s : State) : Bool := (List.range 16).any fun c => (s.cx c).ckpt.sealing == 2

/-- The status fields of the update die (R185, R319). -/
def State.udShown (s : State) : List Shown :=
  (match s.oldestUpdate with
   | some x => [(R.UD_FUU_STAT_BUSY, 1), (R.UD_FUU_STAT_CX, x.cx), (R.UD_FUU_STAT_PASS, updatePhase x),
                (R.UD_FUU_STAT_TID, s.updateTid x)]
   | none => []) ++ [(R.UD_PAR_STAT_ZEROING, bitOf s.zeroing)]

/-- The copy progress of a migration in 256ths: the bytes copied at the copy rate, of the 6 GiB of a channel (R228). -/
def State.copyProgress (s : State) (m : Migration) : Nat := min 255 ((s.clock - m.since) * s.copyRate * 256 / channelBytes)

/-- The status fields of the near-tier controllers. -/
def State.ntShown (s : State) : List Shown :=
  match s.nt.migration with
  | some m => if m.copying then [(R.NT_REPAIR_STAT_PROGRESS, s.copyProgress m)] else []
  | none => []

/-- The status fields of CAST for context `n` (R296, R297). -/
def State.castShown (s : State) (n : Nat) : List Shown :=
  [(R.CAST_STAT_VALID, s.cast.length), (R.CAST_USE_RESERVED, s.kvReserved n),
   (R.CAST_USE_ALLOCATED, (dedup (s.kvUsed n)).length), (R.CAST_USE_ENTRIES, (s.castOfCx n).length)]

/-- A descriptor of the DMA queue is in progress (R407). -/
def State.dmaBusy (s : State) : Bool :=
  s.flag R.PX_DMA_RING_EN && !s.flag R.PX_DMA_STAT_ERR && s.rd R.PX_DMA_PTRS_HEAD != s.rd R.PX_DMA_PTRS_TAIL

/-- The computed fields of the register at offset `o` of instance `n` of a block. -/
def State.shown (s : State) (b : Blk) (n o : Nat) : List Shown :=
  match b with
  | .MGT => [(R.MGT_SEAT_PORTS_UP, s.portsUp)]
  | .CX => s.cxShown n o
  | .MA => s.maShown n
  | .SP => s.spShown n
  | .UD => s.udShown
  | .NT => s.ntShown
  | .CAST => s.castShown ((o - R.CAST_USE_RESERVED.off) / 8 % 16)
  | .TSU => [(R.TSU_NOW, s.now)]
  | .REC => [(R.REC_STAT_QUEUED, s.recd.queue.length)]
  | .BST => [(R.BST_STAT_NO_SAVE, bitOf !s.saveOk)]
  | .PX => [(R.PX_DMA_STAT_BUSY, bitOf s.dmaBusy)]
  | _ => []

-- Windows that are not registers.

/-- Bytes of a window as 8 bytes from an offset of a list; zero beyond its end. -/
def windowWord (bs : List Byte) (o : Nat) : Nat := leNat ((bs.drop o).take 8)

/-- A programmable counter as a host reads it: live, or of the snapshot while READ_SNAP is 1 (R335). -/
def State.counterWord (s : State) (o : Nat) : Nat :=
  if s.flag R.PMC_CTL_READ_SNAP then
    match s.dbg.snap.find? fun c => c.1 == o with
    | some c => c.2.toNat
    | none => 0
  else (s.word (blkBase .PMC + o)).toNat

/-- The kind of the engine with index `e` (R331): 0 MA, 1 FE, 2 SP, 3 MV, 4 CE, 5 CAST, 6 UD.FUU, 7 UD.OFP, 8 UD.PAR. -/
def engineKind (e : Nat) : Nat :=
  if e < 8 then 0 else if e < 16 then 1 else if e < 48 then 2 else if e < 80 then 3 else e - 76

/-- The kinds of engine to which stall reasons 1 to 24 apply (R333). -/
def stallKinds : List (List Nat) :=
  [[0, 1, 2, 3, 4, 5, 6, 7, 8], [0, 1, 3, 6, 7, 8], [0, 1, 3, 4], [0, 1, 3], [0, 1, 3], [1, 3, 6], [0], [0], [0], [0], [0, 1, 3],
   [0, 1, 3, 6, 7, 8], [6, 7, 8], [1], [1, 2], [3, 4], [3, 4], [4], [6], [2], [2], [2], [2], [6]]

/-- The counter at `k` × 8 bytes of engine `e` counts cycles (R331 to R333): BUSY, STALLED and IDLE, of an array the split
of BUSY, and the stall reasons that apply to its kind. Every other reads zero. -/
def fixedCounts (e k : Nat) : Bool :=
  decide (e < 85) && (decide (k < 3) || (decide (k < 8) && decide (e < 8)) || (decide (8 ≤ k) && (nth [] stallKinds (k - 8)).contains (engineKind e)))

/-- A read at offset `o` of PMC gives an open value: the cycles of an engine, or a live counter of an open source. -/
def State.openRead (s : State) (o : Nat) : Bool :=
  if 0x100000 ≤ o then fixedCounts ((o - 0x100000) / 0x100) (o % 0x100 / 8)
  else R.PMC_CNT_VALUE.at? o && !s.flag R.PMC_CTL_READ_SNAP && s.counterOpen ((o - R.PMC_CNT_VALUE.off) / 8)

/-- The entry window of CAST (R307). -/
def State.castWord (s : State) (o : Nat) : Nat :=
  match s.cast.find? fun e => e.slot == o / 64 with
  | some e => windowWord e.bytes (o % 64)
  | none => 0

/-- The store window of REC: slot k at 64 × k (R351). -/
def State.reelWord (s : State) (o : Nat) : Nat := bitsAt (s.reelSlot (o / 64)).toNat (8 * (o % 64)) 64

/-- The windows at offset `o` of a block (R307, R335, R351, R389, R390): the 8 bytes there; none where no window stands. -/
def State.window (s : State) (b : Blk) (o : Nat) : Option Nat :=
  match b with
  | .PMC => if R.PMC_CNT_VALUE.at? o then some (s.counterWord o) else none
  | .CAST => if 0x100000 ≤ o ∧ o < 0x180000 then some (s.castWord (o - 0x100000)) else none
  | .REC => if 0x400000 ≤ o then some (s.reelWord (o - 0x400000)) else none
  | .SEC => if 0x20000 ≤ o ∧ o < 0x23000 then some (windowWord Config.certificate (o - 0x20000))
    else if 0x10000 ≤ o ∧ o < 0x20000 then some (windowWord s.boot.report (o - 0x10000)) else none
  | _ => none

/-- What a read of all 8 bytes at a BAR0 offset returns; zero where no chapter defines a register (R9). -/
def State.hostWord (s : State) (a : Nat) : BitVec 64 :=
  match blockAt a with
  | none => 0
  | some (b, n) =>
    let o := a - blkBase b - blkStride b * n
    match s.window b o with
    | some v => BitVec.ofNat 64 v
    | none =>
      if (fieldsAt a).isEmpty then 0
      else (s.shown b n o).foldl (fun w p => if p.1.at? o then putField w p.1.lo p.1.wid p.2 else w) (s.word a)

end Sys2Proof.Machine
end

