-- ==== Sys2Proof/Machine/Image.lean ====
section
/-! DEFINITION. The freeze of a cut, the cut image, and what a host read of BAR0 returns (R6, R9, R347, R350, R380, R387,
R405). -/

namespace Sys2Proof.Machine

-- The freeze (R347).

/-- Offsets in BAR0 of the registers of the blocks that go on after a freeze. -/
def goingOn : List Nat := dedup (([Blk.MGT, .PWR, .TSU, .DBG, .REC].flatMap fieldsOf).map fun f => f.addr)

/-- The registers of the blocks that go on are kept for the image as they stand now (R350). -/
def State.keepRegs (s : State) : State :=
  s.updDbg fun d => { d with atT := goingOn.map fun a => (a, s.hostWord a) }

/-- CUT_FREEZE: the freeze instant. The device is in the cut state, STATE reads CUT unless it reads SAFE (R347, R401), the
CUT record is written and the vector raised (R346). -/
def cutFreezeNow (s : State) : State :=
  let st := s.rd R.MGT_START_STATE
  if !s.flag R.DBG_CUT_STAT_ARMED || s.flag R.DBG_CUT_STAT_CUT || decide (s.now < s.rd R.DBG_CUT_T_T) || (st != 2 && st != 3) ||
      s.recd.stopped then s
  else
    let s := (s.setFlag R.DBG_CUT_STAT_CUT true).setFlag R.DBG_CUT_STAT_ARMED false
    let s := s.reelEvent 0x0C (blkIndex .DBG) noCx (leBytes 8 (s.rd R.DBG_CUT_T_T) ++ leBytes 2 (s.rd R.DBG_CUT_STAT_ORIGIN) ++
      leBytes 4 (s.rd R.DBG_CUT_STAT_CUT_ID) ++ leBytes 1 (s.rd R.DBG_CUT_STAT_LATE))
    let s := s.msix (s.rd R.DBG_CUT_CTL_VECTOR)
    let s := s.trigger 5 0
    (if st = 2 then s.setStart stCut else s).keepRegs

/-- CUT_FREEZE. -/
def execCutFreeze (s : State) : Host.Outcome State Fault Refusal := .next (cutFreezeNow s)

-- The image (R350).

/-- Offset of the cut-image window in DBG. -/
def imageWindow : Nat := 0x100000

/-- The scan chains of section 7 can be read: the device is cut, and its life-cycle state grants scan (R392). -/
def State.scanGranted (s : State) : Bool :=
  s.flag R.DBG_CUT_STAT_CUT && (s.lifeCycle == 0 || s.lifeCycle == 1 || s.lifeCycle == 3)

/-- The bytes of a section; none where the manual gives no size (log entry 44). -/
def State.sectionSize (s : State) (k : Nat) : Option Nat :=
  match k with
  | 0 => some 144
  | 3 => some 0x2000000
  | 4 => some 0x10000000
  | 5 => some (8 * 512 * imageBytes)
  | 6 => some (16 * 1607680)
  | 8 => some s.slowBytes
  | 1 => none
  | 2 => none
  | 7 => none
  | _ => some 0

/-- A section is present and readable now. -/
def State.sectionOpen (s : State) (k : Nat) : Bool :=
  if k = 3 then true else if k = 7 then s.scanGranted else s.flag R.DBG_CUT_STAT_CUT && decide (k ≤ 8)

/-- 8 bytes of the directory: the size of a section, or its present bit. -/
def State.directoryWord (s : State) (o : Nat) : Option Nat :=
  if o % 16 = 0 then s.sectionSize (o / 16) else some (bitOf (s.sectionOpen (o / 16)))

/-- 8 bytes of the registers at T: the register region offset for offset, zero over SEC and DBG's own window; beyond it the
engines' state, which has no layout (log entry 44). -/
def State.registerImage (s : State) (o : Nat) : Option Nat :=
  match blockAt o with
  | none => if o < 0x1500000 then some 0 else none
  | some (.SEC, _) => some 0
  | some (.PMC, _) => if s.openRead (o - blkBase .PMC) then none else some (s.hostWord o).toNat
  | some (.DBG, _) => some (match s.dbg.atT.find? fun p => p.1 == o with | some p => p.2.toNat | none => 0)
  | some (b, _) =>
    match s.dbg.atT.find? fun p => p.1 == o with
    | some p => some p.2.toNat
    | none => if unfrozen b && b != .REC then some 0 else some (s.hostWord o).toNat

/-- 8 bytes of the accumulator rings, array by array: the allocated rows in the order of their allocation. -/
def State.ringImage (s : State) (o : Nat) : Option Nat :=
  match (s.arr (o / (512 * imageBytes))).ring[o / imageBytes % 512]? with
  | some r => some (windowWord (imageOf r) (o % imageBytes))
  | none => none

/-- 8 bytes at offset `o` of section `k`: none where the manual gives the contents no layout. -/
def State.sectionWord (s : State) (k o : Nat) : Option Nat :=
  if s.dbg.shifted && (k == 1 || k == 2 || k == 4 || k == 5 || k == 6) then some 0 else
  match k with
  | 0 => s.directoryWord o
  | 1 => s.registerImage o
  | 3 => some (bitsAt (smGet rushDefault s.dbg.rush (o / 32)).toNat (8 * (o % 32)) 64)
  | 4 => some (s.preadNat (scratchBase + o) 8)
  | 5 => s.ringImage o
  | 8 => if (s.badIn (slowBase + o) 8).isSome then none else some (s.preadNat (slowBase + o) 8)
  | _ => none

/-- What a read of the slow tier through the image does where its block is uncorrectable (R224). -/
def State.imageEvent (s : State) (k o : Nat) : State :=
  if k = 8 then match s.badIn (slowBase + o) 8 with
    | some b => s.uncorrEvent b none true
    | none => s
  else if k = 7 then s.updDbg fun d => { d with shifted := true }
  else s

/-- A word that is known, or a free value. -/
def State.orFree (s : State) (v : Option Nat) : Nat × State :=
  match v with
  | some v => (v, s)
  | none => s.takeFree

/-- A read of 8 bytes of the image window: zero beyond the section, and where it is not present. -/
def State.imageRead (s : State) (o : Nat) : Nat × State :=
  let k := s.rd R.DBG_IMAGE_SEL_SECTION
  let p := 0x100000 * s.rd R.DBG_IMAGE_SEL_MIB + o
  if !s.sectionOpen k || (match s.sectionSize k with | some n => decide (n ≤ p) | none => false) then (0, s)
  else
    let v := s.sectionWord k p
    (s.imageEvent k p).orFree v

-- Host reads of BAR0 (R405).

/-- What a read of all 8 bytes at a BAR0 offset returns, with the state after it. -/
def State.readWord (s : State) (a : Nat) : Nat × State :=
  if blkBase .DBG + imageWindow ≤ a ∧ a < blkBase .DBG + imageWindow + 0x100000 then s.imageRead (a - blkBase .DBG - imageWindow)
  else if blkBase .PMC ≤ a ∧ a < blkBase .PMC + 0x200000 ∧ s.openRead (a - blkBase .PMC) = true then
    let r := s.takeFree
    (if a - blkBase .PMC < 0x100000 then (putField (s.hostWord a) 0 56 r.1).toNat else r.1, r.2)
  else ((s.hostWord a).toNat, s)

/-- PX answers reads of the register region: it is not STARTING, not in D3hot, and the package has power (R380, R411). -/
def State.answers (s : State) : Bool := s.rd R.MGT_START_STATE != 0 && !s.boot.d3hot && !s.recd.stopped

/-- BAR0 serves a block (R380, R387). -/
def State.serves (s : State) (b : Blk) : Bool :=
  match s.rd R.MGT_START_STATE with
  | 1 => b == .MGT || b == .SEC || b == .REC
  | 5 => b == .MGT
  | _ => true

/-- The block of an offset is served; an offset outside every block reads zero anyhow. -/
def State.servedAt (s : State) (a : Nat) : Bool := match blockAt a with | some (b, _) => s.serves b | none => false

/-- A block acts on a read: it is not frozen by a cut. -/
def State.actsAt (s : State) (a : Nat) : Bool :=
  match blockAt a with
  | some (b, _) => unfrozen b || !s.flag R.DBG_CUT_STAT_CUT
  | none => false

/-- Clear the RC fields that lie wholly in the bits read. -/
def State.clearRead (s : State) (a lo n : Nat) : State :=
  if !s.actsAt a then s else
  ((fieldsAt a).filter fun f => f.acc == .RC && decide (lo ≤ f.lo) && decide (f.lo + f.wid ≤ lo + n)).foldl
    (fun s f => s.setWord a (putField (s.word a) f.lo f.wid 0)) s

/-- A host read of `size` bytes at a BAR0 offset. -/
def hostRead (s : State) (off size : Nat) : State :=
  if !s.answers || decide (0x4000000 ≤ off) then s else
  match hwOf off size 0 with
  | none => s.emit .unsupported
  | some w =>
    let a := off / 8 * 8
    if !s.servedAt a then s.emit (.readData off 0) else
    let r := s.readWord a
    (r.2.emit (.readData off (BitVec.ofNat 64 (bitsAt r.1 w.lo w.n)))).clearRead a w.lo w.n

/-- READ_CLEAR: a host read; the RC fields wholly within what it returns go back to zero. -/
def execReadClear (off size : Nat) (s : State) : Host.Outcome State Fault Refusal := .next (hostRead s off size)

/-- SCAN_CHAIN_READ: a host read of 8 bytes of section 7 through the window, which shifts the chains: sections 1, 2, 4, 5
and 6 read zero from then on. -/
def scanRead (s : State) (off : Nat) : State :=
  if s.rd R.DBG_IMAGE_SEL_SECTION = 7 then hostRead s (blkBase .DBG + imageWindow + off % 0x100000 / 8 * 8) 8 else s

/-- SCAN_CHAIN_READ. -/
def execScanChainRead (off : Nat) (s : State) : Host.Outcome State Fault Refusal := .next (scanRead s off)

end Sys2Proof.Machine
end

