-- ==== Sys2Proof/Machine/Power.lean ====
section
/-! DEFINITION. The power controller: the ladder, the limit, cues and ramps (R154, R361 to R372). -/

namespace Sys2Proof.Machine

-- The ladder (R363).

/-- The floor: the last position. -/
def floorPos (opmax : Nat) : Nat := 18 - opmax

/-- The operating point of a position. -/
def pointOf (opmax pos : Nat) : Nat := if pos ≤ 15 then opmax else min 3 (opmax + (pos - 15))

/-- Edges dropped in 16 at a position. -/
def dropOf (pos : Nat) : Nat := min pos 15

/-- Change the power controller. -/
def State.updPwr (s : State) (f : Pwr → Pwr) : State := { s with pwr := f s.pwr }

/-- OPMAX. -/
def State.opmaxOf (s : State) : Nat := s.rd R.PWR_CFG_OPMAX

/-- The position after a change of OPMAX: the new top where the controller stands on a higher operating point, the position
of the same point and drop where the new ladder has it, else the number as it was, at most the floor's (R363; log entry
38). -/
def moveTop (old new pos : Nat) : Nat :=
  let p := pointOf old pos
  if old ≤ new then
    if p < new then 0 else if p = new then (if old = new then pos else 15) else 15 + (p - new)
  else min pos (floorPos new)

/-- PWR.CFG.OPMAX is written. -/
def State.setOpmax (s : State) (v : Nat) : State :=
  let old := s.opmaxOf
  (s.wr R.PWR_CFG_OPMAX v).updPwr fun p => { p with pos := min (moveTop old (v % 4) p.pos) (floorPos (v % 4)) }

/-- A host write to PWR.CFG. -/
def pwrCfgWrite (s : State) (w : HW) : State :=
  let s := match w.get R.PWR_CFG_OPMAX with
    | some v => s.setOpmax v
    | none => s
  (s.put w R.PWR_CFG_CUE_EN).act objPower

/-- OPMAX: a host write to PWR.CFG. -/
def execOpmax (v : Word) (s : State) : Host.Outcome State Fault Refusal :=
  .next (s.hostGate .PWR 0 R.PWR_CFG_OPMAX.off fun s => pwrCfgWrite s (hw8 v.toNat))

/-- DIVIDER_CHANGE: the divider of a decided position takes effect (R361). -/
def execDividerChange (s : State) : Host.Outcome State Fault Refusal :=
  .next (s.updPwr fun p => { p with point := pointOf s.opmaxOf p.pos })

-- The limit (R365, R367).

/-- A limit as it is held. -/
def heldLimit (v : Nat) : Nat := min (max v 1500) 3300

/-- The CAP_CLAMP record. -/
def State.capClamp (s : State) (asked applied : Nat) : State :=
  s.reelEvent 0x0B (blkIndex .PWR) noCx (leBytes 2 asked ++ leBytes 2 applied)

/-- A limit is written: it is held within its range, and a value outside is recorded (R367). -/
def State.setLimit (s : State) (f : Fld) (v : Nat) : State :=
  let s := s.wr f (heldLimit v)
  if heldLimit v = v then s else s.capClamp v (heldLimit v)

/-- A host write to PWR.CAP_HOST. -/
def capHostWrite (s : State) (w : HW) : State :=
  match w.get R.PWR_CAP_HOST_LIMIT_W with
  | some v => s.setLimit R.PWR_CAP_HOST_LIMIT_W v
  | none => s

/-- CAP_HOST. -/
def execCapHost (v : Word) (s : State) : Host.Outcome State Fault Refusal :=
  .next (s.hostGate .PWR 0 R.PWR_CAP_HOST_LIMIT_W.off fun s => capHostWrite s (hw8 v.toNat))

/-- The effective limit L in watts. -/
def State.powerLimit (s : State) : Nat := min (s.rd R.PWR_CAP_HOST_LIMIT_W) (s.rd R.PWR_CAP_BOARD_LIMIT_W)

-- Samples (R364 to R368).

/-- The sum of a list. -/
def sumOf (l : List Nat) : Nat := l.foldl (· + ·) 0

/-- The predicted increase of the cues in force, in milliwatts (R372). -/
def State.cueIncrease (s : State) : Nat :=
  sumOf ((s.pwr.cues.filter fun q => decide (s.clock < q.until_)).map (·.incr))

/-- A sample joins the window; after a change of L the window holds the samples since (R365). -/
def Pwr.take (p : Pwr) (l mw : Nat) : Pwr :=
  if p.limit = l then { p with samples := (mw :: p.samples).take 2000 }
  else { p with samples := [mw], limit := l, clamp := false }

/-- A ≥ L − L ÷ 32 (R366), for a window sum and a number of samples, with the predicted increase. -/
def overGuard (sum n inc l : Nat) : Bool := decide (31 * 1000 * l * n ≤ 32 * (sum + inc * n))

/-- A ≤ L − L ÷ 16. -/
def underGuard (sum n inc l : Nat) : Bool := decide (16 * (sum + inc * n) ≤ 15 * 1000 * l * n)

/-- The controller's move at a sample (R366): down one position, up one after 20 samples in a row below, or none. -/
def Pwr.move (p : Pwr) (sum n inc l floor : Nat) : Pwr :=
  let k := if underGuard sum n inc l then p.under + 1 else 0
  if overGuard sum n inc l && decide (p.pos < floor) then { p with pos := p.pos + 1, under := k }
  else if decide (20 ≤ k) && decide (0 < p.pos) then { p with pos := p.pos - 1, under := k }
  else { p with under := k }

/-- A clamp episode begins at the floor with A > L, and ends below L − L ÷ 16 or off the floor (R368). -/
def State.clampTest (s : State) (sum n l : Nat) : State :=
  if s.pwr.clamp then
    if s.pwr.pos != floorPos s.opmaxOf || underGuard sum n 0 l then s.updPwr fun p => { p with clamp := false } else s
  else if s.pwr.pos == floorPos s.opmaxOf && decide (1000 * l * n < sum) then
    (s.updPwr fun p => { p with clamp := true }).capClamp l (sum / n / 1000)
  else s

/-- A power sample. -/
def powerSampleNow (s : State) (mw : Nat) : State :=
  let l := s.powerLimit
  let s := s.updPwr fun p => p.take l mw
  let sum := sumOf s.pwr.samples
  let n := s.pwr.samples.length
  let s := s.clampTest sum n l
  s.updPwr fun p => p.move sum n s.cueIncrease l (floorPos s.opmaxOf)

/-- POWER_SAMPLE. -/
def execPowerSample (milliwatts : Nat) (s : State) : Host.Outcome State Fault Refusal := .next (powerSampleNow s milliwatts)

-- Ramps (R371).

/-- The stream side of an array has no command. -/
def State.streamIdle (s : State) (a : Nat) : Bool :=
  !s.cmds.any fun x => (opc x.w == 2 || opc x.w == 3) && x.arrays.contains a && x.phase != .finished

/-- RAMP_TURN: an array that waits begins its ramp where fewer than two began in the last 250 ns. -/
def execRampTurn (a : Fin 8) (s : State) : Host.Outcome State Fault Refusal :=
  .next (if (s.arr a).ramp.stage == .queued && s.live then s.beginRamp a else s)

/-- The stage after 500 ns of a ramp. -/
def RampStage.after : RampStage → RampStage
  | .edges4 => .edges8
  | .edges8 => .edges12
  | .edges12 => .full
  | r => r

/-- The array is ramping. -/
def RampStage.ramping (r : RampStage) : Bool := r == .edges4 || r == .edges8 || r == .edges12

/-- RAMP_STEP. -/
def execRampStep (a : Fin 8) (s : State) : Host.Outcome State Fault Refusal :=
  .next (let r := (s.arr a).ramp
    if s.live && r.stage.ramping && decide (r.since + 500 ≤ s.clock) then
      (s.updArr a fun x => { x with ramp := ⟨r.stage.after, s.clock⟩ }).settle
    else s)

/-- A cue in force names the array. -/
def State.cued (s : State) (a : Nat) : Bool := s.pwr.cues.any fun q => bitAt q.arrays a && decide (s.clock < q.until_)

/-- ARRAY_IDLE: a stream side idle for 5 µs has its clock tree gated. -/
def execArrayIdle (a : Fin 8) (s : State) : Host.Outcome State Fault Refusal :=
  .next (let r := (s.arr a).ramp
    if s.live && r.stage == .full && s.streamIdle a && !s.cued a && decide (5000 + r.since ≤ s.clock) then
      s.updArr a fun x => { x with ramp := ⟨.gated, s.clock⟩ }
    else s)

-- CUE (R154, R372).

/-- The checks of CUE. -/
def prepCue (_ : State) (x : Cmd) : Res Cmd := (Res.check (rsvZero x.w [(112, 400)]) illegal).bind fun _ => .ok x

/-- What a CUE starts: the ramps of the named arrays that are gated, and its predicted increase. One that a write of CUE_EN = 0
has overtaken in its CCLK is superseded (R416). -/
def State.takeCue (s : State) (arrays load lead : Nat) : State :=
  if !s.flag R.PWR_CFG_CUE_EN then (if s.actedNow objPower then s.supCount else s)
  else if lead < 2000 then s else
  let (v, s) := s.takeFree
  let s := s.updPwr fun p => { p with cues := p.cues ++ [⟨arrays, load, s.clock + lead, v⟩] }
  (List.range 8).foldl (fun s a => if bitAt arrays a && (s.arr a).ramp.stage == .gated then s.beginRamp a else s) s

/-- CUE completes at dispatch. -/
def runCue (s : State) (x : Cmd) : State := completeNow (s.takeCue (pkt x.w 64 8) (pkt x.w 72 8) (pkt x.w 80 32)) x

/-- CUE. -/
def execCue (sp : Fin 32) (s : State) : Host.Outcome State Fault Refusal :=
  .next (dispatch sp (fun w => opc w == 0x50) prepCue runCue s)

/-- CUE_LEAD_END: the increase of a cue whose LEAD has passed leaves A, and its arrays' 5 µs begin. -/
def cueLeadEndNow (s : State) : State :=
  let out := s.pwr.cues.filter fun q => decide (q.until_ ≤ s.clock)
  let s := s.updPwr fun p => { p with cues := p.cues.filter fun q => decide (s.clock < q.until_) }
  (List.range 8).foldl (fun s a =>
    if out.any (fun q => bitAt q.arrays a) && (s.arr a).ramp.stage == .full && s.streamIdle a then
      s.updArr a fun x => { x with ramp := { x.ramp with since := max x.ramp.since s.clock } }
    else s) s

/-- CUE_LEAD_END. -/
def execCueLeadEnd (s : State) : Host.Outcome State Fault Refusal := .next (cueLeadEndNow s)

end Sys2Proof.Machine
end

