-- ==== Sys2Proof/Machine/Host.lean ====
section
/-! DEFINITION. The host port: register writes, the DMA queue, BAR4, interrupts, function-level reset and power states (R6,
R403 to R411, R418). -/

namespace Sys2Proof.Machine

-- A register write by access codes (R6, R405).

/-- A write to one field, by its access code. -/
def writeField (w : HW) (n i : Nat) (s : State) (f : Fld) : State :=
  match w.get f with
  | none => s
  | some v =>
    match f.acc with
    | .RW => s.wr f v n i
    | .W1C => s.wr f (s.rd f n i - (s.rd f n i).land v) n i
    | .W1S => s.wr f ((s.rd f n i).lor v) n i
    | _ => s

/-- The entry of an indexed register that stands at offset `o`. -/
def Fld.entry (f : Fld) (o : Nat) : Nat := if f.sub = 0 then 0 else (o - f.off) / f.sub

/-- A write to the fields of the register at offset `o`, but for some. -/
def writeFields (s : State) (b : Blk) (n o : Nat) (w : HW) (but : List Fld) : State :=
  ((fieldsOf b).filter fun f => f.at? o && !but.contains f).foldl (fun s f => writeField w n (f.entry o) s f) s

-- The registers of a context with rules of their own.

/-- Registers that a context fixes at its creation (R277). -/
def fixedOffsets : List Nat := [R.CX_PT_ROOT.off, R.CX_SCRATCH_BASE.off, R.CX_TAKE_BASE.off]

/-- Registers of the stash that are ignored while EN is 1. -/
def stashOffsets : List Nat := [R.CX_STASH_TABLE_BASE.off, R.CX_STASH_WIN_BASE.off, R.CX_STASH_NEAR_BASE.off, R.CX_STASH_POOL_BASE.off]

/-- Registers of the checkpoint engine that are ignored while EN is 1 (R329). -/
def ckptOffsets : List Nat :=
  [R.CX_CKPT_LIST_BASE.off, R.CX_CKPT_PAR_ACCORD.off, R.CX_CKPT_HOLD_BASE.off, R.CX_CKPT_JPEER_DEV_A.off, R.CX_CKPT_JBASE_BASE.off,
   R.CX_CKPT_BIND_BASE.off]

/-- A write to a register of context `c` is ignored now (R205, R277, R329). -/
def State.cxLocked (s : State) (c o : Nat) : Bool :=
  (fixedOffsets.contains o && s.cxState c != 0) || (stashOffsets.contains o && s.flag R.CX_STASH_CTL_EN c) ||
    (ckptOffsets.contains o && s.flag R.CX_CKPT_CTL_EN c) ||
    ((o == R.CX_SHADOW_NEAR_BASE.off || o == R.CX_SHADOW_SLOW_BASE.off) && !(s.cx c).shadows.isEmpty)

/-- The hold semaphores from `h` on take in a semaphore that the device owns (R206). -/
def State.holdClash (s : State) (c h : Nat) : Bool :=
  s.isLearn c && (List.range 4).any fun k => s.semOwned c (h + k)

/-- A write to PRINTS: ignored while a COMMIT waits, and where the range would take in an owned semaphore (R205, R206). -/
def printsWrite (s : State) (c : Nat) (w : HW) : State :=
  match w.get R.CX_PRINTS_HOLD_SEM with
  | none => s
  | some h =>
    if s.holdClash c h || s.cmds.any (fun x => opc x.w == 0x53 && x.cx == c && decide (x.phase = CmdPhase.queued)) then s
    else s.wr R.CX_PRINTS_HOLD_SEM h c

/-- A region of frames without those that a generation still holds (R318). -/
def Pool.without (p : Pool) (used : List Nat) : Pool :=
  used.foldl (fun p f => p.flatMap fun r =>
    if r.1 ≤ f ∧ f < r.1 + pageBytes * r.2 then
      let k := (f - r.1) / pageBytes
      (if k = 0 then [] else [(r.1, k)]) ++ (if r.2 ≤ k + 1 then [] else [(f + pageBytes, r.2 - k - 1)])
    else [r]) p

/-- The shadow pools of an existing context are formed anew from its registers (R196). -/
def State.formPools (s : State) (c : Nat) : State :=
  if s.cxState c = 0 then s else
  let held := (s.cx c).ckpt.held.map fun h => h.frame
  let near := poolOf (s.rdAddr R.CX_SHADOW_NEAR_BASE c) (s.rd R.CX_SHADOW_NEAR_PAGES c)
  let slow := poolOf (s.rdAddr R.CX_SHADOW_SLOW_BASE c) (s.rd R.CX_SHADOW_SLOW_PAGES c)
  s.updCx c fun x => { x with poolNear := near.without held, poolSlow := slow.without held }

/-- A host write to a register of context `c`. -/
def cxWrite (s : State) (c o : Nat) (w : HW) : State :=
  if o = R.CX_CTL_RUN.off then cxCtlWrite s c w
  else if R.CX_SEM_VALUE.at? o then hostSemWrite s c (R.CX_SEM_VALUE.entry o) w
  else if o = R.CX_STASH_CTL_EN.off then stashCtlWrite s c w
  else if o = R.CX_CKPT_CTL_EN.off then ckptCtlWrite s c w
  else if o = R.CX_CKPT_OP_OP.off then ckptOpWrite s c w
  else if o = R.CX_PRINTS_HOLD_SEM.off then printsWrite s c w
  else if s.cxLocked c o then s
  else
    let s := writeFields s .CX c o w (if s.cxState c = 0 then [] else [R.CX_MEMPART_PART])
    let s := if o = R.CX_SHADOW_NEAR_BASE.off ∨ o = R.CX_SHADOW_SLOW_BASE.off then s.formPools c else s
    s.settle

-- The DMA queue's registers (R407, R408, R418).

/-- Descriptors of the ring: LOG2_SIZE outside 4 to 16 acts as 4. -/
def State.dmaSize (s : State) : Nat :=
  let l := s.rd R.PX_DMA_RING_LOG2_SIZE
  if 4 ≤ l ∧ l ≤ 16 then 2 ^ l else 16

/-- A value of TAIL is accepted under the rule of R121. -/
def State.tailOk (s : State) (v : Nat) : Bool :=
  s.flag R.PX_DMA_RING_EN &&
    decide ((2 ^ 32 + v - s.rd R.PX_DMA_PTRS_TAIL) % 2 ^ 32 ≤ s.dmaSize) &&
    decide ((2 ^ 32 + v - s.rd R.PX_DMA_PTRS_HEAD) % 2 ^ 32 ≤ s.dmaSize)

/-- A host write to PX.DMA_PTRS. -/
def dmaPtrsWrite (s : State) (w : HW) : State :=
  match w.get R.PX_DMA_PTRS_TAIL with
  | none => s
  | some v => if s.tailOk v then s.wr R.PX_DMA_PTRS_TAIL v else s.setFlag R.PX_DMA_STAT_BAD_TAIL true

/-- EN of the DMA ring goes from 0 to 1: the counts return to zero, and what stopped the queue is cleared (R408). -/
def State.dmaStart (s : State) : State :=
  [R.PX_DMA_PTRS_HEAD, R.PX_DMA_PTRS_TAIL, R.PX_DMA_STAT_ERR, R.PX_DMA_STAT_CAUSE, R.PX_DMA_STAT_ERR_INDEX].foldl
    (fun s f => s.wr f 0) s

/-- A host write to PX.DMA_RING: fields other than EN are ignored while EN is 1 (R418). -/
def dmaRingWrite (s : State) (w : HW) : State :=
  let was := s.flag R.PX_DMA_RING_EN
  let s := if was then s else s.puts w [R.PX_DMA_RING_BASE, R.PX_DMA_RING_LOG2_SIZE, R.PX_DMA_RING_VECTOR]
  let s := s.put w R.PX_DMA_RING_EN
  if !was && s.flag R.PX_DMA_RING_EN then s.dmaStart else s

/-- DMA_TAIL: a write of TAIL to PX.DMA_PTRS. -/
def execDmaTail (v : Word) (s : State) : Host.Outcome State Fault Refusal :=
  .next (s.hostGate .PX 0 R.PX_DMA_PTRS_TAIL.off fun s => dmaPtrsWrite s (hw8 v.toNat))

/-- DMA_ENABLE: the write that changes EN from 0 to 1. -/
def execDmaEnable (v : Word) (s : State) : Host.Outcome State Fault Refusal :=
  .next (s.hostGate .PX 0 R.PX_DMA_RING_EN.off fun s =>
    if s.flag R.PX_DMA_RING_EN || !(hw8 v.toNat).one R.PX_DMA_RING_EN then s else dmaRingWrite s (hw8 v.toNat))

/-- A host write to a register of PX. -/
def pxWrite (s : State) (o : Nat) (w : HW) : State :=
  if o = R.PX_DMA_RING_EN.off then dmaRingWrite s w
  else if o = R.PX_DMA_PTRS_TAIL.off then dmaPtrsWrite s w
  else writeFields s .PX 0 o w []

-- Interrupt vectors (R409).

/-- The pending bit of a vector. -/
def State.vectorPending (s : State) (v : Nat) : Bool := bitAt (s.word (R.MSIX_PBA_PENDING.addr 0 (v / 64))).toNat (v % 64)

/-- Clear the pending bit of a vector. -/
def State.clearPending (s : State) (v : Nat) : State :=
  let a := R.MSIX_PBA_PENDING.addr 0 (v / 64)
  s.setWord a (s.word a &&& ~~~(1#64 <<< (v % 64)))

/-- The message of a vector that is pending and unmasked leaves, and its pending bit clears. -/
def State.sendPending (s : State) (v : Nat) : State :=
  if s.vectorPending v && !s.flag R.MSIX_CTRL_MASK 0 v && !s.boot.d3hot then (s.clearPending v).emit (.msix v) else s

/-- A host write to the control word of a vector: the message of one that is pending follows its unmask. -/
def msixCtrlWrite (s : State) (v : Nat) (w : HW) : State := (writeFields s .MSIX 0 (8 + 16 * v) w []).sendPending v

/-- A host write to the MSIX block. -/
def msixWrite (s : State) (o : Nat) (w : HW) : State :=
  if R.MSIX_CTRL_MASK.at? o then msixCtrlWrite s (R.MSIX_CTRL_MASK.entry o) w else writeFields s .MSIX 0 o w []

/-- VECTOR_UNMASK: a write to the control word of a masked vector that is pending, which unmasks it. -/
def execVectorUnmask (i : Fin 2048) (v : Word) (s : State) : Host.Outcome State Fault Refusal :=
  .next (s.hostGate .MSIX 0 (8 + 16 * i.val) fun s =>
    if s.flag R.MSIX_CTRL_MASK 0 i && s.vectorPending i && (hw8 v.toNat).get R.MSIX_CTRL_MASK == some 0 then
      msixCtrlWrite s i (hw8 v.toNat)
    else s)

-- Every register (R6, R405).

/-- A host write to a register of MGT. -/
def mgtWrite (s : State) (o : Nat) (w : HW) : State :=
  if o = R.MGT_PUSH_GO.off then pushWrite s w
  else if o = R.MGT_LC_TOKEN_ADDR.off then lcTokenWrite s w
  else writeFields s .MGT 0 o w []

/-- A host write to a register of DBG. -/
def dbgWrite (s : State) (o : Nat) (w : HW) : State :=
  if o = R.DBG_RUSH_CTL_EN.off then rushCtlWrite s w
  else if o = R.DBG_RUSH_TRIG_NOW.off then rushTrigWrite s w
  else if o = R.DBG_CUT_CTL_NOW.off then cutCtlWrite s w
  else if o = R.DBG_CUT_AT_AT.off then cutAtWrite s w
  else writeFields s .DBG 0 o w []

/-- A host write to a register of REC. -/
def recBlockWrite (s : State) (o : Nat) (w : HW) : State :=
  if o = R.REC_CTL_FREEZE.off then recCtlWrite s w
  else if o = R.REC_CLEAR_ADDR.off then clearWrite s w
  else writeFields s .REC 0 o w []

/-- A host write to a register of PMC. -/
def pmcWrite (s : State) (o : Nat) (w : HW) : State :=
  if o = R.PMC_CTL_SNAP.off then pmcCtlWrite s w
  else if R.PMC_SEL_EN.at? o then pmcSelWrite s (R.PMC_SEL_EN.entry o) w
  else writeFields s .PMC 0 o w []

/-- A host write to a register of CAST: the pool of a context with a valid entry is fixed (R307). -/
def castWrite (s : State) (o : Nat) (w : HW) : State :=
  if R.CAST_POOL_BASE.at? (o / 16 * 16) && !(s.castOfCx ((o - R.CAST_POOL_BASE.off) / 16)).isEmpty then s
  else writeFields s .CAST 0 o w []

/-- A host write to the register at offset `o` of instance `n` of a block. -/
def blockWrite (s : State) (b : Blk) (n o : Nat) (w : HW) : State :=
  match b with
  | .CX => cxWrite s n o w
  | .SP =>
    if o = R.SP_RING_CTL_EN.off then ringCtlWrite s n w
    else if o = R.SP_RING_BASE_BASE.off then ringBaseWrite s n w
    else writeFields s .SP n o w []
  | .LK =>
    if o = R.LK_CTL_EN.off then lkCtlWrite s n w
    else if o = R.LK_CREDIT_VC0.off then lkCreditWrite s n w
    else writeFields s .LK n o w []
  | .MGT => mgtWrite s o w
  | .PX => pxWrite s o w
  | .PWR =>
    if o = R.PWR_CFG_OPMAX.off then pwrCfgWrite s w
    else if o = R.PWR_CAP_HOST_LIMIT_W.off then capHostWrite s w
    else s
  | .TSU => if o = R.TSU_CLAP_RUN.off then clapWrite s w else writeFields s .TSU 0 o w []
  | .BST => if o = R.BST_SAVE_BASE.off then bstSaveWrite s w else writeFields s .BST 0 o w []
  | .NT =>
    let s := writeFields s .NT 0 o w []
    if o = R.NT_REPAIR_CFG_AUTO.off then s.nextMigration else s
  | .XLT => writeFields s .XLT 0 o w (if s.flag R.XLT_PRT_EN then [R.XLT_PRT_BASE, R.XLT_PRT_ENTRIES] else [])
  | .SEC => if o = R.SEC_ATT_CTL_GO.off then attCtlWrite s w else writeFields s .SEC 0 o w []
  | .PMC => pmcWrite s o w
  | .CAST => castWrite s o w
  | .DBG => dbgWrite s o w
  | .REC => recBlockWrite s o w
  | .MSIX => msixWrite s o w
  | .MA => if o = R.MA_WLOAD_CFG_PREFETCH_EN.off then (writeFields s .MA n o w []).settle else s
  | .NCACHE => writeFields s .NCACHE 0 o w []
  | .CE => writeFields s .CE 0 o w []
  | .UD => writeFields s .UD 0 o w []

/-- A host write of `size` bytes to a BAR0 offset; one of another size or alignment has no effect (R9, R405). -/
def hostWrite (s : State) (off size v : Nat) : State :=
  match hwOf off size v, blockAt (off / 8 * 8) with
  | some w, some (b, n) =>
    let o := off / 8 * 8 - blkBase b - blkStride b * n
    s.hostGate b n o fun s => blockWrite s b n o w
  | _, _ => s

/-- REGISTER_WRITE. -/
def execRegisterWrite (off size : Nat) (v : Word) (s : State) : Host.Outcome State Fault Refusal :=
  .next (hostWrite s off size v.toNat)

-- DMA descriptors (R407, R408).

/-- A range lies in scratch, the usable near tier or the populated slow tier. -/
def State.dmaRange (s : State) (a n : Nat) : Bool := s.inNear a n || s.inSlow a n || within a n scratchBase 0x10000000

/-- The queue stops at its descriptor (R408). -/
def State.dmaStop (s : State) (cause : Nat) : State :=
  let s := s.setFlag R.PX_DMA_STAT_ERR true
  (s.wr R.PX_DMA_STAT_CAUSE cause).wr R.PX_DMA_STAT_ERR_INDEX (s.rd R.PX_DMA_PTRS_HEAD)

/-- A descriptor is complete: HEAD passes it, and its vector follows. -/
def State.dmaPass (s : State) (irq : Bool) : State :=
  let s := s.wr R.PX_DMA_PTRS_HEAD (s.rd R.PX_DMA_PTRS_HEAD + 1)
  if irq then s.msix (s.rd R.PX_DMA_RING_VECTOR) else s

/-- Device to host: what lies before an uncorrectable block is moved. -/
def State.dmaOut (s : State) (host dev n : Nat) (irq : Bool) : State :=
  match s.badIn dev n with
  | none => (s.emit (.hostWrite host (s.pread dev n))).dmaPass irq
  | some b =>
    let s := if dev < b then s.emit (.hostWrite host (s.pread dev (b - dev))) else s
    (s.uncorrEvent b none true).dmaStop 2

/-- Bytes from the host reach the device; one that covers an uncorrectable block in part stops the queue. -/
def State.dmaIn (s : State) (dev : Nat) (bs : List Byte) : State × Bool :=
  match s.badMerge dev bs.length with
  | none => (s.pwrite dev bs, true)
  | some b => (((s.pwrite dev bs).uncorrEvent b none true).dmaStop 2, false)

/-- Host to device, with what the host's side came to. -/
def State.dmaTake (s : State) (dev n : Nat) (irq : Bool) (r : HostReply) : State :=
  match r with
  | .ok bs =>
    if bs.length ≠ n then s else
    let q := s.dmaIn dev bs
    if q.2 then q.1.dmaPass irq else q.1
  | .error bs =>
    if n < bs.length then s else
    let q := s.dmaIn dev bs
    if q.2 then q.1.dmaStop 3 else q.1

/-- The descriptor at HEAD is carried out: it completes, or stops the queue. -/
def dmaStep (s : State) (r : HostReply) : State :=
  let st := s.rd R.MGT_START_STATE
  if !s.dmaBusy || (st != 2 && st != 3) || s.flag R.DBG_CUT_STAT_CUT || s.recd.stopped then s else
  let a := s.rdAddr R.PX_DMA_RING_BASE + 32 * (s.rd R.PX_DMA_PTRS_HEAD % s.dmaSize)
  if !s.inNear a 32 then s.dmaStop 1 else
  match s.badIn a 32 with
  | some b => (s.uncorrEvent b none true).dmaStop 2
  | none =>
    let d := s.preadNat a 32
    let dev := bitsAt d 64 48
    let n := bitsAt d 128 40
    if bitsAt d 114 14 ≠ 0 ∨ bitsAt d 168 88 ≠ 0 ∨ n = 0 ∨ s.dmaRange dev n = false then s.dmaStop 1
    else if bitAt d 112 then s.dmaTake dev n (bitAt d 113) r
    else s.dmaOut (bitsAt d 0 64) dev n (bitAt d 113)

/-- DMA_DESCRIPTOR. -/
def execDmaDescriptor (r : HostReply) (s : State) : Host.Outcome State Fault Refusal := .next (dmaStep s r)

-- BAR4 (R387, R406).

/-- Bytes of the window: 64 GiB. -/
def bar4Bytes : Nat := 0x1000000000

/-- Where a BAR4 offset reaches: the device address, and how many of `n` bytes from there are served. -/
def State.bar4Place (s : State) (off n : Nat) : Nat × Nat :=
  if s.rd R.MGT_START_STATE = 1 then (scratchBase + off, min n (0x1000000 - off))
  else
    let a := s.rdAddr R.PX_BAR4_WIN_BASE + off
    (a, min n (s.nearBytes - a))

/-- BAR4 answers reads: the device is READY, in SAFE, in RECOVERY or cut (R347, R380, R387, R400). -/
def State.bar4Answers (s : State) : Bool := s.answers && s.rd R.MGT_START_STATE != 5

/-- A host read through BAR4: an uncorrectable block aborts it. -/
def bar4ReadNow (s : State) (off n : Nat) : State :=
  if !s.bar4Answers || decide (bar4Bytes < off + n) then s else
  let p := s.bar4Place off n
  match s.badIn p.1 p.2 with
  | some b => (s.uncorrEvent b none true).emit .bar4Abort
  | none => s.emit (.bar4Data (s.pread p.1 p.2 ++ List.replicate (n - p.2) 0))

/-- BAR4_READ. -/
def execBar4Read (off len : Nat) (s : State) : Host.Outcome State Fault Refusal := .next (bar4ReadNow s off len)

/-- BAR4 takes writes: the device is READY or in RECOVERY, and not cut (R347, R387, R400). -/
def State.bar4Takes (s : State) : Bool :=
  s.answers && (s.rd R.MGT_START_STATE == 1 || s.rd R.MGT_START_STATE == 2) && !s.flag R.DBG_CUT_STAT_CUT

/-- A host write through BAR4: bytes beyond what is served are dropped, and so are those of an uncorrectable block that
the write covers in part (R224, R406). -/
def bar4WriteNow (s : State) (off : Nat) (bs : List Byte) : State :=
  if !s.bar4Takes || decide (bar4Bytes < off + bs.length) then s else
  let p := s.bar4Place off bs.length
  let s' := s.pwrite p.1 (bs.take p.2)
  match s.badMerge p.1 p.2 with
  | some b => s'.uncorrEvent b none true
  | none => s'

/-- BAR4_WRITE. -/
def execBar4Write (off : Nat) (bytes : List Byte) (s : State) : Host.Outcome State Fault Refusal :=
  .next (bar4WriteNow s off bytes)

-- The function (R380, R410, R411).

/-- CONFIG_REQUEST: Request Retry Status while STARTING, else a normal completion. -/
def execConfigRequest (k : ConfigKind) (s : State) : Host.Outcome State Fault Refusal :=
  .next (match k with
    | .read => if s.recd.stopped then s else s.emit (.config (s.rd R.MGT_START_STATE != 0))
    | .write => if s.recd.stopped then s else s.emit (.config (s.rd R.MGT_START_STATE != 0)))

/-- Registers of a range of offsets return to their reset values. -/
def State.resetRange (s : State) (a n : Nat) : State :=
  { s with regs := s.regs.filter fun r => !(decide (a ≤ r.1) && decide (r.1 < a + n)) }

/-- The RW fields of the CX blocks return to their reset values; the others stay (R410). -/
def State.resetCxFields (s : State) : State :=
  (s.regs.filter fun r => decide (blkBase .CX ≤ r.1)).foldl (fun s r =>
    ((fieldsAt r.1).filter fun f => f.acc == .RW).foldl (fun s f => s.setWord r.1 (putField (s.word r.1) f.lo f.wid f.rst)) s) s

/-- Every context is destroyed (R295, R410); what its stash and its checkpoint engine held goes with their EN. -/
def State.destroyAll (s : State) : State :=
  (List.range 16).foldl (fun s c => (destroyCx s c).updCx c fun x => { x with stash := {} }) s

/-- What a function-level reset resets in PX: the window and the DMA queue. -/
def State.resetPx (s : State) : State := s.resetRange (blkBase .PX + R.PX_BAR4_WIN_BASE.off) 0x20

/-- The effects of a function-level reset (R410). -/
def State.flrEffects (s : State) : State :=
  let s := s.destroyAll.resetCxFields
  let s := { s.resetRange (blkBase .SP) (32 * 0x1000) with sps := Vector.replicate 32 {} }
  let s := (s.resetRange (blkBase .CAST + 0x100) 0x100).resetPx
  let s := (s.setOpmax 0).wr R.PWR_CFG_CUE_EN 1
  let s := s.wr R.PWR_CAP_HOST_LIMIT_W 0xCE4
  let s := s.resetRange (blkBase .MSIX) 0x10000
  let s := s.resetRange (blkBase .MGT + R.MGT_ORDER_HOST_SUP.off) 8
  s.updBoot fun b => { b with d3hot := false }

/-- A function-level reset; one that a start has overtaken in its own CCLK is superseded (R416). -/
def flrNow (s : State) : State :=
  if s.recd.stopped then s
  else if s.rd R.MGT_START_STATE = 0 then (if s.actedNow objDevice then s.supCount else s)
  else (s.flrEffects.act objDevice).settle

/-- FUNCTION_LEVEL_RESET. -/
def execFunctionLevelReset (s : State) : Host.Outcome State Fault Refusal := .next (flrNow s)

/-- The function enters D3hot, or returns to D0: nothing is reset, and messages that waited leave (log entry 21). -/
def d3hotNow (s : State) (enter : Bool) : State :=
  if s.rd R.MGT_START_STATE = 0 ∨ s.recd.stopped = true then s
  else
    let s := s.updBoot fun b => { b with d3hot := enter }
    if enter then s else (List.range 2048).foldl State.sendPending s

/-- D3HOT. -/
def execD3hot (enter : Bool) (s : State) : Host.Outcome State Fault Refusal := .next (d3hotNow s enter)

end Sys2Proof.Machine
end

