-- ==== Sys2Proof/Machine/I3c.lean ====
section
/-! DEFINITION. The board controller's port: the dynamic address and the commands of I3C (R412 to R416). -/

namespace Sys2Proof.Machine

/-- The port answers: P0 has ended and the package has power (R412). -/
def State.i3cUp (s : State) : Bool := !s.recd.stopped && (s.rd R.MGT_START_STATE != 0 || s.rd R.MGT_START_PHASE != 0)

/-- The provisional ID: the manufacturer in [47:33], bytes 0 to 3 of the device identifier in [31:0], zero in BLANK. -/
def State.provisionalId (s : State) : Nat := 0x05D3 * 2 ^ 33 + (if s.lifeCycle = 0 then 0 else leNat (deviceId.take 4))

/-- ENTDAA: the device sends its provisional ID and takes the dynamic address. -/
def entdaaNow (s : State) (addr : Nat) : State :=
  if s.i3cUp then
    ((s.emit (.i3c (leBytes 6 s.provisionalId))).wr R.MGT_I3C_DYN_ADDR addr).setFlag R.MGT_I3C_ASSIGNED true
  else s

/-- ENTDAA. -/
def execEntdaa (addr : BitVec 7) (s : State) : Host.Outcome State Fault Refusal := .next (entdaaNow s addr.toNat)

/-- A command reaches the device at its dynamic address, its only one: its byte is noted, and it is carried out (R412,
R413). -/
def State.i3cCommand (s : State) (byte : Nat) (f : State → State) : State :=
  if s.i3cUp && s.flag R.MGT_I3C_ASSIGNED then f (s.wr R.MGT_I3C_LAST_CMD byte) else s

/-- A reply: a status byte and its data. -/
def State.reply (s : State) (status : Nat) (bs : List Byte) : State := s.emit (.i3c (leBytes 1 status ++ bs))

/-- An order of the board controller is superseded (R416). -/
def State.i3cSuperseded (s : State) : State := s.supCount.reply 3 []

/-- READ_STATUS: MGT.START [31:0], the life-cycle code, UD_AVAIL, SEATED and CUT, the device number. -/
def readStatusNow (s : State) : State :=
  s.reply 0 (leBytes 4 (s.word R.MGT_START_STATE.addr).toNat ++ leBytes 1 (s.rd R.MGT_LC_STATE) ++
    leBytes 1 (s.rd R.MGT_POPULATION_UD_AVAIL + 2 * s.rd R.MGT_SEAT_SEATED + 4 * s.rd R.DBG_CUT_STAT_CUT) ++ leBytes 2 s.dev)

/-- READ_STATUS. -/
def execReadStatus (s : State) : Host.Outcome State Fault Refusal := .next (s.i3cCommand 0x01 readStatusNow)

/-- SET_CAP: the board's limit is written and read back (R367, R377). -/
def setCapNow (w : Nat) (s : State) : State :=
  let s := s.setLimit R.PWR_CAP_BOARD_LIMIT_W w
  s.reply 0 (leBytes 2 (s.rd R.PWR_CAP_BOARD_LIMIT_W))

/-- SET_CAP. -/
def execSetCap (watts : BitVec 16) (s : State) : Host.Outcome State Fault Refusal :=
  .next (s.i3cCommand 0x02 (setCapNow watts.toNat))

/-- READ_ID: the device identifier and the part number. -/
def readIdNow (s : State) : State := s.reply 0 (deviceId ++ leBytes 2 (s.word R.MGT_DEVICE_ID_PART.addr).toNat)

/-- READ_ID. -/
def execReadId (s : State) : Host.Outcome State Fault Refusal := .next (s.i3cCommand 0x03 readIdNow)

/-- CUT: an immediate cut is ordered; refused where the device has nothing to freeze, superseded by an order of its own CCLK
(R346, R416). -/
def i3cCutNow (s : State) : State :=
  let st := s.rd R.MGT_START_STATE
  if (st != 2 && st != 3) || s.flag R.DBG_CUT_STAT_CUT then s.reply 2 []
  else if s.cutNowActed then s.i3cSuperseded
  else ((s.orderCut.act objCut).reply 0 []).settle

/-- CUT. -/
def execI3cCut (s : State) : Host.Outcome State Fault Refusal := .next (s.i3cCommand 0x04 i3cCutNow)

/-- ENTER_SAFE: SAFE is entered with SAFE_UNIT 0; refused for a wrong argument or where SAFE cannot be entered, superseded by
a SAFE entry of its own CCLK (R400, R416). -/
def enterSafeNow (arg : Nat) (s : State) : State :=
  if arg ≠ 0x5AFE then s.reply 2 []
  else if s.rd R.MGT_START_STATE = 3 ∧ s.actedNow objDevice = true then s.i3cSuperseded
  else
    let t := s.enterSafe 0 safetyOrder
    if t.rd R.MGT_START_STATE = 3 ∧ s.rd R.MGT_START_STATE ≠ 3 then t.reply 0 [] else s.reply 2 []

/-- ENTER_SAFE. -/
def execEnterSafe (arg : BitVec 16) (s : State) : Host.Outcome State Fault Refusal :=
  .next (s.i3cCommand 0x05 (enterSafeNow arg.toNat))

/-- RESTART: once its reply is read a start begins (R378). -/
def restartNow (arg : Nat) (s : State) : State := if arg = 0x57A7 then (s.reply 0 []).beginStart else s.reply 2 []

/-- RESTART. -/
def execRestart (arg : BitVec 16) (s : State) : Host.Outcome State Fault Refusal :=
  .next (s.i3cCommand 0x06 (restartNow arg.toNat))

/-- READ_REEL: the 64 bytes of a slot. -/
def readReelNow (slot : Nat) (s : State) : State := s.reply 0 (leBytes 64 (s.reelSlot slot).toNat)

/-- READ_REEL. -/
def execReadReel (slot : BitVec 16) (s : State) : Host.Outcome State Fault Refusal :=
  .next (s.i3cCommand 0x07 (readReelNow slot.toNat))

end Sys2Proof.Machine
end

