-- ==== Sys2Proof/Machine/Dispatch.lean ====
section
/-! DEFINITION. One arm for each command: a direct call of its meaning. -/

namespace Sys2Proof.Machine

/-- The effect of a command on everything but the queue. -/
def exec (i : Instr) (s : State) : Host.Outcome State Fault Refusal :=
  match i with
  | .nop sp => Sys2Proof.Machine.execNop sp s
  | .wload sp => Sys2Proof.Machine.execWload sp s
  | .stream sp => Sys2Proof.Machine.execStream sp s
  | .wgrad sp => Sys2Proof.Machine.execWgrad sp s
  | .drainFinal sp => Sys2Proof.Machine.execDrainFinal sp s
  | .drainSpill sp => Sys2Proof.Machine.execDrainSpill sp s
  | .drainAdd sp => Sys2Proof.Machine.execDrainAdd sp s
  | .drainConvertImage sp => Sys2Proof.Machine.execDrainConvertImage sp s
  | .convgen sp => Sys2Proof.Machine.execConvgen sp s
  | .finish sp => Sys2Proof.Machine.execFinish sp s
  | .hcount sp => Sys2Proof.Machine.execHcount sp s
  | .move sp => Sys2Proof.Machine.execMove sp s
  | .gather sp => Sys2Proof.Machine.execGather sp s
  | .scatter sp => Sys2Proof.Machine.execScatter sp s
  | .put sp => Sys2Proof.Machine.execPut sp s
  | .get sp => Sys2Proof.Machine.execGet sp s
  | .reduce sp => Sys2Proof.Machine.execReduce sp s
  | .allgather sp => Sys2Proof.Machine.execAllgather sp s
  | .reduceScatter sp => Sys2Proof.Machine.execReduceScatter sp s
  | .alltoallRagged sp => Sys2Proof.Machine.execAlltoallRagged sp s
  | .barrier sp => Sys2Proof.Machine.execBarrier sp s
  | .semWait sp => Sys2Proof.Machine.execSemWait sp s
  | .semPost sp => Sys2Proof.Machine.execSemPost sp s
  | .waitVersion sp => Sys2Proof.Machine.execWaitVersion sp s
  | .fence sp => Sys2Proof.Machine.execFence sp s
  | .cue sp => Sys2Proof.Machine.execCue sp s
  | .stepBegin sp => Sys2Proof.Machine.execStepBegin sp s
  | .stepVerdict sp => Sys2Proof.Machine.execStepVerdict sp s
  | .commit sp => Sys2Proof.Machine.execCommit sp s
  | .dataCommit sp => Sys2Proof.Machine.execDataCommit sp s
  | .takePoint sp => Sys2Proof.Machine.execTakePoint sp s
  | .update sp => Sys2Proof.Machine.execUpdate sp s
  | .castAdmit sp => Sys2Proof.Machine.execCastAdmit sp s
  | .build sp => Sys2Proof.Machine.execBuild sp s
  | .advance sp => Sys2Proof.Machine.execAdvance sp s
  | .retire sp => Sys2Proof.Machine.execRetire sp s
  | .park sp => Sys2Proof.Machine.execPark sp s
  | .unpark sp => Sys2Proof.Machine.execUnpark sp s
  | .snapshot sp => Sys2Proof.Machine.execSnapshot sp s
  | .commandCompletion id => Sys2Proof.Machine.execCommandCompletion id s
  | .placement id => Sys2Proof.Machine.execPlacement id s
  | .wloadBegin id => Sys2Proof.Machine.execWloadBegin id s
  | .slotCommit id => Sys2Proof.Machine.execSlotCommit id s
  | .rowEntry a => Sys2Proof.Machine.execRowEntry a s
  | .ringArrival a => Sys2Proof.Machine.execRingArrival a s
  | .drainRow a => Sys2Proof.Machine.execDrainRow a s
  | .doorbell sp v => Sys2Proof.Machine.execDoorbell sp v s
  | .ringEnable sp v => Sys2Proof.Machine.execRingEnable sp v s
  | .ringDisable sp v => Sys2Proof.Machine.execRingDisable sp v s
  | .hostSemaphoreWrite cx k v => Sys2Proof.Machine.execHostSemaphoreWrite cx k v s
  | .registerWrite off size v => Sys2Proof.Machine.execRegisterWrite off size v s
  | .readClear off size => Sys2Proof.Machine.execReadClear off size s
  | .stepClose cx => Sys2Proof.Machine.execStepClose cx s
  | .updateBegin id => Sys2Proof.Machine.execUpdateBegin id s
  | .pass1End id => Sys2Proof.Machine.execPass1End id s
  | .pass2End id => Sys2Proof.Machine.execPass2End id s
  | .commitWaitsMet id => Sys2Proof.Machine.execCommitWaitsMet id s
  | .offloadDone cx => Sys2Proof.Machine.execOffloadDone cx s
  | .recallDone cx => Sys2Proof.Machine.execRecallDone cx s
  | .admission cx => Sys2Proof.Machine.execAdmission cx s
  | .stashEnable cx v => Sys2Proof.Machine.execStashEnable cx v s
  | .create cx v => Sys2Proof.Machine.execCreate cx v s
  | .destroy cx v => Sys2Proof.Machine.execDestroy cx v s
  | .run cx v => Sys2Proof.Machine.execRun cx v s
  | .xltInv cx v => Sys2Proof.Machine.execXltInv cx v s
  | .invalidationDone cx => Sys2Proof.Machine.execInvalidationDone cx s
  | .takeWritten cx => Sys2Proof.Machine.execTakeWritten cx s
  | .controlRestored cx => Sys2Proof.Machine.execControlRestored cx s
  | .putData p f => Sys2Proof.Machine.execPutData p f s
  | .getReq p f => Sys2Proof.Machine.execGetReq p f s
  | .post p f => Sys2Proof.Machine.execPost p f s
  | .putAck p f => Sys2Proof.Machine.execPutAck p f s
  | .getData p f => Sys2Proof.Machine.execGetData p f s
  | .refuse p f => Sys2Proof.Machine.execRefuse p f s
  | .collData p f => Sys2Proof.Machine.execCollData p f s
  | .collReady p f => Sys2Proof.Machine.execCollReady p f s
  | .collAbort p f => Sys2Proof.Machine.execCollAbort p f s
  | .rollReply p f r => Sys2Proof.Machine.execRollReply p f r s
  | .clapper p f => Sys2Proof.Machine.execClapper p f s
  | .cut p f => Sys2Proof.Machine.execCut p f s
  | .loss p f => Sys2Proof.Machine.execLoss p f s
  | .link p f => Sys2Proof.Machine.execLink p f s
  | .linkAck p => Sys2Proof.Machine.execLinkAck p s
  | .portLock p => Sys2Proof.Machine.execPortLock p s
  | .trainingTimeout p => Sys2Proof.Machine.execTrainingTimeout p s
  | .laneLockLoss p lane => Sys2Proof.Machine.execLaneLockLoss p lane s
  | .rollResend p => Sys2Proof.Machine.execRollResend p s
  | .seatTimeout => Sys2Proof.Machine.execSeatTimeout s
  | .ackTimeout p => Sys2Proof.Machine.execAckTimeout p s
  | .fecErrorLimit p => Sys2Proof.Machine.execFecErrorLimit p s
  | .retry p v => Sys2Proof.Machine.execRetry p v s
  | .readyResend id => Sys2Proof.Machine.execReadyResend id s
  | .messageTimeout msg => Sys2Proof.Machine.execMessageTimeout msg s
  | .collTimeout id => Sys2Proof.Machine.execCollTimeout id s
  | .readyTimeout id => Sys2Proof.Machine.execReadyTimeout id s
  | .versionPoll sp => Sys2Proof.Machine.execVersionPoll sp s
  | .retrain phys => Sys2Proof.Machine.execRetrain phys s
  | .retrainEnd phys ok => Sys2Proof.Machine.execRetrainEnd phys ok s
  | .slowRetrain ch => Sys2Proof.Machine.execSlowRetrain ch s
  | .scrub addr r => Sys2Proof.Machine.execScrub addr r s
  | .channelFailing ch why => Sys2Proof.Machine.execChannelFailing ch why s
  | .spareTrained ok => Sys2Proof.Machine.execSpareTrained ok s
  | .migrationCopyEnd => Sys2Proof.Machine.execMigrationCopyEnd s
  | .powerSample milliwatts => Sys2Proof.Machine.execPowerSample milliwatts s
  | .dividerChange => Sys2Proof.Machine.execDividerChange s
  | .rampStep a => Sys2Proof.Machine.execRampStep a s
  | .arrayIdle a => Sys2Proof.Machine.execArrayIdle a s
  | .cueLeadEnd => Sys2Proof.Machine.execCueLeadEnd s
  | .capHost v => Sys2Proof.Machine.execCapHost v s
  | .opmax v => Sys2Proof.Machine.execOpmax v s
  | .snap v => Sys2Proof.Machine.execSnap v s
  | .clapperRun v => Sys2Proof.Machine.execClapperRun v s
  | .clapperTimeout => Sys2Proof.Machine.execClapperTimeout s
  | .rearm v => Sys2Proof.Machine.execRearm v s
  | .triggerNow v => Sys2Proof.Machine.execTriggerNow v s
  | .cutNow v => Sys2Proof.Machine.execCutNow v s
  | .cutAt v => Sys2Proof.Machine.execCutAt v s
  | .cutFreeze => Sys2Proof.Machine.execCutFreeze s
  | .freeze v => Sys2Proof.Machine.execFreeze v s
  | .freezeExpiry => Sys2Proof.Machine.execFreezeExpiry s
  | .repeatFlush => Sys2Proof.Machine.execRepeatFlush s
  | .clear v => Sys2Proof.Machine.execClear v s
  | .pwrfailRise => Sys2Proof.Machine.execPwrfailRise s
  | .pwrfailFall => Sys2Proof.Machine.execPwrfailFall s
  | .fuse => Sys2Proof.Machine.execFuse s
  | .secTest ok => Sys2Proof.Machine.execSecTest ok s
  | .keys => Sys2Proof.Machine.execKeys s
  | .image flash => Sys2Proof.Machine.execImage flash s
  | .xspiModeTimeout => Sys2Proof.Machine.execXspiModeTimeout s
  | .selfTest failed => Sys2Proof.Machine.execSelfTest failed s
  | .memory nearBad slow => Sys2Proof.Machine.execMemory nearBad slow s
  | .fabric => Sys2Proof.Machine.execFabric s
  | .release => Sys2Proof.Machine.execRelease s
  | .push v => Sys2Proof.Machine.execPush v s
  | .attestationRequest v => Sys2Proof.Machine.execAttestationRequest v s
  | .attestationReport => Sys2Proof.Machine.execAttestationReport s
  | .lcToken v => Sys2Proof.Machine.execLcToken v s
  | .tapInstruction t => Sys2Proof.Machine.execTapInstruction t s
  | .junctionOvertemp => Sys2Proof.Machine.execJunctionOvertemp s
  | .safePortShutdown => Sys2Proof.Machine.execSafePortShutdown s
  | .sliceDue => Sys2Proof.Machine.execSliceDue s
  | .quietPoint => Sys2Proof.Machine.execQuietPoint s
  | .quietTimeout => Sys2Proof.Machine.execQuietTimeout s
  | .sliceEnd ok => Sys2Proof.Machine.execSliceEnd ok s
  | .checkpointEnable cx v => Sys2Proof.Machine.execCheckpointEnable cx v s
  | .snapshotInstant cx => Sys2Proof.Machine.execSnapshotInstant cx s
  | .locallyComplete cx => Sys2Proof.Machine.execLocallyComplete cx s
  | .slotZeroed cx => Sys2Proof.Machine.execSlotZeroed cx s
  | .ckptExport cx v => Sys2Proof.Machine.execCkptExport cx v s
  | .sendStripes cx v => Sys2Proof.Machine.execSendStripes cx v s
  | .restore cx v => Sys2Proof.Machine.execRestore cx v s
  | .dmaTail v => Sys2Proof.Machine.execDmaTail v s
  | .dmaEnable v => Sys2Proof.Machine.execDmaEnable v s
  | .dmaDescriptor r => Sys2Proof.Machine.execDmaDescriptor r s
  | .bar4Read off len => Sys2Proof.Machine.execBar4Read off len s
  | .bar4Write off bytes => Sys2Proof.Machine.execBar4Write off bytes s
  | .configRequest k => Sys2Proof.Machine.execConfigRequest k s
  | .functionLevelReset => Sys2Proof.Machine.execFunctionLevelReset s
  | .d3hot enter => Sys2Proof.Machine.execD3hot enter s
  | .vectorUnmask k v => Sys2Proof.Machine.execVectorUnmask k v s
  | .entdaa addr => Sys2Proof.Machine.execEntdaa addr s
  | .readStatus => Sys2Proof.Machine.execReadStatus s
  | .setCap watts => Sys2Proof.Machine.execSetCap watts s
  | .readId => Sys2Proof.Machine.execReadId s
  | .i3cCut => Sys2Proof.Machine.execI3cCut s
  | .enterSafe arg => Sys2Proof.Machine.execEnterSafe arg s
  | .restart arg => Sys2Proof.Machine.execRestart arg s
  | .readReel slot => Sys2Proof.Machine.execReadReel slot s
  | .frameDiscarded p why f => Sys2Proof.Machine.execFrameDiscarded p why f s
  | .slowRetrainEnd ch ok => Sys2Proof.Machine.execSlowRetrainEnd ch ok s
  | .rampTurn a => Sys2Proof.Machine.execRampTurn a s
  | .scanChainRead off => Sys2Proof.Machine.execScanChainRead off s

end Sys2Proof.Machine
end

