-- ==== Sys2Proof/Machine/Framing.lean ====
section
/-! DEFINITION. A frame as the bytes of a wire: header, padded payload and trailer (R240). -/

namespace Sys2Proof.Machine

/-- Fields of given widths side by side, the first lowest. -/
def packFields : List (Nat × Nat) → Nat
  | [] => 0
  | (w, v) :: t => v % 2 ^ w + 2 ^ w * packFields t

/-- The header of a frame (R240). -/
def headerOf (f : Frame) : Nat :=
  packFields [(4, f.typ), (2, f.vc), (1, f.ackv.toNat), (1, f.nak.toNat), (16, f.lseq), (16, f.ackSeq), (16, f.srcDev),
    (16, f.dstDev), (4, f.srcCx), (4, f.dstCx), (16, f.job), (12, f.len), (2, f.crVc), (14, f.crUnits), (4, 0), (48, f.addr),
    (40, f.offset), (40, f.msgBytes), (32, f.msgId), (16, f.accord), (32, f.collSeq), (32, f.epoch), (3, f.phase),
    (1, f.rpostEn.toNat), (8, f.rpostSem), (1, f.pim.toNat), (67, 0)]

/-- The header and the payload padded to a multiple of 64 bytes: what the CRC covers (R240). -/
def coveredBytes (f : Frame) : List Byte :=
  leBytes 56 (headerOf f) ++ f.payload ++ List.replicate ((64 - f.len % 64) % 64) 0

/-- The bytes of a frame, its trailer last (R240). -/
def wireBytes (f : Frame) : List Byte := coveredBytes f ++ leBytes 8 (crc32c (coveredBytes f))

/-- The frame that bytes of a wire spell: none where they are not a frame's number of bytes, or fail the CRC (R240,
R243). -/
def frameOfWire (bs : List Byte) : Option Frame :=
  let h := leNat (bs.take 56)
  let n := bitsAt h 96 12
  let m := 56 + (n + 63) / 64 * 64
  if bs.length != m + 8 || leNat (bs.drop m) != crc32c (bs.take m) then none else
  some { typ := bitsAt h 0 4, vc := bitsAt h 4 2, ackv := bitAt h 6, nak := bitAt h 7, lseq := bitsAt h 8 16,
         ackSeq := bitsAt h 24 16, srcDev := bitsAt h 40 16, dstDev := bitsAt h 56 16, srcCx := bitsAt h 72 4,
         dstCx := bitsAt h 76 4, job := bitsAt h 80 16, crVc := bitsAt h 108 2, crUnits := bitsAt h 110 14,
         addr := bitsAt h 128 48, offset := bitsAt h 176 40, msgBytes := bitsAt h 216 40, msgId := bitsAt h 256 32,
         accord := bitsAt h 288 16, collSeq := bitsAt h 304 32, epoch := bitsAt h 336 32, phase := bitsAt h 368 3,
         rpostEn := bitAt h 371, rpostSem := bitsAt h 372 8, pim := bitAt h 380, payload := (bs.drop 56).take n }

end Sys2Proof.Machine
end

