-- ==== Sys2Proof/WellFormed.lean ====
section
/-! DEFINITION. Commands that can be sent: frames whose fields fit the header of R240, register accesses of a size and an
alignment that PX takes (R405), requests within BAR4 (R403, R404), lists that name units the device has. -/

namespace Sys2Proof

/-- Every field of a frame fits its place in the header, and its payload fits LEN (R240). -/
def Frame.wf (f : Frame) : Bool :=
  decide (f.typ < 16) && decide (f.vc < 4) && decide (f.lseq < 2 ^ 16) && decide (f.ackSeq < 2 ^ 16) &&
  decide (f.srcDev < 2 ^ 16) && decide (f.dstDev < 2 ^ 16) && decide (f.srcCx < 16) && decide (f.dstCx < 16) &&
  decide (f.job < 2 ^ 16) && decide (f.crVc < 4) && decide (f.crUnits < 2 ^ 14) && decide (f.addr < 2 ^ 48) &&
  decide (f.offset < 2 ^ 40) && decide (f.msgBytes < 2 ^ 40) && decide (f.msgId < 2 ^ 32) && decide (f.accord < 2 ^ 16) &&
  decide (f.collSeq < 2 ^ 32) && decide (f.epoch < 2 ^ 32) && decide (f.phase < 8) && decide (f.rpostSem < 256) &&
  decide (f.payload.length ≤ 2048)

/-- A seat that a switch can report (R251): a device of a rack, a plane, and credits that their fields hold. -/
def Seat.wf (r : Seat) : Bool :=
  decide (r.rack < 1024) && decide (r.tray < 8) && decide (r.slot < 8) && decide (r.plane < 32) && decide (r.port < 2 ^ 16) &&
  decide (r.credit0 < 2 ^ 13) && decide (r.credit1 < 2 ^ 13) && decide (r.credit2 < 2 ^ 13) && decide (r.credit3 < 2 ^ 13)

/-- A BAR0 access that PX takes: 4 or 8 bytes, naturally aligned, in the 64 MiB (R404, R405). -/
def accessWf (off size : Nat) : Bool :=
  ((size == 4 && off % 4 == 0) || (size == 8 && off % 8 == 0)) && decide (off + size ≤ 0x4000000)

/-- A BAR4 request: within the window and of the length that a request may have (R403, R404). -/
def requestWf (off len most : Nat) : Bool := decide (0 < len) && decide (len ≤ most) && decide (off + len ≤ 0x1000000000)

/-- Physical near channels, without repeats, and no more packages than the board has places for. -/
def mapWf (nearBad : List Nat) (slow : List (Option Bool)) : Bool :=
  nearBad.all (fun c => decide (c < 204)) && decide nearBad.Nodup && decide (slow.length ≤ 32)

/-- A command that can be sent. -/
def Instr.wf : Instr → Bool
  | .nop _ | .wload _ | .stream _ | .wgrad _ | .drainFinal _ | .drainSpill _ | .drainAdd _ | .drainConvertImage _
  | .convgen _ | .finish _ | .hcount _ | .move _ | .gather _ | .scatter _ | .put _ | .get _ | .reduce _ | .allgather _
  | .reduceScatter _ | .alltoallRagged _ | .barrier _ | .semWait _ | .semPost _ | .waitVersion _ | .fence _ | .cue _
  | .stepBegin _ | .stepVerdict _ | .commit _ | .dataCommit _ | .takePoint _ | .update _ | .castAdmit _ | .build _
  | .advance _ | .retire _ | .park _ | .unpark _ | .snapshot _ => true
  | .commandCompletion _ | .placement _ | .wloadBegin _ | .slotCommit _ | .rowEntry _ | .ringArrival _ | .drainRow _ => true
  | .doorbell _ _ | .ringEnable _ _ | .ringDisable _ _ | .hostSemaphoreWrite _ _ _ => true
  | .registerWrite off size v => accessWf off size && (size == 8 || decide (v.toNat < 2 ^ 32))
  | .readClear off size => accessWf off size
  | .stepClose _ | .updateBegin _ | .pass1End _ | .pass2End _ | .commitWaitsMet _ | .offloadDone _ | .recallDone _
  | .admission _ | .stashEnable _ _ | .create _ _ | .destroy _ _ | .run _ _ | .xltInv _ _ | .invalidationDone _
  | .takeWritten _ | .controlRestored _ => true
  | .putData _ f | .getReq _ f | .post _ f | .putAck _ f | .getData _ f | .refuse _ f | .collData _ f | .collReady _ f
  | .collAbort _ f | .clapper _ f | .cut _ f | .loss _ f | .link _ f | .frameDiscarded _ _ f => f.wf
  | .rollReply _ f r => f.wf && r.wf
  | .linkAck _ | .portLock _ | .trainingTimeout _ | .laneLockLoss _ _ | .rollResend _ | .seatTimeout | .ackTimeout _
  | .fecErrorLimit _ | .retry _ _ | .readyResend _ | .messageTimeout _ | .collTimeout _ | .readyTimeout _ | .versionPoll _
  | .retrain _ | .retrainEnd _ _ | .slowRetrain _ => true
  | .scrub addr _ => addr % 64 == 0
  | .channelFailing _ _ | .spareTrained _ | .migrationCopyEnd | .powerSample _ | .dividerChange | .rampStep _
  | .arrayIdle _ | .cueLeadEnd | .capHost _ | .opmax _ | .snap _ | .clapperRun _ | .clapperTimeout | .rearm _
  | .triggerNow _ | .cutNow _ | .cutAt _ | .cutFreeze | .freeze _ | .freezeExpiry | .repeatFlush | .clear _
  | .pwrfailRise | .pwrfailFall | .fuse | .secTest _ | .keys | .image _ | .xspiModeTimeout => true
  | .selfTest failed => failed.all fun u => decide (u ≤ 150)
  | .memory nearBad slow => mapWf nearBad slow
  | .fabric | .release | .push _ | .attestationRequest _ | .attestationReport | .lcToken _ | .tapInstruction _
  | .junctionOvertemp | .safePortShutdown | .sliceDue | .quietPoint | .quietTimeout | .sliceEnd _
  | .checkpointEnable _ _ | .snapshotInstant _ | .locallyComplete _ | .slotZeroed _ | .ckptExport _ _ | .sendStripes _ _
  | .restore _ _ | .dmaTail _ | .dmaEnable _ | .dmaDescriptor _ => true
  | .bar4Read off len => requestWf off len 4096
  | .bar4Write off bytes => requestWf off bytes.length 512
  | .configRequest _ | .functionLevelReset | .d3hot _ | .vectorUnmask _ _ | .entdaa _ | .readStatus | .setCap _ | .readId
  | .i3cCut | .enterSafe _ | .restart _ | .readReel _ | .slowRetrainEnd _ _ | .rampTurn _ => true
  | .scanChainRead off => decide (off < 0x100000) && off % 8 == 0

end Sys2Proof
end

