-- ==== Sys2Proof/Safety.lean ====
section
/-! DEFINITION. What statements about the block are said in: the canonical form of its data, the registers and bytes of a
state, and when a stream processor can dispatch the command at its HEAD. -/

namespace Sys2Proof.Machine

/-- The register words are in canonical form: rising offsets, and no word listed that equals its reset value. -/
def State.regsWf (s : State) : Bool := smWf resetWord s.regs

/-- The canonical form of what the state holds sparsely: registers, memory, the reel store and the SRAM of rushes. Two
states that read alike at every place are then equal data, and every read gives what was last written. -/
def State.canon (s : State) : Bool :=
  s.regsWf && memWf s.mem && smWf reelDefault s.reel && smWf rushDefault s.dbg.rush

/-- A byte of device-physical memory. -/
def State.byte (s : State) (a : Nat) : Byte := smGet memDefault s.mem a

/-- Instance `n` of the field's block, and entry `i` of the field in it, exist. -/
def Fld.has (f : Fld) (n i : Nat) : Prop := n < blkCount f.blk ∧ i < f.cnt

-- Reports.

/-- A register of a block that only reports: PMC, DBG, REC or MSIX. -/
def reportReg (a : Nat) : Bool :=
  (decide (blkBase .PMC ≤ a) && decide (a < blkBase .CAST)) ||
    (decide (blkBase .DBG ≤ a) && decide (a < blkBase .MSIX + blkSize .MSIX))

/-- Spill of rushes is off, and no spill region has been looked up. -/
def State.noSpill (s : State) : Prop := s.rd R.DBG_RUSH_CTL_SPILL = 0 ∧ s.dbg.spillOk = none

-- Dispatch.

/-- Stream processor `sp` can dispatch the command `w` at its HEAD now: it runs (R120, R126, R281), the entry reads as `w`, the
header's reserved bits are zero (R124), ORDER does not hold it back (R126), and its step is not closed (R67). -/
structure AtHead (s : State) (sp : Nat) (w : Packet) : Prop where
  runs    : s.canDispatch sp = true
  entry   : s.fetch sp = .ok w
  header  : headerOk w = true
  inOrder : (pktBit w 17 && !(s.earlier sp).isEmpty) = false
  opened  : opc w ≠ 0x51 → ((s.sp sp).step.any fun st => s.stepClosed (s.cxOf sp) st) = false

/-- The command `w` stands at HEAD of stream processor `sp`, can be dispatched, and passes the checks of its dispatch: what
joins the commands in progress, or completes, is `x`. -/
structure Starts (s : State) (sp : Nat) (w : Packet) (prep : State → Cmd → Res Cmd) (x : Cmd) : Prop where
  canon : s.regsWf = true
  head  : AtHead s sp w
  made  : prep s (s.newCmd sp w) = .ok x

/-- `u` is `s` after a command of stream processor `sp` has been dispatched: HEAD has counted and the next number is taken.
Commands in progress, arrays, messages, collectives and CAST stand as they were, the contexts but for the tables that XLT
holds, every other stream processor, the ports, power, time and start state, every register beside HEAD and those that only
report, and, without a spill of rushes, every byte of memory. -/
structure Dispatched (s u : State) (sp : Nat) : Prop where
  head    : u.rd R.SP_PTRS_HEAD sp = (s.rd R.SP_PTRS_HEAD sp + 1) % 2 ^ 32
  next    : u.nextCmd = s.nextCmd + 1
  cmds    : u.cmds = s.cmds
  arrs    : u.arrs = s.arrs
  msgs    : u.msgs = s.msgs
  colls   : u.colls = s.colls
  cast    : u.cast = s.cast
  pending : u.pending = s.pending
  own     : u.sp sp = { s.sp sp with held := false }
  sps     : ∀ n < 32, n ≠ sp → u.sp n = s.sp n
  cxs     : ∀ n, { u.cx n with ptmem := none } = { s.cx n with ptmem := none }
  ports   : u.ports = s.ports
  pwr     : u.pwr = s.pwr
  tsu     : u.tsu = s.tsu
  boot    : u.boot = s.boot
  word    : ∀ a, reportReg a = false → a ≠ R.SP_PTRS_HEAD.addr sp → u.word a = s.word a
  memory  : s.noSpill → u.mem = s.mem

-- The fabric.

/-- A frame of type `typ` arrives on port `p` as R241 to R252 take it: the port is UP, the frame's fields fit their widths, its
LSEQ is the one expected next, its channel is that of its type, and it is for this device. -/
structure Arrives (s : State) (p : Nat) (f : Frame) (typ : Nat) : Prop where
  takes   : s.portTakes p = true
  type    : f.typ = typ
  fits    : fitFrame f = f
  order   : f.lseq = (s.port p).rxNext % 65536
  channel : f.vc = vcOf typ
  here    : f.dstDev = s.dev

end Sys2Proof.Machine
end

