-- ==== Sys2Proof/Certificates/Slice0/Obligations.lean ====
section
/-! DEFINITION. What is to be proved of the block: results, frames and completion of its commands, the invariant of its
data, and the laws of its registers and memory. -/

open Sys2Proof Sys2Proof.Machine

-- The block as a whole.

/-- A step takes the command at the front of the queue and runs it with the queue's rest. -/
def Obligations.StepRunsFrontCommand : Prop :=
  ∀ (c : Instr) (rest : List Instr) (s : State), step { s with pending := c :: rest } = exec c { s with pending := rest }

/-- The model's choice (log entry 5), with R336 and R339: a step on an empty queue is a nanosecond in which the local count
advances, and the offset of the time-stamp unit moves by at most one towards the goal of the last run of the clapper, and not beyond
it, at every thousandth count; nothing else changes. -/
def Obligations.IdleStepsCountTime : Prop :=
  ∀ (s : State) (off : Int), s.regsWf = true → off = signedOf 64 (s.rd R.TSU_OFFSET) → -2 ^ 63 ≤ s.tsu.goal → s.tsu.goal < 2 ^ 63 →
    ∃ u : State, step { s with pending := [] } = .next u ∧ u.tsu = { s.tsu with local_ := s.tsu.local_ + 1 } ∧
      (∃ r, u = { s with pending := [], tsu := u.tsu, regs := r }) ∧ (∀ a, a ≠ R.TSU_OFFSET.addr → u.word a = s.word a) ∧
      signedOf 64 (u.rd R.TSU_OFFSET) =
        (if s.tsu.ran = true ∧ (s.tsu.local_ + 1) % 1000 = 0 ∧ off < s.tsu.goal then off + 1
         else if s.tsu.ran = true ∧ (s.tsu.local_ + 1) % 1000 = 0 ∧ s.tsu.goal < off then off - 1 else off)

/-- R8 and the model's reset values (log entry 3): after release every register but NT.PART_0 holds the reset values of its
fields, memory is empty, the ports are DOWN, no context exists, nothing is in progress, and the data stand in canonical form. -/
def Obligations.ResetIsTheReleasedBlock : Prop :=
  (∀ a, a ≠ R.NT_PART_SETS.addr → State.reset.word a = resetWord a) ∧ (∀ a, State.reset.byte a = 0) ∧
    State.reset.canon = true ∧ (∀ c < 16, State.reset.cxState c = 0) ∧ (∀ p < 18, State.reset.portState p = 0) ∧
    State.reset.cmds = [] ∧ State.reset.msgs = [] ∧ State.reset.colls = [] ∧ State.reset.pending = [] ∧ State.reset.clock = 0 ∧
    State.reset.live = true

/-- Memory that holds no uncorrectable block reads as it was last written, byte by byte and as a run, and a write leaves
every other byte and every register alone and keeps the canonical form. A field of a register reads as it was last written,
cut to its width, and a write to it leaves every field apart from it, of that register or another, and memory alone, and
keeps the canonical form. -/
def Obligations.StoresReadAsWritten : Prop :=
  (∀ (s : State) (a : Nat) (bs : List Byte),
     s.canon = true → s.bad = [] →
     (s.pwrite a bs).pread a bs.length = bs ∧ (s.pwrite a bs).canon = true ∧ (s.pwrite a bs).bad = [] ∧ (s.pwrite a bs).regs = s.regs ∧
     (∀ i, (h : i < bs.length) → (s.pwrite a bs).byte (a + i) = bs[i]) ∧
     (∀ x, x < a ∨ a + bs.length ≤ x → (s.pwrite a bs).byte x = s.byte x) ∧
     (∀ x n, x + n ≤ a ∨ a + bs.length ≤ x → (s.pwrite a bs).pread x n = s.pread x n)) ∧
  (∀ (s : State) (f g : Fld) (v n i m j : Nat),
     s.canon = true → f ∈ fieldsOf f.blk → g ∈ fieldsOf g.blk → f.has n i → g.has m j →
     (s.wr f v n i).rd f n i = v % 2 ^ f.wid ∧ (s.wr f v n i).canon = true ∧ (s.wr f v n i).mem = s.mem ∧
     (f.addr n i ≠ g.addr m j ∨ f.lo + f.wid ≤ g.lo ∨ g.lo + g.wid ≤ f.lo → (s.wr f v n i).rd g m j = s.rd g m j) ∧
     (f.blk ≠ g.blk → f.addr n i ≠ g.addr m j))

/-- R50, as far as it speaks of order: the rows in flight to a ring row leave the same sums, coverage and computed extent in
it in whatever order they arrive: each element the exact sum of what it held and of the partials for it. -/
def Obligations.SumsDoNotDependOnOrder : Prop :=
  ∀ (r : RingRow) (fs gs : List Flight), fs.Perm gs → (∀ f ∈ fs, f.adds.length = r.vals.length) →
    gs.foldl RingRow.take r = fs.foldl RingRow.take r ∧
    (fs.foldl RingRow.take r).vals = (List.range r.vals.length).map (fun i => nth 0 r.vals i + (fs.map fun f => nth 0 f.adds i).sum) ∧
    (fs.foldl RingRow.take r).cover = r.cover + (fs.map fun f => f.cover).sum

/-- R43 to R45: one partial goes into an accumulation as the nearest multiple of the grid step, ties to even; one that is not zero and
at most half a step becomes zero and counts as window-low. In FIXED mode a partial above 2^(A+1) less a step is replaced by that value
with its own sign and counts as window-high, and never in another mode. -/
def Obligations.PartialsRoundOntoTheGrid : Prop :=
  ∀ (exch fixed : Bool) (a m e n : Int) (low high : Nat) (v g top x : Rat),
    addPartial exch fixed a m e = (n, low, high) → v = m * 2 ^ e → g = (if exch then 2 ^ (a - 35) else 2 ^ (a - 95)) →
    top = 2 ^ (a + 1) - g → x = n * 2 ^ (a - 95) →
    (fixed = true ∧ (v < -top ∨ top < v) → x = (if m < 0 then -top else top) ∧ low = 0 ∧ high = 1) ∧
    (fixed = false ∨ (-top ≤ v ∧ v ≤ top) →
      high = 0 ∧
      (∃ q : Int, x = q * g ∧ -(g / 2) ≤ v - x ∧ v - x ≤ g / 2 ∧ (v - x = -(g / 2) ∨ v - x = g / 2 → q % 2 = 0)) ∧
      (m ≠ 0 ∧ -(g / 2) ≤ v ∧ v ≤ g / 2 → x = 0 ∧ low = 1) ∧ (m = 0 ∨ v < -(g / 2) ∨ g / 2 < v → low = 0))

/-- The invariant of the block's data, which other statements take as a premise: every step keeps the canonical form of registers,
memory, reel store and rushes, whatever command stands at the front of the queue, and a command does too. -/
def Obligations.EveryStepKeepsTheForm : Prop :=
  (∀ s t : State, s.canon = true → step s = .next t → t.canon = true) ∧
    (∀ (c : Instr) (s t : State), s.canon = true → exec c s = .next t → t.canon = true)

/-- R240: a frame on the wire is a header of 56 bytes, its payload padded to a multiple of 64 and a trailer of 8, and the bytes of a
frame spell that frame: every field comes back, the CRC holds, and bytes whose trailer is changed spell none. -/
def Obligations.FramesSpellThemselves : Prop :=
  ∀ f : Frame, f.typ < 16 → fitFrame f = f →
    frameOfWire (wireBytes f) = some f ∧ (wireBytes f).length % 64 = 0 ∧ 64 + f.len ≤ (wireBytes f).length ∧ (wireBytes f).length < 128 + f.len ∧
    (∀ t : List Byte, t.length = 8 → coveredBytes f ++ t ≠ wireBytes f → frameOfWire (coveredBytes f ++ t) = none)

/-- R67, R120, R124, R126, R293: a row of a stream processor's command does nothing where its processor cannot dispatch. A command at HEAD
whose operation is not listed, whose header's reserved bits are set, or whose step is closed faults its context as an illegal
command, and one that fails the checks of its dispatch with their cause, before HEAD counts. ORDER, and checks that must wait,
hold it back. A row that is not that of the command does nothing. -/
def Obligations.CommandsThatFailTheirChecksFault : Prop :=
  ∀ (s : State) (sp : Fin 32) (w : Packet) (k : Cause) (ev : Fin 32 → Instr) (op : Nat) (prep : State → Cmd → Res Cmd) (bad : Cause → State),
    (ev, op, prep) ∈ [(Instr.nop, 0x00, prepPlain), (.wload, 0x01, prepWload), (.stream, 0x02, prepRows streamFieldsOk),
      (.wgrad, 0x03, prepRows wgradFieldsOk), (.convgen, 0x05, prepConvgen), (.finish, 0x10, prepFinish), (.hcount, 0x11, prepHcount),
      (.move, 0x20, prepMove), (.gather, 0x21, prepList), (.scatter, 0x22, prepList), (.put, 0x23, prepPut), (.get, 0x24, prepGet),
      (.reduce, 0x30, prepColl), (.allgather, 0x31, prepColl), (.reduceScatter, 0x32, prepColl), (.alltoallRagged, 0x33, prepColl),
      (.barrier, 0x34, prepBarrier), (.semWait, 0x40, prepSemWait), (.semPost, 0x41, prepSemPost),
      (.waitVersion, 0x42, prepWaitVersion), (.fence, 0x43, prepFence), (.cue, 0x50, prepCue), (.stepBegin, 0x51, prepStepBegin),
      (.stepVerdict, 0x52, prepVerdict), (.takePoint, 0x54, prepPlain), (.update, 0x55, prepUpdate)] →
    bad = (fun k => (s.faultCx (s.cxOf sp) k (some (sp.val, s.rd R.SP_PTRS_HEAD sp))).settle) →
    (s.canDispatch sp = false → exec (ev sp) s = .next s) ∧
    (s.canDispatch sp = true → s.fetch sp = .fault k → exec (ev sp) s = .next (bad k)) ∧
    (s.canDispatch sp = true → s.fetch sp = .ok w → opc w ∉ listedOpcs → exec (ev sp) s = .next (bad illegal)) ∧
    (s.canDispatch sp = true → s.fetch sp = .ok w → opc w ∈ listedOpcs → opc w ≠ op → exec (ev sp) s = .next s) ∧
    (s.canDispatch sp = true → s.fetch sp = .ok w → opc w = op → pkt w 19 13 ≠ 0 ∨ pkt w 48 16 ≠ 0 → exec (ev sp) s = .next (bad illegal)) ∧
    (s.canDispatch sp = true → s.fetch sp = .ok w → opc w = op → headerOk w = true → pktBit w 17 = true → s.earlier sp ≠ [] →
      exec (ev sp) s = .next (s.setHeld sp true)) ∧
    (s.canDispatch sp = true → s.fetch sp = .ok w → opc w = op → headerOk w = true → pktBit w 17 = false ∨ s.earlier sp = [] → op ≠ 0x51 →
      (∃ st, (s.sp sp).step = some st ∧ s.stepClosed (s.cxOf sp) st = true) → exec (ev sp) s = .next (bad illegal)) ∧
    (AtHead s sp w → opc w = op → prep s (s.newCmd sp w) = .fault k → exec (ev sp) s = .next (bad k)) ∧
    (AtHead s sp w → opc w = op → prep s (s.newCmd sp w) = .wait → exec (ev sp) s = .next (s.setHeld sp true))

/-- R293, R294: a context that faults is FAULTED with the code of its cause; the address, reason and stream processor of the fault stand
beside it; no command, message or collective of it is left, no binding, take or stashed page, and no row of it in an array. -/
def Obligations.FaultsTearContextsDown : Prop :=
  ∀ (s t : State) (c : Nat) (k : Cause) (at_ : Option (Nat × Nat)),
    s.regsWf = true → s.cxLive c = true → c < 16 → k.code < 256 → k.reason < 256 → k.addr < 2 ^ 48 → (∀ p, at_ = some p → p.1 < 32) →
    t = s.faultCx c k at_ →
    t.cxState c = 5 ∧ t.rd R.CX_STATUS_FAULT_CODE c = k.code ∧
    t.rd R.CX_STATUS_FAULT_SP c = (match at_ with | some p => p.1 | none => 0) ∧
    t.rd R.CX_FAULT_ADDR c = (if k.code = 2 ∨ k.code = 3 then k.addr else 0) ∧
    t.rd R.CX_FAULT_REASON c = (if k.code = 5 then k.reason else 0) ∧
    (∀ x ∈ t.cmds, x.cx ≠ c) ∧ (∀ m ∈ t.msgs, m.cx ≠ c) ∧ (∀ q ∈ t.colls, q.cx ≠ c) ∧
    (t.cx c).binds = [] ∧ (t.cx c).shadows = [] ∧ (t.cx c).rings = [] ∧
    (∀ a < 8, ∀ r ∈ (t.arr a).ring, r.cx ≠ c) ∧ (∀ a < 8, ∀ r ∈ (t.arr a).flight, r.cx ≠ c) ∧
    (∀ x, x ∈ t.cmds ↔ x ∈ s.cmds ∧ x.cx ≠ c)
-- The commands of a stream processor.

/-- R120, R122: a dispatch counts HEAD, takes the next dispatch number and marks the processor as no longer held
back, and nothing else of the block moves but what reports it (Dispatched). It is the dispatch of the entry at HEAD: the command
carries that entry's words, its place in the ring, its processor and its context. -/
def Obligations.DispatchCountsHeadAndNothingElse : Prop :=
  ∀ (s : State) (sp : Fin 32) (w : Packet) (x : Cmd) (prep : State → Cmd → Res Cmd),
    prep ∈ [prepPlain, prepWload, prepRows streamFieldsOk, prepRows wgradFieldsOk, prepDrain, prepConvgen, prepFinish, prepHcount,
      prepMove, prepList, prepPut, prepGet, prepColl, prepBarrier, prepSemWait, prepSemPost, prepWaitVersion, prepFence, prepCue,
      prepStepBegin, prepVerdict, prepCommit, prepDataCommit, prepUpdate, prepCast] →
    Starts s sp w prep x →
    Dispatched s (s.dispatched x) sp ∧ x.id = s.nextCmd ∧ x.sp = sp ∧ x.cx = s.cxOf sp ∧ x.index = s.rd R.SP_PTRS_HEAD sp ∧ x.w = w

/-- R125, R285, R114: NOP completes at its dispatch. TAKE_POINT does too, and with a park at a point decided its processor
stops. CONVGEN does too, and leaves its fields in the processor's generator. R148: SEM_POST adds VALUE to the semaphore it
names, counts one post, and completes; the sum does not pass 0xFFFF_FFFF. -/
def Obligations.CommandsThatCompleteAtDispatch : Prop :=
  (∀ (s : State) (sp : Fin 32) (w : Packet) (x : Cmd),
     (opc w = 0x00 → Starts s sp w prepPlain x → exec (.nop sp) s = .next ((s.dispatched x).complete x).settle) ∧
     (opc w = 0x54 → Starts s sp w prepPlain x →
       exec (.takePoint sp) s =
         .next ((if (s.cx (s.cxOf sp)).park = .atPoint then (s.dispatched x).updSp sp fun p => { p with halted := true }
           else s.dispatched x).complete x).settle) ∧
     (opc w = 0x05 → Starts s sp w prepConvgen x →
       exec (.convgen sp) s = .next (((s.dispatched x).updSp sp fun p => { p with conv := some (convOf w) }).complete x).settle)) ∧
  (∀ (s : State) (sp : Fin 32) (w : Packet) (x : Cmd) (m i v : Nat),
     m = semOwner (pkt w 64 12) → i = semIndex (pkt w 64 12) → v = pkt w 96 32 →
     opc w = 0x41 → Starts s sp w prepSemPost x → s.noSpill →
     s.sem m i + v < 2 ^ 32 ∧
     exec (.semPost sp) s = .next ((((s.dispatched x).setSem m i (s.sem m i + v)).count 0x070 0xFF m 1).complete x).settle)

/-- R82, R88, R92, R104, R122: a WLOAD, STREAM, WGRAD or DRAIN joins the commands in progress at its dispatch, behind all that
were dispatched before it. A WLOAD binds its handle, taking it from an older binding; without ARRAYS it waits to be placed, and
where REUSE finds its tile on the arrays it names, the slot is bound and the command is done. -/
def Obligations.ArrayCommandsQueue : Prop :=
  ∀ (s : State) (sp : Fin 32) (w : Packet) (x : Cmd),
    (opc w = 0x01 → Starts s sp w prepWload x →
      ∃ b, b = ((enqueue (s.dispatched x) x).updCx x.cx fun c =>
          { c with binds := (c.binds.filter fun b => b.handle != pkt w 64 6) ++ [⟨pkt w 64 6, x.id, x.arrays, 2, tileOf x x.desc⟩] }) ∧
        exec (.wload sp) s = .next (match if x.phase = CmdPhase.placing then none else b.reuseSlot x x.arrays with
          | some k => b.satisfyReuse x x.arrays k
          | none => b).settle) ∧
    (opc w = 0x02 → Starts s sp w (prepRows streamFieldsOk) x → exec (.stream sp) s = .next (enqueue (s.dispatched x) x).settle) ∧
    (opc w = 0x03 → Starts s sp w (prepRows wgradFieldsOk) x → exec (.wgrad sp) s = .next (enqueue (s.dispatched x) x).settle) ∧
    (opc w = 0x04 → Starts s sp w prepDrain x →
      (drainMode w = 0 → exec (.drainFinal sp) s = .next (enqueue (s.dispatched x) x).settle) ∧
      (drainMode w = 1 → exec (.drainSpill sp) s = .next (enqueue (s.dispatched x) x).settle) ∧
      (drainMode w = 2 → exec (.drainAdd sp) s = .next (enqueue (s.dispatched x) x).settle) ∧
      (drainMode w = 3 → exec (.drainConvertImage sp) s = .next (enqueue (s.dispatched x) x).settle)) ∧
    (∀ u, (enqueue u x).cmds = u.cmds ++ [x]) ∧ (∀ u, x.stash = [] → enqueue u x = { u with cmds := u.cmds ++ [x] })

/-- R127, R139 to R141: a FINISH or HCOUNT that the stash lets run does its rows at its dispatch; it is then finished, and
its counts go to the tensors it names. A FINISH keeps what it writes to RAND's records until it completes. R144, R145, R193:
a MOVE, GATHER or SCATTER that the stash lets run makes its copies at its dispatch, one after another in the order of its
list, and is then finished. -/
def Obligations.FinishingAndCopyCommandsRun : Prop :=
  (∀ (s a t : State) (sp : Fin 32) (w : Packet) (x : Cmd),
     (opc w = 0x10 → Starts s sp w prepFinish x → (enqueue (s.dispatched x) x).cxLive x.cx = true →
       (enqueue (s.dispatched x) x).stashReady x.cx x.stash = (a, true) →
       ∀ f k after, (a.finTaken x).bind (fun f => (finAll a x f).bind fun r => .ok (f, r)) = .ok (f, k, after, t) →
       exec (.finish sp) s =
         .next ((((t.updCmd x.id fun y => { y with phase := .finished, after := after }).finCount x f k).count 0x020 0 x.cx
           k.dst.total)).settle) ∧
     (opc w = 0x11 → Starts s sp w prepHcount x → (enqueue (s.dispatched x) x).cxLive x.cx = true →
       (enqueue (s.dispatched x) x).stashReady x.cx x.stash = (a, true) →
       ∀ k, Res.fold (fun (k : Counts) j => (hcountRow a x.cx x.desc (pkt w 128 32 + j)).bind fun c => .ok (k.add c)) {}
           (List.range (min (pkt w 160 32) (x.desc.rows - pkt w 128 32))) = .ok k →
       exec (.hcount sp) s =
         .next ((a.updCmd x.id fun y => { y with phase := .finished }).countFor x.id x.desc.tid .w k).settle)) ∧
  (∀ (s a t : State) (sp : Fin 32) (w : Packet) (x : Cmd) (cs : List (Nat × Nat × Nat)),
     (enqueue (s.dispatched x) x).cxLive x.cx = true → (enqueue (s.dispatched x) x).stashReady x.cx x.stash = (a, true) →
     (opc w = 0x20 → Starts s sp w prepMove x → a.copyAll x [(mvSrc w, mvDst w, mvBytes w)] = (t, .ok ()) →
       exec (.move sp) s = .next (t.updCmd x.id fun y => { y with phase := .finished }).settle) ∧
     (opc w = 0x21 → Starts s sp w prepList x → a.listCopies x = .ok cs →
       (cs.any fun q => overlaps q.1 q.2.2 (mvDst w) (mvRow w * mvCount w)) = false → a.copyAll x cs = (t, .ok ()) →
       exec (.gather sp) s = .next (t.updCmd x.id fun y => { y with phase := .finished }).settle) ∧
     (opc w = 0x22 → Starts s sp w prepList x → a.listCopies x = .ok cs →
       (cs.any fun q => overlaps q.2.1 q.2.2 (mvSrc w) (mvRow w * mvCount w)) = false → a.copyAll x cs = (t, .ok ()) →
       exec (.scatter sp) s = .next (t.updCmd x.id fun y => { y with phase := .finished }).settle))

/-- R144, R253, R254: a PUT that the stash lets run reads its source at its dispatch and sends it, with a POST to follow where
RPOST asks for one; a GET asks its target for every piece of 2,048 bytes. Both are then running. -/
def Obligations.PutAndGetStartMessages : Prop :=
  ∀ (s a : State) (sp : Fin 32) (w : Packet) (x : Cmd) (bs : List Byte) (m : Msg),
    (enqueue (s.dispatched x) x).cxLive x.cx = true → (enqueue (s.dispatched x) x).stashReady x.cx x.stash = (a, true) →
    (opc w = 0x23 → Starts s sp w prepPut x → a.vread x.cx (mvSrc w) (mvBytes w) = .ok bs →
      exec (.put sp) s =
        .next ((a.updCmd x.id fun y => { y with phase := .running }).startPut (some x.id) x.cx (pkt w 96 16) (pkt w 112 4)
          (mvDst w) bs (if pktBit w 74 then some (pkt w 75 8) else none) false).settle) ∧
    (opc w = 0x24 → Starts s sp w prepGet x →
      m = { id := a.nextMsg, cmd := some x.id, cx := x.cx, dev := pkt w 96 16, rcx := pkt w 112 4, isGet := true, src := mvSrc w,
            dst := mvDst w, bytes := mvBytes w, rpost := none, left := msgOffsets (mvBytes w),
            unsent := msgOffsets (mvBytes w), last := a.clock } →
      exec (.get sp) s = .next ((a.updCmd x.id fun y => { y with phase := .running }).startMsg m (a.getFrames m)).settle)

/-- R146, R257, R258, R260: a collective command takes the next number of its accord at its dispatch and, once the stash lets
it and its descriptors and shard table hold, enters its rendezvous; BARRIER reads its accord alone and enters at once. -/
def Obligations.CollectivesEnterTheirRendezvous : Prop :=
  ∀ (s a b : State) (sp : Fin 32) (w : Packet) (x : Cmd) (acc : Accord) (k k' : Coll),
    (opc w = 0x30 ∨ opc w = 0x31 ∨ opc w = 0x32 ∨ opc w = 0x33 → Starts s sp w prepColl x →
      (enqueue (s.dispatched x) x).commandAccord x.cx (pkt w 64 16) = .ok acc →
      b = (enqueue (s.dispatched x) x).openColl { id := 0, cmd := some x.id, cx := x.cx, acc := acc, seq := 0, op := ceOp w } →
      b.cxLive x.cx = true → b.colls.find? (fun k => k.cmd == some x.id) = some k →
      b.stashReady x.cx x.stash = (a, true) → a.startColl x k = .ok k' →
      ∃ t, t = ((a.updCmd x.id fun y => { y with phase := .running }).enterColl k').settle ∧
        (opc w = 0x30 → exec (.reduce sp) s = .next t) ∧ (opc w = 0x31 → exec (.allgather sp) s = .next t) ∧
        (opc w = 0x32 → exec (.reduceScatter sp) s = .next t) ∧ (opc w = 0x33 → exec (.alltoallRagged sp) s = .next t)) ∧
    (opc w = 0x34 → Starts s sp w prepBarrier x →
      (enqueue (s.dispatched x) { x with phase := .running }).commandAccord x.cx (pkt w 64 16) = .ok acc →
      exec (.barrier sp) s =
        .next (((enqueue (s.dispatched x) { x with phase := .running }).openColl
          { id := 0, cmd := some x.id, cx := x.cx, acc := acc, seq := 0, op := .barrier }).enterVote x.id []).settle)

/-- R126, R149 to R151: SEM_WAIT, WAIT_VERSION and FENCE hold their stream processor in a wait of their own, which the next
evaluation of waits may end; the version entry is read at once. -/
def Obligations.WaitsHoldTheirProcessor : Prop :=
  ∀ (s : State) (sp : Fin 32) (w : Packet) (x : Cmd) (u : State) (q : Wait → State),
    u = s.dispatched x →
    q = (fun k => { u with cmds := u.cmds ++ [x] }.updSp sp fun p => { p with wait := some k, waitCmd := some x.id }) →
    (opc w = 0x40 → Starts s sp w prepSemWait x →
      exec (.semWait sp) s =
        .next (q (.sem (semOwner (pkt w 64 12)) (semIndex (pkt w 64 12)) (pkt w 96 32) (pktBit w 76) (u.waitOrder sp))).settle) ∧
    (opc w = 0x42 → Starts s sp w prepWaitVersion x →
      exec (.waitVersion sp) s =
        .next ((q (.version (pkt w 64 4) (pkt w 72 24) (pkt w 96 32) (u.waitOrder sp))).pollVersion sp).settle) ∧
    (opc w = 0x43 → Starts s sp w prepFence x → exec (.fence sp) s = .next (q (.fence (pkt w 64 8))).settle)

/-- R59, R66, R72, R152: STEP_BEGIN sets the step of its processor and completes; in a LEARN context it copies PIM, the first
one takes S from S_INIT and fixes the oldest step, and a step two or more beyond the oldest without a verdict waits. -/
def Obligations.StepBeginSetsTheStep : Prop :=
  ∀ (s u : State) (sp : Fin 32) (w : Packet) (x : Cmd) (c n : Nat) (set : State → State),
    opc w = 0x51 → Starts s sp w prepStepBegin x → u = s.dispatched x → c = s.cxOf sp → n = pkt w 64 32 →
    set = (fun t => ((t.updSp sp fun p => { p with step := some n }).complete x).settle) →
    (u.isLearn c = false → exec (.stepBegin sp) s = .next (set u)) ∧
    (u.isLearn c = true → (u.cx c).first = none →
      exec (.stepBegin sp) s = .next (set ((((u.wr R.CX_LEARN_S (u.rd R.CX_LEARN_S_INIT c) c).updCx c fun y =>
        { y with first := some n, oldest := n, s0 := signedOf 8 (u.rd R.CX_LEARN_S_INIT c) })).copyPim c))) ∧
    (u.isLearn c = true → (u.cx c).first ≠ none → n ≤ (u.cx c).oldest + 1 →
      exec (.stepBegin sp) s = .next (set (u.copyPim c))) ∧
    (u.isLearn c = true → (u.cx c).first ≠ none → (u.cx c).oldest + 1 < n →
      exec (.stepBegin sp) s =
        .next ({ u with cmds := u.cmds ++ [x] }.updSp sp fun p => { p with wait := some (.step n), waitCmd := some x.id }).settle)

/-- R154, R372: CUE completes at its dispatch, after what it starts: nothing where cues are off (an order of the
same CCLK that switched them off counts it as superseded, R416) or LEAD is below 2,000 ns; else it is in force until LEAD has passed, with a predicted increase that the manual does not give (log entry 37), and the
named arrays that are gated begin their ramps. -/
def Obligations.CueRampsArrays : Prop :=
  ∀ (s u : State) (sp : Fin 32) (w : Packet) (x : Cmd),
    opc w = 0x50 → Starts s sp w prepCue x → u = s.dispatched x →
    (u.flag R.PWR_CFG_CUE_EN = false →
      exec (.cue sp) s = .next ((if u.actedNow objPower then u.supCount else u).complete x).settle) ∧
    (u.flag R.PWR_CFG_CUE_EN = true → pkt w 80 32 < 2000 → exec (.cue sp) s = .next (u.complete x).settle) ∧
    (u.flag R.PWR_CFG_CUE_EN = true → 2000 ≤ pkt w 80 32 → ∀ v, v = Config.freeValue u.free →
      exec (.cue sp) s = .next (((List.range 8).foldl
        (fun (t : State) a => if bitAt (pkt w 64 8) a && (t.arr a).ramp.stage == .gated then t.beginRamp a else t)
        (({ u with free := u.free + 1 }).updPwr fun p =>
          { p with cues := p.cues ++ [(⟨pkt w 64 8, pkt w 72 8, u.clock + pkt w 80 32, v⟩ : CueRec)] })).complete x).settle)

/-- R153, R177, R179, R198, R258: UPDATE and a layer's COMMIT join the commands in progress; STEP_VERDICT does, running; an
UPDATE that names an accord and every STEP_VERDICT take the accord's next number. -/
def Obligations.TrainingCommandsQueue : Prop :=
  ∀ (s : State) (sp : Fin 32) (w : Packet) (x : Cmd) (acc : Accord),
    (opc w = 0x53 → cmLayer w ≠ 0 → Starts s sp w prepCommit x → exec (.commit sp) s = .next (enqueue (s.dispatched x) x).settle) ∧
    (opc w = 0x55 → Starts s sp w prepUpdate x → udAccord w = 0xFFFF →
      exec (.update sp) s = .next (enqueue (s.dispatched x) x).settle) ∧
    (opc w = 0x55 → Starts s sp w prepUpdate x → udAccord w ≠ 0xFFFF →
      (enqueue (s.dispatched x) x).commandAccord x.cx (udAccord w) = .ok acc →
      exec (.update sp) s = .next ((enqueue (s.dispatched x) x).openColl
        { id := 0, cmd := some x.id, cx := x.cx, acc := acc, seq := 0, op := .norms }).settle) ∧
    (opc w = 0x52 → Starts s sp w prepVerdict x →
      (enqueue (s.dispatched x) { x with phase := .running }).commandAccord x.cx (pkt w 96 16) = .ok acc →
      exec (.stepVerdict sp) s = .next ((enqueue (s.dispatched x) { x with phase := .running }).openColl
        { id := 0, cmd := some x.id, cx := x.cx, acc := acc, seq := 0, op := .verdict }).settle)

/-- R199: a data commit (COMMIT with LAYER = 0) acts at its dispatch: it commits the pages that MOVEs of its step wrote on COW
pages and no UPDATE did, unless an append of one of them still runs, and is finished. -/
def Obligations.DataCommitActsAtDispatch : Prop :=
  ∀ (s u t : State) (sp : Fin 32) (w : Packet) (x : Cmd) (n : List Nat),
    opc w = 0x53 → cmLayer w = 0 → Starts s sp w prepDataCommit x → u = enqueue (s.dispatched x) x →
    ((u.cx x.cx).shadows.any fun h => h.step == cmStep w && h.byMove && !h.byUpdate && !h.print &&
      u.appending x.cx (pageBytes * h.vpage)) = false →
    u.commitShadows x.cx (cmStep w)
      ((u.cx x.cx).shadows.filter fun h => h.step == cmStep w && h.byMove && !h.byUpdate && !h.print) = .ok (t, n) →
    exec (.dataCommit sp) s = .next ((t.updCmd x.id fun y => { y with phase := .finished }).rush 7 x.cx x.sp (opc w) (pkt w 32 16)
      x.index (cmPrint w)).settle

/-- R302, R340: a CALLSHEET whose turn has come and which the stash lets run does its operation at its dispatch; where it ends
without a fault, its status word (where STATUS names one) takes the entries done and the reason code, and it is finished. -/
def Obligations.CallsheetsRun : Prop :=
  ∀ (s a t : State) (sp : Fin 32) (w : Packet) (x : Cmd) (op : Nat) (r : CastRun) (i : Instr),
    (op, i) ∈ [(0, .castAdmit sp), (1, .build sp), (2, .advance sp), (3, .retire sp), (4, .park sp), (5, .unpark sp),
      (6, .snapshot sp)] →
    opc w = 0x60 → csOp w = op → Starts s sp w prepCast x →
    (enqueue (s.dispatched x) x).cxLive x.cx = true →
    ((enqueue (s.dispatched x) x).cmds.any fun y => opc y.w == 0x60 && y.phase == .queued && decide (y.id < x.id)) = false →
    (enqueue (s.dispatched x) x).stashReady x.cx x.stash = (a, true) →
    r = castRun a x → r.res = .ok () →
    (csStatus w = 0 → t = r.s) →
    (csStatus w ≠ 0 → r.s.vwrite x.cx (csStatus w) (leBytes 4 r.done ++ leBytes 4 r.why) = .ok t) →
    exec i s = .next ((t.updCmd x.id fun y => { y with phase := .finished }).rush 8 x.cx x.sp 0x60 (pkt w 32 16) x.index
      t.builds).settle
-- Commands in progress.

/-- R127, R139: a finished command of a context that exists writes what it kept for its end (the draws of RAND), applies its
verdict if it is a STEP_VERDICT, and completes. R124, R127, R148: what a completion does, for a command that has no counts
and touched no stash entry: it leaves the commands in progress; its header post, if it has one, adds 1 to the semaphore it
names; every other register but those that report keeps its value, and so do arrays, messages, collectives and, without a
spill of rushes, every byte of memory when the semaphore stands in its register. -/
def Obligations.CommandsCompleteOnce : Prop :=
  (∀ (s t : State) (id : Nat) (x : Cmd),
     s.cmd? id = some x → s.live = true → s.cxLive x.cx = true → x.phase = CmdPhase.finished → s.writeAfter x.cx x.after = .ok t →
     (opc x.w ≠ 0x52 → exec (.commandCompletion id) s = .next (t.complete x).settle) ∧
     (opc x.w = 0x52 → (t.applyVerdict x).cxLive x.cx = true →
       exec (.commandCompletion id) s = .next ((t.applyVerdict x).complete x).settle)) ∧
  (∀ (s t : State) (x : Cmd) (i : Nat),
     s.regsWf = true → x.sp < 32 → x.cx < 16 → x.counts = [] → x.stash = [] → i = pkt x.w 9 8 → t = s.complete x →
     (pktBit x.w 8 = true → s.semOwned x.cx i = false ∧ s.semStored x.cx = false ∧ s.sem x.cx i + 1 < 2 ^ 32) →
     t.cmds = s.cmds.filter (fun y => y.id != x.id) ∧ t.arrs = s.arrs ∧ t.msgs = s.msgs ∧ t.colls = s.colls ∧ t.cast = s.cast ∧
     (pktBit x.w 8 = true → t.rd R.CX_SEM_VALUE x.cx i = s.rd R.CX_SEM_VALUE x.cx i + 1) ∧
     (∀ a, reportReg a = false → (pktBit x.w 8 = true → a ≠ R.CX_SEM_VALUE.addr x.cx i) → t.word a = s.word a) ∧
     (s.noSpill → t.mem = s.mem))

/-- R81, R84, R92, R93, R113, R118: the load of a tile. PLACEMENT gives a WLOAD without ARRAYS the best set that has a free
slot, or binds the slot where the tile already stands. WLOAD_BEGIN makes its slot LOADING in every array of the gang.
SLOT_COMMIT makes it READY there, with the tile's codes and scale bytes, and the command is finished. -/
def Obligations.WeightLoadsFillSlots : Prop :=
  ∀ (s a : State) (id k : Nat) (x : Cmd) (m : List Nat) (t : Tile),
    s.cmd? id = some x → s.cmdRuns x = true → opc x.w = 1 →
    (x.phase = CmdPhase.placing → s.placeOn x = some m → a = s.updCmd id (fun y => { y with phase := .queued, arrays := m }) →
      (a.reuseSlot x m = some k → exec (.placement id) s = .next (a.satisfyReuse x m k).settle) ∧
      (a.reuseSlot x m = none → a.freeSlot m = some k → exec (.placement id) s = .next (a.assignSlot x.cx id m k).settle)) ∧
    (x.phase = CmdPhase.queued → s.loadHead x = true → s.stashReady x.cx x.stash = (a, true) →
      (2 ≤ x.slot → a.reuseSlot x x.arrays = some k →
        exec (.wloadBegin id) s = .next (a.satisfyReuse x x.arrays k).settle) ∧
      ((x.slot < 2 ∧ k = x.slot) ∨ (2 ≤ x.slot ∧ a.reuseSlot x x.arrays = none ∧ a.freeSlot x.arrays = some k) →
        ∃ u : State, exec (.wloadBegin id) s = .next u.settle ∧
          ∀ j ∈ x.arrays, ((u.arr j).slot k).state = .loading ∧ (u.arr j).lastSlot = k)) ∧
    (x.phase = CmdPhase.running → s.readTile (tileOf x x.desc) = .ok t →
      ∃ u : State, exec (.slotCommit id) s = .next u.settle ∧
        (∀ j ∈ x.arrays, ((u.arr j).slot x.slot).state = .ready ∧ ((u.arr j).slot x.slot).tile = t) ∧
        (∀ j, (∀ m ∈ x.arrays, m % 8 ≠ j % 8) → u.arr j = s.arr j) ∧ (∃ y, u.cmd? id = some y ∧ y.phase = CmdPhase.finished) ∧
        (s.noSpill → s.regsWf = true → u.mem = s.mem))

/-- R84, R99, R101, R371: a streamed row that may enter finds its array gated and begins its ramp, or finds it in full and
enters: its slot is ACTIVE, the bin it opens stands last in the ring, and its sums are in flight. A row of which no column
group is computed enters nothing. -/
def Obligations.RowsEnterArrays : Prop :=
  ∀ (s : State) (a : Fin 8) (x : Cmd) (e : Entering),
    s.nextEntering a = some x → s.mayEnter x = true → s.rowReady x a = true →
    ((s.arr a).ramp.stage = .gated → exec (.rowEntry a) s = .next (s.beginRamp a)) ∧
    ((s.arr a).ramp.stage = .full → s.enterRow a x (x.nextRow a) = .ok e →
      ∃ t : State, exec (.rowEntry a) s = .next t.settle ∧
        (e.groups = [] → t = (s.updCmd x.id fun y => y.tookRow a).finishRows x.id) ∧
        (e.groups ≠ [] → ((t.arr a).slot x.slot).state = .active ∧ (t.arr a).ramp = ⟨.full, s.clock⟩ ∧
          (t.arr a).ring = (match e.bin with | some b => (s.arr a).ring ++ [b] | none => (s.arr a).ring) ∧
          ∃ f, (t.arr a).flight = (s.arr a).flight ++ [f] ∧ f.cmd = x.id ∧ f.cx = x.cx ∧ f.tid = pkt x.w 128 24 ∧
            f.row = pkt x.w 224 32 + x.nextRow a))

/-- R99, R101: the oldest row in flight reaches the ring of its array: its sums are added to the bin it is tagged with, whose
coverage grows by the row's, and it is no longer in flight; no other bin, no other array and no byte of
memory changes. -/
def Obligations.RowsArriveAtTheRing : Prop :=
  ∀ (s : State) (a : Fin 8) (f : Flight) (rest : List Flight),
    s.live = true → (s.arr a).flight = f :: rest →
    ∃ u : State, exec (.ringArrival a) s = .next u.settle ∧ (u.arr a).flight = rest ∧
      (u.arr a).ring = replaceFirst (fun q => q.tagged f.cx f.tid f.row f.col0)
        (fun q => { q with vals := (q.vals.zip f.adds).map (fun p => p.1 + p.2), cover := q.cover + f.cover,
                           computed := q.computed.lor f.comp }) (s.arr a).ring ∧
      (∀ b < 8, b ≠ a.val → u.arr b = s.arr b) ∧ u.mem = s.mem

/-- R101, R104, R107, R108: a DRAIN_ROW of a started DRAIN whose rows stand in one ring: SPILL writes the row's image, ADD
writes the sum of the image and the row, FINAL converts the rows and writes them, and CONVERT_IMAGE does so from images; the
ring rows are free again, and the command moves past them. -/
def Obligations.DrainsEmptyTheRing : Prop :=
  ∀ (s b t : State) (a : Fin 8) (x y : Cmd) (r im sum : RingRow) (rows : List RingRow) (bs : List Byte) (n : Counts) (y' : Cmd),
    s.drainHead a = some x → s.cmdRuns x = true → s.stashReady x.cx x.stash = (b, true) → startDrain b x = .ok y →
    ∀ d : State, d = b.updCmd y.id (fun _ => y) →
    (drainMode y.w = 1 → (d.holders y y.drainGroup).length ≤ 1 → y.drainGroup.filterMap (fun q => d.binOf y a q) = [r] →
      y.drainGroup.length = 1 → d.drainable a 1 r = true → d.vwrite y.cx (imageAddr y r.row) (imageOf r) = .ok t →
      exec (.drainRow a) s = .next ((t.freeRows y a [r]).drainedGroup y 1).settle) ∧
    (drainMode y.w = 2 → (d.holders y y.drainGroup).length ≤ 1 → y.drainGroup.filterMap (fun q => d.binOf y a q) = [r] →
      y.drainGroup.length = 1 → d.drainable a 2 r = true → d.vread y.cx (imageAddr y r.row) imageBytes = .ok bs →
      im = imageRow y.cx bs → im.anchors = r.anchors → im.exch = r.exch → im.klen = r.klen → im.cover + r.cover ≤ r.klen →
      sum = { im with vals := (im.vals.zip r.vals).map (fun p => p.1 + p.2), cover := im.cover + r.cover,
                      computed := im.computed.lor r.computed } →
      d.vwrite y.cx (imageAddr y r.row) (imageOf sum) = .ok t →
      exec (.drainRow a) s = .next ((t.freeRows y a [r]).drainedGroup y 1).settle) ∧
    (drainMode y.w = 0 → (d.holders y y.drainGroup).length ≤ 1 → y.drainGroup.filterMap (fun q => d.binOf y a q) = rows →
      rows.length = y.drainGroup.length → rows.all (d.drainable a 0) = true → (y.desc.kind = .g ∨ rows.all (fun q => !q.igrad) = true) →
      drainConvert d y rows = ((t, .ok ()), n, y') →
      exec (.drainRow a) s = .next (((((t.freeRows y' a rows).drainedGroup y' rows.length).countFor y'.id y'.desc.tid y'.desc.kind
        n).count 0x020 a y'.cx n.total)).settle) ∧
    (drainMode y.w = 3 → Res.mapM (fun row => (d.vread y.cx (imageAddr y row) imageBytes).bind fun bs =>
        let im := imageRow y.cx bs
        if im.tid != drainTid y.w || im.cover != im.klen then .fault illegal else .ok { im with row := row }) y.drainGroup = .ok rows →
      drainConvert d y rows = ((t, .ok ()), n, y') →
      exec (.drainRow a) s = .next ((((t.drainedGroup y' rows.length).countFor y'.id y'.desc.tid y'.desc.kind n).count 0x020 a y'.cx
        n.total)).settle)

-- Training.

/-- R66, R67, R260: STEP_CLOSE closes the oldest step of a context once every other command of the step has completed: the
verdict enters its rendezvous, and its vote is this member's mark of the step and its S. -/
def Obligations.StepCloseVotes : Prop :=
  ∀ (s : State) (c : Fin 16) (x : Cmd) (k : Coll) (n m : Nat),
    s.live = true → s.cxLive c = true → s.nextClose c = some x → n = pkt x.w 64 32 →
    (∀ y ∈ s.cmds, y.cx = c → y.step = some n → (opc y.w = 0x52 ∧ pkt y.w 64 32 = n) ∨ opc y.w = 0x51) →
    s.colls.find? (fun k => k.cmd == some x.id) = some k →
    m = (if n = (s.cx c).oldest then s.rd R.CX_VERDICT_MARK_CUR c else s.rd R.CX_VERDICT_MARK_NEXT c) →
    exec (.stepClose c) s = .next ((s.updCx c fun y => { y with closed := y.closed ++ [n] }).enterColl
      { k with vote := leBytes 1 m ++ leBytes 1 (s.rd R.CX_LEARN_S c) }).settle

/-- R181 to R187, R192, R200: an UPDATE whose waits are met begins with T of its layer's record, S of its step, the anchor of its
group and the next turn; PASS1_END runs pass 1 and leaves its totals, or its part of the norm exchange; PASS2_END, in the order
of the begins, runs pass 2, writes T + 1 to the record and the norms entry, counts the tensors' blocks, and adds 1 to
UD.FUU_STAT.DONE. One whose step is skipped writes its norms entry alone. -/
def Obligations.UpdatesRunInTwoPasses : Prop :=
  ∀ (s b v : State) (id : Nat) (x : Cmd) (r : LayerRec) (g : Group) (u : UdRun) (k : Coll) (done : State → State),
    s.cmd? id = some x → opc x.w = 0x55 → s.live = true → s.cxLive x.cx = true →
    done = (fun t => ((t.updCmd x.id fun y => { y with phase := .finished }).bump R.UD_FUU_STAT_DONE).settle) →
    (x.phase = CmdPhase.queued → s.udMet x = true → s.udBusy.length < 2 → (∀ y ∈ s.udBusy, y.phase ≠ CmdPhase.pass1) →
      (∀ y ∈ s.udQueue, y.id < x.id → s.udMet y = false) → s.udParts x = .ok (r, g) →
      ((s.cx x.cx).verdictOf (udStep x.w)).any (fun q => q.skip) = false →
      exec (.updateBegin id) s = .next (s.updCmd x.id fun _ =>
        { x with phase := .pass1,
                 upd := { t := r.t, s := ((s.cx x.cx).sFor (udStep x.w)).getD 0, anchor := g.anchor,
                          turn := (s.udBusy.map fun y => y.upd.turn).foldl max 0 + 1 } }).settle) ∧
    (x.phase = CmdPhase.pass1 → s.udTaken x = .ok (r, g) →
      pass1 (udConst x.seed r.master.tid x.upd.t x.upd.s g (udLambda x.w) fzero) x.cx (udStep x.w) r s = .ok u →
      b = (((u.s.updCmd x.id fun y => { y with upd := { y.upd with low := u.nw.low + u.ng.low + u.nu.low, high := u.nw.high + u.ng.high + u.nu.high, bad := u.bad } }).countFor
        x.id r.m1.tid .m u.k1).countFor x.id r.m2.tid .m u.k2).updCmd x.id (fun y => { y with phase := .exchange }) →
      (udAccord x.w = 0xFFFF → exec (.pass1End id) s = .next (b.updCmd x.id fun y =>
        { y with upd := { y.upd with w2 := u.nw.sum, g2 := u.ng.sum, u2 := u.nu.sum, exchanged := true } }).settle) ∧
      (udAccord x.w ≠ 0xFFFF → b.colls.find? (fun k => k.cmd == some x.id) = some k →
        exec (.pass1End id) s = .next (b.enterColl
          { k with vote := leBytes 8 u.nw.sum ++ leBytes 8 u.ng.sum ++ leBytes 8 u.nu.sum ++ leBytes 2 (unsignedOf 16 g.anchor) }).settle)) ∧
    (x.phase = CmdPhase.exchange → x.upd.exchanged = true → (∀ y ∈ s.udBusy, x.upd.turn ≤ y.upd.turn) →
      (x.upd.skipped = true → s.writeNorms x x.upd fzero = .ok v → exec (.pass2End id) s = .next (done v)) ∧
      (x.upd.skipped = false → s.udTaken x = .ok (r, g) →
        pass2 (udConst x.seed r.master.tid x.upd.t x.upd.s g (udLambda x.w) (fmul (udEta x.w) (trustRatio g x.upd.w2 x.upd.u2)))
          x.cx (udStep x.w) (udPrint x.w) r s = .ok u →
        u.s.vwriteNat x.cx (udLayer x.w + 168) 4 (min (x.upd.t + 1) 0xFFFFFFFF) (.update (udStep x.w) []) = .ok b →
        b.writeNorms x { x.upd with bad := x.upd.bad ++ u.bad } (trustRatio g x.upd.w2 x.upd.u2) = .ok v →
        exec (.pass2End id) s = .next (done ((v.countFor x.id r.master.tid .w u.kw).countFor x.id r.print.tid .p u.kp))))

/-- R197 to R200, R321: a waiting COMMIT whose verdict and UPDATEs are there, whose record and print number hold, whose hold
semaphore stands at 0 and none of whose pages is being appended commits its shadows, aliases and frees what the slots share and
writes PRINT to the version entry, in this order; it is then finished. A data commit waits for appends alone. -/
def Obligations.CommitsPublish : Prop :=
  ∀ (s t : State) (id : Nat) (x : Cmd) (r : LayerRec) (hs : List Shadow) (done : State → State),
    s.cmd? id = some x → opc x.w = 0x53 → x.phase = CmdPhase.queued → s.cmdRuns x = true →
    done = (fun t => (t.updCmd x.id fun y => { y with phase := .finished }).rush 7 x.cx x.sp 0x53 (pkt x.w 32 16) x.index
      (cmPrint x.w)) →
    (cmLayer x.w ≠ 0 → s.cmReady x = true → s.cmRecord x = .ok r → hs = s.cmShadows x r →
      s.sem x.cx (s.holdOf x.cx (cmPrint x.w) r.depth) = 0 → (∀ h ∈ hs, s.appending x.cx (2 ^ 21 * h.vpage) = false) →
      ∀ (a d : State × List Nat) (e : State), s.commitShadows x.cx (cmStep x.w) hs = .ok a →
      d = a.1.aliasSlot x.cx (cmPrint x.w) r (hs.map fun h => 2 ^ 21 * h.vpage) →
      e = (r.slotPages.foldl (fun s va => s.markShared x.cx r va) d.1).freePrints x.cx r (a.2 ++ d.2) →
      e.vwriteNat x.cx (e.rdAddr R.CX_SYNC_VERSION_BASE x.cx + 8 * r.print.tid) 8 (cmPrint x.w) = .ok t →
      exec (.commitWaitsMet id) s = .next ((done t).pollOwner x.cx).settle) ∧
    (cmLayer x.w = 0 → hs = s.dataShadows x → (∀ h ∈ hs, s.appending x.cx (2 ^ 21 * h.vpage) = false) →
      ∀ fs : List Nat, s.commitShadows x.cx (cmStep x.w) hs = .ok (t, fs) →
      exec (.commitWaitsMet id) s = .next (done t).settle)

-- The host's writes: rings, semaphores, registers.

/-- R121: a doorbell whose value v passes neither TAIL nor HEAD by more than 2^LOG2_SIZE commands (R123: a LOG2_SIZE outside
6 to 20 acts as 6), at a processor whose EN is 1, moves TAIL to v; any other is ignored and sets BAD_DOORBELL. R120, R123,
R446: the write that sets EN of a ring takes the ring's other fields with it, sets HEAD and TAIL to zero and clears FAULTED,
FAULT_CODE and FAULT_INDEX. While EN is 1 the other fields and RING_BASE ignore a write, and one that clears EN stops fetch,
for a processor whose EN is 0 dispatches nothing: HEAD, the commands dispatched and every other register stay as they are. -/
def Obligations.RingsAndDoorbells : Prop :=
  (∀ (s : State) (sp : Fin 32) (v : BitVec 32) (n : Nat),
     s.takesWrites .SP 0x10 = true →
     n = (if 6 ≤ s.rd R.SP_RING_CTL_LOG2_SIZE sp ∧ s.rd R.SP_RING_CTL_LOG2_SIZE sp ≤ 20 then s.rd R.SP_RING_CTL_LOG2_SIZE sp else 6) →
     (s.flag R.SP_RING_CTL_EN sp = true → (2 ^ 32 + v.toNat - s.rd R.SP_PTRS_TAIL sp) % 2 ^ 32 ≤ 2 ^ n →
       (2 ^ 32 + v.toNat - s.rd R.SP_PTRS_HEAD sp) % 2 ^ 32 ≤ 2 ^ n →
       exec (.doorbell sp v) s = .next (s.wr R.SP_PTRS_TAIL v.toNat sp).settle) ∧
     (s.flag R.SP_RING_CTL_EN sp = false ∨ 2 ^ n < (2 ^ 32 + v.toNat - s.rd R.SP_PTRS_TAIL sp) % 2 ^ 32 ∨
         2 ^ n < (2 ^ 32 + v.toNat - s.rd R.SP_PTRS_HEAD sp) % 2 ^ 32 →
       exec (.doorbell sp v) s = .next (s.setFlag R.SP_STATUS_BAD_DOORBELL true sp))) ∧
  (∀ (s : State) (sp : Fin 32) (v : Word),
     s.regsWf = true → s.takesWrites .SP 0x08 = true →
     (s.flag R.SP_RING_CTL_EN sp = false → v.getLsbD 0 = true →
       ∃ u : State, exec (.ringEnable sp v) s = .next u.settle ∧ u.flag R.SP_RING_CTL_EN sp = true ∧
         u.rd R.SP_RING_CTL_CX sp = bitsAt v.toNat 1 4 ∧ u.rd R.SP_RING_CTL_LOG2_SIZE sp = bitsAt v.toNat 5 5 ∧
         u.rd R.SP_RING_CTL_VECTOR sp = bitsAt v.toNat 10 11 ∧ u.rd R.SP_PTRS_HEAD sp = 0 ∧ u.rd R.SP_PTRS_TAIL sp = 0 ∧
         u.rd R.SP_STATUS_FAULTED sp = 0 ∧ u.rd R.SP_STATUS_FAULT_CODE sp = 0 ∧ u.rd R.SP_STATUS_FAULT_INDEX sp = 0 ∧
         u.cmds = s.cmds ∧ u.mem = s.mem ∧
         (∀ a, a ≠ R.SP_RING_CTL_EN.addr sp → a ≠ R.SP_PTRS_HEAD.addr sp → a ≠ R.SP_STATUS_FAULTED.addr sp → u.word a = s.word a)) ∧
     (s.flag R.SP_RING_CTL_EN sp = true → v.getLsbD 0 = false →
       exec (.ringDisable sp v) s = .next (s.setFlag R.SP_RING_CTL_EN false sp).settle) ∧
     (s.flag R.SP_RING_CTL_EN sp = true → v.getLsbD 0 = true →
       exec (.registerWrite (R.SP_RING_CTL_EN.addr sp) 8 v) s = .next s.settle) ∧
     (s.flag R.SP_RING_CTL_EN sp = true → s.takesWrites .SP 0 = true →
       exec (.registerWrite (R.SP_RING_BASE_BASE.addr sp) 8 v) s = .next s) ∧
     (∀ t : State, t.flag R.SP_RING_CTL_EN sp = false → t.canDispatch sp = false))

/-- R151, R173, R311: a host write to a semaphore replaces its value, and waiters are evaluated again at once; one to a semaphore
that the stash controller or the checkpoint engine owns is ignored. -/
def Obligations.HostWritesSemaphores : Prop :=
  ∀ (s : State) (c : Fin 16) (i : Fin 256) (v : Word),
    s.takesWrites .CX (0x1000 + 8 * i.val) = true →
    (s.semOwned c i = false → exec (.hostSemaphoreWrite c i v) s = .next (s.setSem c i (v.toNat % 2 ^ 32)).settle) ∧
    (s.semOwned c i = true → exec (.hostSemaphoreWrite c i v) s = .next s)

/-- R6, R405: an 8-byte write to a register of the near cache or the collective engine replaces its RW
fields and touches no other register and no memory. A write or a read of a size other than 4 and 8, or not aligned to its size,
changes no register; the read is answered as unsupported. -/
def Obligations.RegisterWritesReplaceFields : Prop :=
  ∀ (s : State) (f : Fld) (i off size : Nat) (v : Word),
    s.regsWf = true →
    (f.blk = .NCACHE ∨ f.blk = .CE → f ∈ fieldsOf f.blk → f.acc = .RW → i < f.cnt → s.takesWrites f.blk (f.off + f.sub * i) = true →
      ∃ u : State, exec (.registerWrite (f.addr 0 i) 8 v) s = .next u ∧ u.rd f 0 i = bitsAt v.toNat f.lo f.wid ∧
        (∀ a, a ≠ f.addr 0 i → u.word a = s.word a) ∧ u = { s with regs := u.regs }) ∧
    ((size = 8 ∧ off % 8 ≠ 0) ∨ (size = 4 ∧ off % 4 ≠ 0) ∨ (size ≠ 4 ∧ size ≠ 8) →
      exec (.registerWrite off size v) s = .next s ∧
      (s.answers = true → off < 0x4000000 → exec (.readClear off size) s = .next (s.emit .unsupported)))

/-- R6, R405: a host read of 8 bytes outside the window of the cut's image is answered with the register's word, and returns
to zero the RC fields of a register whose block acts: none of a block that a cut has frozen. -/
def Obligations.ReadsAnswerAndClear : Prop :=
  ∀ (s : State) (off : Nat),
    s.regsWf = true → s.answers = true → off < 0x4000000 → off % 8 = 0 → s.servedAt off = true →
    off < blkBase .DBG + imageWindow ∨ blkBase .DBG + imageWindow + 0x100000 ≤ off →
    ∃ u : State, exec (.readClear off 8) s = .next u ∧ u.outs = s.outs ++ [.readData off (BitVec.ofNat 64 (s.readWord off).1)] ∧
      (s.actsAt off = true → ∀ f ∈ fieldsAt off, f.acc = .RC → bitsAt (u.word off).toNat f.lo f.wid = 0) ∧
      (∀ a, a ≠ off → u.word a = s.word a) ∧ (s.actsAt off = false → u.word off = s.word off) ∧ u.mem = s.mem

-- The stash.

/-- R162, R163, R172, R173: the write that sets EN checks the table: one that passes is taken with every entry EMPTY, EN set
and the counts zero, and the entries' states are written out to it; one that does not leaves EN at 0 and sets TABLE_ERR with
the number of its first bad entry. ADMISSION grants the next number to a slot that may be admitted, and writes it to the
admission semaphore. R165, R167, R170: the end of an offload leaves the entry OFFLOADED with its pages in pool frames, its
near pages free and OFFLOADS counted; the end of a recall copies each page back to the near page placed for it and leaves
the entry NEAR, its pool pages free and RECALLS counted. -/
def Obligations.StashTablesAndCopies : Prop :=
  (∀ (s b : State) (c : Fin 16) (v : Word) (es : List StashEntry) (k n : Nat),
     (s.takesWrites .CX 0x140 = true → s.flag R.CX_STASH_CTL_EN c = false → v.getLsbD 0 = true →
       b = s.puts (hw8 v.toNat) [R.CX_STASH_CTL_LOW_WATER, R.CX_STASH_CTL_RECALL_PAGES, R.CX_STASH_CTL_ADMIT_EN,
         R.CX_STASH_CTL_ADMIT_SEM, R.CX_STASH_CTL_MB_SLOTS] c →
       b.cxLive c = true → b.regsWf = true →
       (b.stashCheck c = .refused n → exec (.stashEnable c v) s =
         .next ((b.setFlag R.CX_STASH_STAT_TABLE_ERR true c).wr R.CX_STASH_STAT_ERR_ENTRY n c).settle) ∧
       (b.stashCheck c = .table es →
         ∃ u : State, exec (.stashEnable c v) s = .next ((List.range es.length).foldl (fun s i => s.stashStore c i) u).settle ∧
           (u.cx c).stash.entries = es ∧
           u.flag R.CX_STASH_CTL_EN c = true ∧ u.flag R.CX_STASH_STAT_TABLE_ERR c = false ∧ u.rd R.CX_STASH_COUNT_OFFLOADS c = 0 ∧
           u.rd R.CX_STASH_COUNT_RECALLS c = 0)) ∧
     (s.live = true → s.cxState c = 3 → s.flag R.CX_STASH_CTL_EN c = true → s.flag R.CX_STASH_CTL_ADMIT_EN c = true →
       n = (s.cx c).stash.admitted % (if s.rd R.CX_STASH_CTL_MB_SLOTS c = 0 then 256 else s.rd R.CX_STASH_CTL_MB_SLOTS c) →
       s.admissible c n = true → k = (s.cx c).stash.admitted + 1 →
       exec (.admission c) s = .next ((s.updCx c fun x =>
         { x with stash := { x.stash with admitted := k, entries := x.stash.entries.map fun e =>
             if e.mb = n then { e with held := true, admNo := k } else e } }).setSem c (s.rd R.CX_STASH_CTL_ADMIT_SEM c)
               (k % 2 ^ 32)).settle)) ∧
  (∀ (s : State) (c : Fin 16) (i : Nat) (e : StashEntry),
     s.live = true → s.cxState c = 3 →
     ((s.cx c).stash.inState .offloading = some (i, e) → e.near.length ≤ s.poolFree c → s.stashBad c e e.near = none →
       exec (.offloadDone c) s = .next (((((s.offloadPages c i e.near).stashSet c i fun e =>
         { e with state := .offloaded, near := [] })).count 0x090 0xFF c 1).bump R.CX_STASH_COUNT_OFFLOADS 1 c).settle) ∧
     ((s.cx c).stash.inState .recalling = some (i, e) → s.stashBad c e e.pool = none →
       exec (.recallDone c) s = .next (((((e.pool.foldl (fun (s : State) p => match e.near.find? fun q => q.1 == p.1 with
           | some q => s.pcopy p.2 0x200000 q.2
           | none => s) s).stashSet c i fun e => { e with state := .near, pool := [], recalled := true })).count
         0x091 0xFF c 1).bump R.CX_STASH_COUNT_RECALLS 1 c).settle))

-- The life of a context.

/-- R278, R446: a write of 1 to CREATE of a FREE context takes the write's other fields and checks the context's registers in
their order. If all hold the context is PARKED with an empty take, no binding and no step, and its fault fields, PIM
counts, S, marks and verdict fields are zero; if not, CREATE_ERR holds the number of the first check that fails. -/
def Obligations.CreateChecksAndCreates : Prop :=
  ∀ (s b : State) (c : Fin 16) (v : Word),
    s.canon = true → s.takesWrites .CX 0 = true → s.cxState c = 0 → v.getLsbD 0 = true → v.getLsbD 1 = false → v.getLsbD 5 = false →
    b = s.puts (hw8 v.toNat) [R.CX_CTL_CLASS, R.CX_CTL_NOPREEMPT, R.CX_CTL_RUN, R.CX_CTL_AT_POINT, R.CX_CTL_PRIO, R.CX_CTL_VECTOR] c →
    (b.createCheck c = 0 →
      ∃ u : State, exec (.create c v) s = .next u.settle ∧ u.rd R.CX_STATUS_STATE c = 1 ∧ (u.cx c).take = { empty := true } ∧ (u.cx c).binds = [] ∧
        (u.cx c).first = none ∧ (u.cx c).shadows = [] ∧ u.rd R.CX_STATUS_CREATE_ERR c = 0 ∧ u.rd R.CX_STATUS_FAULT_CODE c = 0 ∧
        u.rd R.CX_STATUS_SWITCHES c = 0 ∧ u.rd R.CX_FAULT_ADDR c = 0 ∧ u.rd R.CX_NUMERIC_PIM_ACTIVE c = 0 ∧
        u.rd R.CX_NUMERIC_PIM_REFUSED c = 0 ∧ u.rd R.CX_LEARN_S c = 0 ∧ u.rd R.CX_LEARN_SKIPS c = 0 ∧ u.rd R.CX_VERDICT_MARK_CUR c = 0 ∧
        u.rd R.CX_VERDICT_LAST_STEP c = 0 ∧ u.cmds = s.cmds ∧ (∀ d < 16, d ≠ c.val → u.cx d = s.cx d)) ∧
    (b.createCheck c ≠ 0 → exec (.create c v) s = .next (b.wr R.CX_STATUS_CREATE_ERR (b.createCheck c) c).settle)

/-- R294, R295: a write of 1 to DESTROY of a context that is not FREE tears it down: it is FREE, and no command, message or collective
of it and no entry of the cast table is left. -/
def Obligations.DestroyLeavesNothing : Prop :=
  ∀ (s : State) (c : Fin 16) (v : Word),
    s.canon = true → s.takesWrites .CX 0 = true → s.cxState c ≠ 0 → v.getLsbD 1 = true → v.getLsbD 0 = false → v.getLsbD 5 = false →
    ∃ u : State, exec (.destroy c v) s = .next u.settle ∧ u.rd R.CX_STATUS_STATE c = 0 ∧
      (s.cxState c ≠ 5 → (∀ x ∈ u.cmds, x.cx ≠ c.val) ∧ (∀ m ∈ u.msgs, m.cx ≠ c.val) ∧ (∀ k ∈ u.colls, k.cx ≠ c.val) ∧ (u.cx c).binds = [] ∧
        (u.cx c).take = { empty := true }) ∧
      (∀ e ∈ u.cast, e.cx ≠ c.val ∧ (e.scx = c.val → e.sres = false ∧ e.spages = []))

/-- R277, R280, R282: a write to CXn.CTL of a context that exists, without CREATE, DESTROY and XLT_INV, replaces RUN, AT_POINT, PRIO
and VECTOR and nothing else: CLASS and NOPREEMPT are fixed. One with XLT_INV sets INV_BUSY as well, until the discard of the
context's translations ends. -/
def Obligations.RunAndTranslations : Prop :=
  ∀ (s b : State) (c : Fin 16) (v : Word),
    s.regsWf = true → s.cxState c ≠ 0 → v.getLsbD 0 = false → v.getLsbD 1 = false →
    b = s.puts (hw8 v.toNat) [R.CX_CTL_RUN, R.CX_CTL_AT_POINT, R.CX_CTL_PRIO, R.CX_CTL_VECTOR] c →
    b.flag R.CX_CTL_RUN c = v.getLsbD 2 ∧ b.flag R.CX_CTL_AT_POINT c = v.getLsbD 4 ∧ b.rd R.CX_CTL_PRIO c = bitsAt v.toNat 8 4 ∧
    b.rd R.CX_CTL_VECTOR c = bitsAt v.toNat 16 11 ∧ b.rd R.CX_CTL_CLASS c = s.rd R.CX_CTL_CLASS c ∧
    b.rd R.CX_CTL_NOPREEMPT c = s.rd R.CX_CTL_NOPREEMPT c ∧ (∀ a, a ≠ R.CX_CTL_RUN.addr c → b.word a = s.word a) ∧
    (s.takesWrites .CX 0 = true → v.getLsbD 5 = false → exec (.run c v) s = .next b.settle) ∧
    (s.takesWrites .CX 0 = true → v.getLsbD 5 = true → exec (.xltInv c v) s = .next (b.setFlag R.CX_STATUS_INV_BUSY true c).settle) ∧
    (s.live = true → s.flag R.CX_STATUS_INV_BUSY c = true →
      exec (.invalidationDone c) s = .next ((s.updCx c fun x => { x with ptmem := none }).setFlag R.CX_STATUS_INV_BUSY false c))

/-- R281, R286, R288: once a PARKING context has its turn and all its commands stand at their points, its take is written:
no pre-emptible command, binding, ring row or saved tile of it is left on the die, they stand in the take, its scratch share
is copied to the take area, and it is PARKED, with SWITCHES counted. R288, R290: the control part of a take and the scratch
share are read back, or zero is written to the share where the take is empty; the bindings, ring images, tiles and commands
of the take are the context's again, and it is RESIDENT. -/
def Obligations.ParksAndRestores : Prop :=
  (∀ (s : State) (c : Fin 16),
     s.regsWf = true → s.live = true → s.cxState c = 4 → s.parkTurn c = true → s.cmdsStopped c = true → s.noSpill →
     ∃ u : State, exec (.takeWritten c) s = .next u.settle ∧ u.rd R.CX_STATUS_STATE c = 1 ∧
       u.rd R.CX_STATUS_SWITCHES c = min (s.rd R.CX_STATUS_SWITCHES c + 1) (2 ^ 32 - 1) ∧
       (∀ x ∈ u.cmds, x.cx = c.val → preemptible (opc x.w) = false) ∧ (u.cx c).take.empty = false ∧
       (u.cx c).take.cmds.length = (s.cmds.filter fun x => x.cx == c.val && preemptible (opc x.w)).length ∧ (u.cx c).binds = [] ∧
       (u.cx c).rings = [] ∧ (u.cx c).tiles = [] ∧ (∀ a < 8, ∀ r ∈ (u.arr a).ring, r.cx ≠ c.val) ∧
       u.mem = (s.pcopy (0x080000000000 + 0x200000 * s.rd R.CX_SCRATCH_BASE c) (0x200000 * s.rd R.CX_SCRATCH_PAGES c)
         (0x5400000 + s.rdAddr R.CX_TAKE_BASE c)).mem) ∧
  (∀ (s : State) (c : Fin 16),
     s.regsWf = true → s.live = true → s.cxState c = 2 → s.takeBad c = none → s.noSpill →
     ∃ u w : State, exec (.controlRestored c) s = .next (((s.boundSps c).foldl (fun s n => s.pollVersion n) u).settle) ∧
       u.rd R.CX_STATUS_STATE c = 3 ∧ (u.cx c).take = { empty := true } ∧ (u.cx c).binds = (s.cx c).take.binds ∧ (u.cx c).rings = (s.cx c).take.rings ∧
       (u.cx c).tiles = (s.cx c).take.tiles ∧ u.cmds = s.cmds ++ (s.cx c).take.cmds ∧ u.mem = w.mem ∧
       w = (if (s.cx c).take.empty = true then
           s.pzero (0x080000000000 + 0x200000 * s.rd R.CX_SCRATCH_BASE c) (0x200000 * s.rd R.CX_SCRATCH_PAGES c)
         else s.pcopy (0x5400000 + s.rdAddr R.CX_TAKE_BASE c) (0x200000 * s.rd R.CX_SCRATCH_PAGES c)
           (0x080000000000 + 0x200000 * s.rd R.CX_SCRATCH_BASE c)) ∧
       (∀ i < 256, u.rd R.CX_SEM_VALUE c i = w.preadNat (0x1000 + s.rdAddr R.CX_TAKE_BASE c + 8 * i) 4))

-- The fabric.

/-- R241, R243, R246, R252: a frame that does not carry the LSEQ expected next, on a port that is UP, is discarded with one
NAK and has no other effect. One in order is taken: the next LSEQ is expected, its credit units are freed and an
acknowledgement is owed; then it is dropped and counted if its channel is not that of its type, dropped, counted and
recorded in the reel if it is for another device, and handled otherwise. R241, R243: a port that is UP discards a frame with
an uncorrectable block (counted in UNCORR), a failed CRC or a wrong LSEQ, with a NAK unless one is out; it takes and drops
one of a reserved type or on a wrong channel. -/
def Obligations.FramesAreTakenOrDiscarded : Prop :=
  (∀ (s : State) (p : Fin 18) (f : Frame) (ev : Fin 18 → Frame → Instr) (typ : Nat),
     (ev, typ) ∈ [(Instr.putData, 1), (Instr.getReq, 2), (Instr.post, 3), (Instr.putAck, 4), (Instr.getData, 5), (Instr.refuse, 6),
       (Instr.collData, 7), (Instr.collReady, 8), (Instr.collAbort, 9), (Instr.clapper, 12), (Instr.cut, 13), (Instr.loss, 14)] →
     s.portTakes p = true → f.typ = typ → fitFrame f = f →
     (f.lseq ≠ (s.port p).rxNext % 65536 → (s.port p).nakSent = true → exec (ev p f) s = .next s.settle) ∧
     (f.lseq ≠ (s.port p).rxNext % 65536 → (s.port p).nakSent = false →
       exec (ev p f) s = .next ((s.updPort p fun q => { q with nakSent := true }).sendLink p true).settle) ∧
     (f.lseq = (s.port p).rxNext % 65536 → f.vc ≠ vcOf typ →
       exec (ev p f) s = .next ((s.takeFrame p f).bump R.LK_ERRORS_DROPPED 1 p).settle) ∧
     (f.lseq = (s.port p).rxNext % 65536 → f.vc = vcOf typ → f.dstDev ≠ (s.takeFrame p f).dev →
       exec (ev p f) s = .next (((s.takeFrame p f).bump R.LK_ERRORS_DROPPED 1 p).reelEvent 0x09 (113 + p) 0xFF
         (leBytes 1 p ++ leBytes 2 f.srcDev ++ leBytes 2 f.dstDev)).settle) ∧
     (f.nak = false → ((s.takeFrame p f).port p).rxNext = (s.port p).rxNext + 1 ∧ ((s.takeFrame p f).port p).nakSent = false ∧
       ((s.takeFrame p f).port p).ackOwed = true ∧
       ((s.takeFrame p f).port p).freed = (s.port p).freed.modify f.vc (fun n => n + (1 + (f.len + 63) / 64)))) ∧
  (∀ (s : State) (p : Fin 18) (f : Frame),
     s.portTakes p = true → fitFrame f = f →
     exec (.frameDiscarded p .fecUncorrectable f) s = .next ((s.bump R.LK_ERRORS_UNCORR 1 p).discardFrame p).settle ∧
     exec (.frameDiscarded p .badCrc f) s = .next (s.discardFrame p).settle ∧
     (f.lseq ≠ (s.port p).rxNext % 65536 → exec (.frameDiscarded p .outOfOrder f) s = .next (s.discardFrame p).settle) ∧
     (f.lseq = (s.port p).rxNext % 65536 → f.typ = 0 →
       exec (.frameDiscarded p .reservedType f) s = .next ((s.takeFrame p f).bump R.LK_ERRORS_DROPPED 1 p).settle) ∧
     (f.lseq = (s.port p).rxNext % 65536 → f.typ ≠ 0 → f.typ < 15 → f.vc ≠ vcOf f.typ →
       exec (.frameDiscarded p .wrongChannel f) s = .next ((s.takeFrame p f).bump R.LK_ERRORS_DROPPED 1 p).settle) ∧
     ((s.port p).nakSent = true → s.discardFrame p = s) ∧
     ((s.port p).nakSent = false → ((s.discardFrame p).port p).nakSent = true ∧ ∃ g : Frame, (s.discardFrame p).outs = s.outs ++ [.frame p g] ∧ g.typ = 15 ∧ g.nak = true))

/-- R252 to R255, R316: a target that is live and open to the frame's job writes a PUT_DATA and acknowledges it, XORs one that
lies in its parity window, answers a GET_REQ with the bytes of its range, and gives a POST its semaphore; each goes back to the
sender with its message and offset. One of a context that does not exist, is closed, or is of another job is refused with reason
1, 2 or 3; a post past 0xFFFF_FFFF with reason 5. -/
def Obligations.TargetsServeFrames : Prop :=
  ∀ (s t : State) (p : Fin 18) (f : Frame) (c typ : Nat) (answer : State → Nat → Nat → List Byte → State),
    Arrives s p f typ → t = s.takeFrame p f → t.dev = s.dev → c = f.dstCx →
    answer = (fun u k a bs => u.sendFrames [{ typ := k, vc := 1, srcDev := u.dev, dstDev := f.srcDev, srcCx := c, dstCx := f.srcCx, job := f.job,
                                              addr := a, offset := f.offset, msgBytes := f.msgBytes, msgId := f.msgId, payload := bs }]) →
    (t.cxLive c = true → t.flag R.CX_REMOTE_EN c = true → t.rd R.CX_REMOTE_JOB c = f.job →
      (typ = 1 → t.inParity c f.addr f.len = false → ∀ u, t.vwriteFrom c f.addr f.payload .plain = (u, .ok ()) →
        exec (.putData p f) s = .next (answer u 4 f.addr []).settle) ∧
      (typ = 1 → t.inParity c f.addr f.len = true → ∀ (u : State) (old : List Byte), t.vread c f.addr f.len = .ok old →
        t.vwrite c f.addr ((old.zip f.payload).map fun q => q.1 ^^^ q.2) = .ok u →
        exec (.putData p f) s = .next (answer (u.gotParity c f.addr f.len) 4 f.addr []).settle) ∧
      (typ = 2 → ∀ bs : List Byte, t.vread c f.addr (min 2048 (f.msgBytes - f.offset)) = .ok bs →
        exec (.getReq p f) s = .next (answer t 5 f.addr bs).settle) ∧
      (typ = 3 → t.semOwned c f.rpostSem = false →
        (t.sem c f.rpostSem + 1 < 2 ^ 32 → exec (.post p f) s =
          .next (answer ((t.setSem c f.rpostSem (t.sem c f.rpostSem + 1)).count 0x070 0xFF c 1) 4 f.addr []).settle) ∧
        (2 ^ 32 ≤ t.sem c f.rpostSem + 1 → exec (.post p f) s =
          .next (answer ((t.bump R.CX_REMOTE_REFUSED 1 c).count 0x0B0 0xFF c 1) 6 5 []).settle))) ∧
    (∀ k : Nat, (t.cxLive c = false ∧ k = 1) ∨ (t.cxLive c = true ∧ t.flag R.CX_REMOTE_EN c = false ∧ k = 2) ∨
        (t.cxLive c = true ∧ t.flag R.CX_REMOTE_EN c = true ∧ t.rd R.CX_REMOTE_JOB c ≠ f.job ∧ k = 3) →
      ∀ u : State, u = answer ((if t.cxLive c then t.bump R.CX_REMOTE_REFUSED 1 c else t).count 0x0B0 0xFF c 1) 6 k [] →
      (typ = 1 → exec (.putData p f) s = .next u.settle) ∧ (typ = 2 → exec (.getReq p f) s = .next u.settle) ∧
      (typ = 3 → exec (.post p f) s = .next u.settle))

/-- R253, R254, R256: the answer to a frame that a message has sent and that is unanswered counts once: the last PUT_ACK of a PUT
with RPOST sends its POST, any other last answer ends the message, and the bytes of a GET_DATA are written first. A REFUSE
or the loss of such a frame faults the sender's context with code 0x05 and the reason, or code 0x06. -/
def Obligations.SendersHearAnswers : Prop :=
  ∀ (s t u : State) (p : Fin 18) (f : Frame) (m : Msg) (typ o : Nat) (hear : State → State),
    Arrives s p f typ → t = s.takeFrame p f → t.dev = s.dev → t.msg? f.msgId = some m →
    o = (if m.posted then m.bytes else f.offset) →
    hear = (fun q => q.updMsg m.id fun _ => { m with left := m.left.erase o, last := q.clock }) →
    (typ = 4 → m.isGet = false → m.awaits o = true →
      (m.left.erase o ≠ [] → exec (.putAck p f) s = .next (hear t).settle) ∧
      (m.left.erase o = [] → m.rpost = none ∨ m.posted = true →
        exec (.putAck p f) s = .next ((hear t).msgDone { m with left := [], last := t.clock }).settle) ∧
      (m.left.erase o = [] → m.posted = false → ∀ n, m.rpost = some n →
        exec (.putAck p f) s = .next ((hear t).sendPost { m with left := [], last := t.clock } n).settle)) ∧
    (typ = 5 → m.isGet = true → m.posted = false → m.awaits o = true → f.len = min 2048 (m.bytes - o) →
      t.vwriteFrom m.cx (m.dst + o) f.payload .plain = (u, .ok ()) →
      exec (.getData p f) s = .next (if m.left.erase o = [] then (hear u).msgDone { m with left := [], last := u.clock } else hear u).settle) ∧
    (typ = 6 → exec (.refuse p f) s = .next (t.faultCx m.cx { code := 5, reason := f.addr % 256 } (t.cmdPlace m.cmd)).settle) ∧
    (typ = 14 → f.msgId ≠ 0 → m.awaits f.offset = true →
      exec (.loss p f) s = .next (t.faultCx m.cx { code := 6 } (t.cmdPlace m.cmd)).settle)

/-- R59, R258, R259, R261, R263: a COLL_DATA frame that agrees with its collective goes to its step, or joins the votes; one with another EPOCH
fails the collective, one with another PIM_ACTIVE faults as an illegal command. A COLL_READY of an agreed EPOCH and PIM sets its flag.
A COLL_ABORT of a collective in progress fails it. A frame of no collective is stale. -/
def Obligations.CollectiveFramesMeetTheirCollective : Prop :=
  ∀ (s t : State) (p : Fin 18) (f : Frame) (k : Coll) (c q typ : Nat),
    Arrives s p f typ → t = s.takeFrame p f → t.dev = s.dev → c = f.dstCx → t.cxLive c = true →
    (typ = 7 → t.coll? c f.accord f.collSeq = none → exec (.collData p f) s = .next (t.bump R.CE_STAT_STALE).settle) ∧
    (t.coll? c f.accord f.collSeq = some k → k.acc.rankOf f.srcDev f.srcCx = some q →
      (typ = 7 → f.epoch ≠ k.acc.epoch → exec (.collData p f) s = .next (t.faultCx k.cx { code := 8 } (t.cmdPlace k.cmd)).settle) ∧
      (typ = 7 → f.epoch = k.acc.epoch → f.pim ≠ t.flag R.CX_NUMERIC_PIM_ACTIVE c →
        exec (.collData p f) s = .next (t.faultCx k.cx { code := 1 } (t.cmdPlace k.cmd)).settle) ∧
      (typ = 7 → f.epoch = k.acc.epoch → f.pim = t.flag R.CX_NUMERIC_PIM_ACTIVE c → k.dataOk q f = true →
        ∀ k' : Coll, k' = { k with lastRx := t.clock, dataFrom := dedup (k.dataFrom ++ [q]) } →
        (k.isVote = true → exec (.collData p f) s =
          .next (t.collStep { k' with votes := k.votes ++ [(q, f.payload)] } (.ok (t, { k' with votes := k.votes ++ [(q, f.payload)] }))).settle) ∧
        (k.isVote = false → exec (.collData p f) s = .next (t.collStep k' (t.takeUnits k' q f)).settle)) ∧
      (typ = 9 → f.epoch = k.acc.epoch → k.differs = false → f.phase < 4 →
        exec (.collAbort p f) s = .next (t.faultCx k.cx { code := 8 } (t.cmdPlace k.cmd)).settle)) ∧
    (typ = 8 → ∀ (a : Accord) (v : AreaView) (r : Nat) (u : State), t.readAccord c f.accord = .ok a → t.areaView c a = .ok v →
      a.rankOf f.srcDev f.srcCx = some r →
      (f.epoch ≠ a.epoch ∨ f.collSeq + 1 < v.next → exec (.collReady p f) s = .next (t.bump R.CE_STAT_STALE).settle) ∧
      (f.epoch = a.epoch → v.next ≤ f.collSeq → f.pim = t.flag R.CX_NUMERIC_PIM_ACTIVE c → t.coll? c a.index f.collSeq = none →
        t.areaOk c a = true → t.setReady c a f.collSeq r = .ok u → exec (.collReady p f) s = .next u.settle))

/-- R337, R346, R348: a CLAPPER request is answered with this device's time stamps, T2 and T3, and the T1 it carries; a reply of the
master to the request in progress becomes a sample. A CUT frame arms its time where ACCEPT is 1 and is dropped otherwise. -/
def Obligations.TimeAndCutFrames : Prop :=
  ∀ (s t : State) (p : Fin 18) (f : Frame) (n : Nat → Nat → Nat),
    Arrives s p f f.typ → t = s.takeFrame p f → t.dev = s.dev → n = (fun o k => leNat ((f.payload.drop o).take k)) →
    (f.typ = 12 → n 0 1 = 0 → exec (.clapper p f) s =
      .next (t.sendFrames [clapFrame t.dev f.srcDev 1 (n 1 1) (n 2 2) (n 8 8) t.now t.now]).settle) ∧
    (f.typ = 12 → n 0 1 = 1 → t.flag R.TSU_CLAP_BUSY = true → f.srcDev = t.clapMaster → n 1 1 = t.tsu.samples.length → n 1 1 < 63 →
      exec (.clapper p f) s =
        .next ((t.updTsu fun q => { q with samples := q.samples ++ [(n 1 1, q.began, n 16 8, n 24 8, t.clock)] }).clapAsk).settle) ∧
    (f.typ = 13 → t.flag R.DBG_CUT_CTL_ACCEPT = true → exec (.cut p f) s = .next (t.armTimed (n 0 8) (n 8 2) (n 10 4) true).settle) ∧
    (f.typ = 13 → t.flag R.DBG_CUT_CTL_ACCEPT = false → exec (.cut p f) s = .next t.settle)

/-- R239, R251, R337, R379: a training port whose lanes lock enters ROLL and sends a ROLL frame, and sends it again every 10 µs; a reply in order, from its own
plane and the seat of the first to reply, brings it UP with the credits it reports and writes MGT.SEAT. A port without lock for 50 ms goes DOWN.
RETRY of a DOWN port with credits in the limits trains it. When 100 ms pass with no port UP or training the device runs without a fabric. -/
def Obligations.PortsTrainAndRoll : Prop :=
  ∀ (s : State) (p : Fin 18) (f : Frame) (r : Seat) (t u : State) (v : Word) (roll : State → State),
    s.portsLive = true →
    roll = (fun q => (q.sendOn p { typ := 10, vc := 3, srcDev := q.dev }).updPort p fun x => { x with lastAck := q.clock }) →
    (s.portState p = 1 → exec (.portLock p) s = .next (roll (((s.wr R.LK_STATUS_LANES_OK 0xFF p).wr R.LK_STATUS_STATE 2 p).updPort p fun q =>
      { q with since := s.clock }))) ∧
    (s.portState p = 1 → (s.port p).since + 50000000 ≤ s.clock → exec (.trainingTimeout p) s = .next (s.portDown p false).rollEnd.settle) ∧
    (s.portState p = 2 → (s.port p).lastAck + 10000 ≤ s.clock → exec (.rollResend p) s = .next (roll s)) ∧
    (s.portState p = 2 → f.typ = 11 → fitFrame f = f → f.lseq = (s.port p).rxNext % 65536 → r.plane = p.val →
      t = s.takeFrame p f → t.boot.seat = none ∨ t.boot.seat = some (r.rack % 1024 * 64 + r.tray % 8 * 8 + r.slot % 8) →
      u = { t with boot := { t.boot with seat := some (r.rack % 1024 * 64 + r.tray % 8 * 8 + r.slot % 8) } } →
      exec (.rollReply p f r) s =
        .next (((((((u.wr R.LK_STATUS_PLANE p p).wr R.LK_STATUS_PEER_PORT r.port p).writeSeat (seatDev r)).wr R.LK_STATUS_STATE 3 p).updPort p
          fun q => { q with since := u.clock }).updPort p fun q =>
            { q with credits := [r.credit0, r.credit1, r.credit2, r.credit3] }).reseat.rollEnd.settle)) ∧
    (s.takesWrites .LK 0 = true → s.portState p = 0 → v.getLsbD R.LK_CTL_RETRY.lo = true → (s.wr R.LK_CTL_EN (bitsAt v.toNat R.LK_CTL_EN.lo 1) p).portState p = 0 →
      exec (.retry p v) s = .next ((s.wr R.LK_CTL_EN (bitsAt v.toNat R.LK_CTL_EN.lo 1) p).train p)) ∧
    ((∀ q < 18, s.portState q ≠ 3 ∧ s.portState q ≠ 1 ∧ (s.port q).since + 100000000 ≤ s.clock) →
      exec .seatTimeout s = .next s.reseat.rollEnd)

/-- R239, R243, R244: a port that owes an acknowledgement sends a LINK frame with the last LSEQ it took and one channel's credits. A LINK
frame acknowledges and returns credits. No acknowledgement for 50 µs, the loss of a lane's lock, and more than a million
uncorrectable blocks in a second take the port DOWN: its state is 0, its retry buffer is empty and SEATED says whether a port is UP. -/
def Obligations.LinksAcknowledgeAndFail : Prop :=
  ∀ (s : State) (p : Fin 18) (f : Frame) (lane : Fin 8) (m : Nat),
    s.portsLive = true → s.portState p = 3 →
    ((s.port p).ackOwed = true → exec (.linkAck p) s =
      .next ((s.updPort p fun q => { q with ackOwed := false, crNext := (q.crNext + 1) % 4 }).emit (.frame p
        { typ := 15, ackv := decide (0 < (s.port p).rxNext), nak := false, ackSeq := ((s.port p).rxNext + 65535) % 65536, crVc := (s.port p).crNext,
          crUnits := nth 0 (s.port p).freed (s.port p).crNext % 2 ^ 14 }))) ∧
    (f.typ = 15 → fitFrame f = f → f.nak = false → exec (.link p f) s = .next (s.updPort p fun q =>
      (if f.ackv then q.acked f.ackSeq s.clock else q).credited f.crVc f.crUnits).settle) ∧
    ((s.port p).retry ≠ [] → (s.port p).lastAck + 50000 ≤ s.clock → exec (.ackTimeout p) s = .next (s.portDown p true).settle) ∧
    (m = s.rd R.LK_STATUS_LANES_OK p → exec (.laneLockLoss p lane) s =
      .next ((s.wr R.LK_STATUS_LANES_OK (if bitAt m lane then m - 2 ^ lane.val else m) p).portDown p true).rollEnd.settle) ∧
    (exec (.fecErrorLimit p) s = .next ((s.bump R.LK_ERRORS_UNCORR 1000001 p).portDown p true).rollEnd.settle) ∧
    ((s.port p).retry = [] → s.regsWf = true → (s.portDown p false).portState p = 0 ∧ ((s.portDown p false).port p).retry = [] ∧
      ((s.portDown p false).flag R.MGT_SEAT_SEATED = true ↔ ∃ q < 18, (s.portDown p false).portState q = 3))

/-- R150, R256, R259, R263: the limits of the fabric. A READY goes out again each millisecond to the peers that have sent no
data; a message without progress for E2E_US, a collective without a frame for COLL_MS while it holds its READYs,
and one that lacks a READY for READY_S fault their contexts with code 0x07, 0x08 and 0x08. A waiting WAIT_VERSION ends
when its entry has reached PRINT. -/
def Obligations.FabricLimits : Prop :=
  ∀ (s : State) (id : Nat) (m : Msg) (k : Coll) (sp : Fin 32),
    s.live = true →
    (s.msgs.find? (fun m => m.id == id) = some m → m.unsent.length < m.left.length →
      m.last + 1000 * (if s.rd R.CE_CFG_E2E_US = 0 then 1000 else s.rd R.CE_CFG_E2E_US) ≤ s.clock →
      exec (.messageTimeout id) s = .next (s.faultCx m.cx { code := 7 } (s.cmdPlace m.cmd)).settle) ∧
    (s.colls.find? (fun k => k.id == id) = some k → k.entered = true →
      (k.readyAt + 1000000 ≤ s.clock → exec (.readyResend id) s =
        .next ((s.sendFrames ((k.sources.filter fun q => !k.dataFrom.contains q).map fun q => s.collFrame k 8 3 q)).setColl
          { k with readyAt := s.clock }).settle) ∧
      ((∀ q ∈ k.targets, q ∈ k.ready) →
        k.lastRx + (if s.rd R.CE_CFG_COLL_MS = 0 then 100 else s.rd R.CE_CFG_COLL_MS) * 1000000 ≤ s.clock →
        exec (.collTimeout id) s = .next (s.faultCx k.cx { code := 8 } (s.cmdPlace k.cmd)).settle) ∧
      ((∃ q ∈ k.targets, q ∉ k.ready) → s.rd R.CE_CFG_READY_S ≠ 0 → k.began + s.rd R.CE_CFG_READY_S * 1000000000 ≤ s.clock →
        exec (.readyTimeout id) s = .next (s.faultCx k.cx { code := 8 } (s.cmdPlace k.cmd)).settle)) ∧
    (∀ o tid n since v : Nat, (s.sp sp).wait = some (.version o tid n since) → s.cxState (s.rd R.SP_RING_CTL_CX sp) = 3 → s.cxLive o = true →
      s.vreadNat o (s.rdAddr R.CX_SYNC_VERSION_BASE o + 8 * tid) 4 = .ok v →
      (n ≤ v → exec (.versionPoll sp) s = .next (s.endWait sp).settle) ∧ (v < n → exec (.versionPoll sp) s = .next s.settle))

-- The memory tiers and the power controller.

/-- R222, R226, R229, R235: a near channel in service is held by one retraining at a time, 100 µs after the last at the
soonest, and NT.RETRAIN says which. Its end frees it, and a success ends its row of failures. Slow channels are held one at
a time; a third failure in a row takes one offline with a record. R224 to R228, R235: an uncorrectable block that a scrub
finds is recorded and stays; nothing else of a scrub shows. A failing near channel with a free spare migrates: the copy
begins when the spare has trained, and at its end the spare stands for the channel, which is removed, with PROGRESS 255 and
the records of a migration. One whose spare does not train is abandoned. A failing slow channel is recorded. -/
def Obligations.ChannelsRetrainAndMigrate : Prop :=
  (∀ (s : State) (ph : Fin 204) (ch : Fin 128) (ok : Bool) (i : Nat),
     s.live = true →
     (s.nt.held = none → s.nt.holdEnd + 100000 ≤ s.clock → s.testing 5 ph = false → (∀ m, s.nt.migration = some m → m.src ≠ ph) →
       s.activeOf ph = some i → i ∉ s.nt.offline →
       exec (.retrain ph) s = .next (({ s with nt := { s.nt with held := some ph.val } }.wr R.NT_RETRAIN_HOLDING 1).wr R.NT_RETRAIN_HELD ph)) ∧
     (s.nt.held ≠ none → exec (.retrain ph) s = .next s) ∧
     (s.nt.held = some ph.val → (ok = true ∨ missCount s.nt.misses ph < 2) → ∃ l, exec (.retrainEnd ph ok) s =
       .next ({ s with nt := { s.nt with held := none, holdEnd := s.clock, misses := l } }.wr R.NT_RETRAIN_HOLDING 0) ∧
       missCount l ph = (if ok then 0 else missCount s.nt.misses ph + 1) ∧ (∀ q, q ≠ ph.val → missCount l q = missCount s.nt.misses q)) ∧
     (s.nt.slowHeld = none → ch.val < 4 * s.rd R.MGT_POPULATION_SLOW_PKGS → ch.val ∉ s.nt.slowOff →
       exec (.slowRetrain ch) s = .next { s with nt := { s.nt with slowHeld := some ch.val } }) ∧
     (s.nt.slowHeld = some ch.val → ∃ l, missCount l ch = (if ok then 0 else missCount s.nt.slowMisses ch + 1) ∧
       (missCount l ch < 3 → exec (.slowRetrainEnd ch ok) s = .next { s with nt := { s.nt with slowHeld := none, slowMisses := l } }) ∧
       (3 ≤ missCount l ch → exec (.slowRetrainEnd ch ok) s =
         .next (({ s with nt := { s.nt with slowHeld := none, slowMisses := l } }.reelEvent 0x06 (blkIndex .UD) 0xFF
           (leBytes 1 ch ++ leBytes 1 1)).updNt fun t => { t with slowOff := t.slowOff ++ [ch.val] })))) ∧
  (∀ (s : State) (ph : Nat) (ch : Fin 332) (why : FailCause) (a i : Nat) (r : ScrubResult) (m : Migration),
     s.live = true →
     (a % 64 = 0 → s.inNear a 64 = true → s.onSpare a = false → exec (.scrub a .uncorrectable) s =
       .next ({ s with bad := if a ∈ s.bad then s.bad else s.bad ++ [a] }.uncorrEvent a none false)) ∧
     (r ≠ .uncorrectable → exec (.scrub a r) s = .next s) ∧
     (ch.val = ph → ph < 204 → s.roleOf ph = 0 → s.activeOf ph = some i → (s.setRole ph 2).roleOf (17 * (ph / 17) + 16) = 1 →
       s.nt.migration = none → s.nt.waiting = [] → (s.setRole ph 2).flag R.NT_REPAIR_CFG_AUTO = true →
       exec (.channelFailing ch why) s = .next (({ s.setRole ph 2 with nt := { s.nt with migration := some { src := ph } } }.wr
         R.NT_REPAIR_STAT_MIGRATING 1).wr R.NT_REPAIR_STAT_SRC ph)) ∧
     (204 ≤ ch.val → ch.val < 204 + 4 * s.rd R.MGT_POPULATION_SLOW_PKGS → exec (.channelFailing ch why) s =
       .next (s.reelEvent 0x06 (blkIndex .UD) 0xFF (leBytes 1 (ch.val - 204) ++ leBytes 1 (match why with | .symbols => 0 | .retrain => 1 | .uncorrectable => 2)))) ∧
     (s.nt.migration = some m → m.copying = false →
       exec (.spareTrained true) s = .next ({ s with nt := { s.nt with migration := some { m with copying := true, since := s.clock } } }.wr
         R.NT_REPAIR_STAT_PROGRESS 0) ∧
       exec (.spareTrained false) s = .next (s.abandonMigration m.src)) ∧
     (s.nt.migration = some m → m.copying = true → 6 * 2 ^ 30 ≤ (s.clock - m.since) * s.copyRate → s.activeOf m.src = some i →
       exec .migrationCopyEnd s =
         .next (((((((({ s with nt := { s.nt with migration := none, phys := (i, 16) :: s.nt.phys.filter fun p => p.1 != i } }.setRole m.src 3).setRole
           (17 * (m.src / 17) + 16) 0).wr R.NT_REPAIR_STAT_MIGRATING 0).wr R.NT_REPAIR_STAT_PROGRESS 255).bump R.NT_REPAIR_STAT_SPARES_USED).migrationRecord
             m.src true).repairRecord (m.src / 17)).nextMigration)))

/-- R365 to R367: a value written to a LIMIT_W below 1,500 or above 3,300 is held as that bound, with a CAP_CLAMP record of the value
written and the one held. At each sample A is the mean of the window of at most 2,000 samples with the increases of the cues in force, and the window begins anew when
L changes. Where A is at least L less a thirty-second of it the controller moves one position down, if it is not at the floor; after 20 samples in a
row with A at most L less a sixteenth of it, one up, if it is not at the top; else it stays. -/
def Obligations.SamplesMoveTheLadder : Prop :=
  ∀ (s t : State) (mw l n sum inc a k b h : Nat) (w : List Nat) (v : Word) (x : BitVec 16),
    (h = min (max b 1500) 3300 → b = bitsAt v.toNat R.PWR_CAP_HOST_LIMIT_W.lo R.PWR_CAP_HOST_LIMIT_W.wid →
      s.takesWrites .PWR R.PWR_CAP_HOST_LIMIT_W.off = true →
      ∀ u : State, u = s.wr R.PWR_CAP_HOST_LIMIT_W h → exec (.capHost v) s =
        .next (if h = b then u else u.reelEvent 0x0B (blkIndex .PWR) 0xFF (leBytes 2 b ++ leBytes 2 h))) ∧
    (h = min (max b 1500) 3300 → b = x.toNat → s.regsWf = true → s.i3cUp = true → s.flag R.MGT_I3C_ASSIGNED = true →
      ∀ u w : State, u = (s.wr R.MGT_I3C_LAST_CMD 2).wr R.PWR_CAP_BOARD_LIMIT_W h →
      w = (if h = b then u else u.reelEvent 0x0B (blkIndex .PWR) 0xFF (leBytes 2 b ++ leBytes 2 h)) →
      exec (.setCap x) s = .next { w with outs := w.outs ++ [.i3c (0 :: leBytes 2 h)] } ∧ u.rd R.PWR_CAP_BOARD_LIMIT_W = h) ∧
    (s.regsWf = true → exec (.powerSample mw) s = .next t →
    l = min (s.rd R.PWR_CAP_HOST_LIMIT_W) (s.rd R.PWR_CAP_BOARD_LIMIT_W) →
    w = (if s.pwr.limit = l then (mw :: s.pwr.samples).take 2000 else [mw]) → n = w.length → sum = w.sum →
    inc = ((s.pwr.cues.filter fun q => decide (s.clock < q.until_)).map fun q => q.incr).sum → a = sum + inc * n →
    k = (if 16 * a ≤ 15 * (1000 * l * n) then s.pwr.under + 1 else 0) →
    t.pwr.samples = w ∧ t.pwr.limit = l ∧ t.pwr.under = k ∧
    (31 * (1000 * l * n) ≤ 32 * a → s.pwr.pos < 18 - s.rd R.PWR_CFG_OPMAX → t.pwr.pos = s.pwr.pos + 1) ∧
    (¬ (31 * (1000 * l * n) ≤ 32 * a ∧ s.pwr.pos < 18 - s.rd R.PWR_CFG_OPMAX) → 20 ≤ k → 0 < s.pwr.pos → t.pwr.pos = s.pwr.pos - 1) ∧
    (¬ (31 * (1000 * l * n) ≤ 32 * a ∧ s.pwr.pos < 18 - s.rd R.PWR_CFG_OPMAX) → (k < 20 ∨ s.pwr.pos = 0) → t.pwr.pos = s.pwr.pos) ∧
    t.cmds = s.cmds ∧ t.msgs = s.msgs ∧ t.arrs = s.arrs ∧ t.cxs = s.cxs)

/-- R361, R363, R371, R372: a sample always ends; a divider change takes the operating point of the position; a ramp goes from 4 edges in 16 by 8 and 12 to
all in steps of 500 ns, and an array idle for 5 µs that no cue names is gated; a queued array begins its ramp at its turn. A cue whose lead has passed
leaves those in force. OPMAX keeps the position within its new ladder. -/
def Obligations.RampsAndCuesGate : Prop :=
  ∀ (s : State) (a : Fin 8) (v : Word) (mw : Nat) (r : RampStage) (st : RampStage),
    (∃ t, exec (.powerSample mw) s = .next t) ∧
    (∀ p, p = (if s.pwr.pos ≤ 15 then s.rd R.PWR_CFG_OPMAX else min 3 (s.rd R.PWR_CFG_OPMAX + (s.pwr.pos - 15))) →
      exec .dividerChange s = .next { s with pwr := { s.pwr with point := p } }) ∧
    (s.live = true → (s.arr a).ramp.stage = r → (r, st) ∈ [(RampStage.edges4, RampStage.edges8), (.edges8, .edges12), (.edges12, .full)] →
      (s.arr a).ramp.since + 500 ≤ s.clock → exec (.rampStep a) s = .next (s.updArr a fun x => { x with ramp := ⟨st, s.clock⟩ }).settle) ∧
    (s.live = true → (s.arr a).ramp.stage = .full → s.streamIdle a = true → s.cued a = false → (s.arr a).ramp.since + 5000 ≤ s.clock →
      exec (.arrayIdle a) s = .next (s.updArr a fun x => { x with ramp := ⟨.gated, s.clock⟩ })) ∧
    (s.live = true → (s.arr a).ramp.stage = .queued → exec (.rampTurn a) s = .next (s.beginRamp a)) ∧
    (∃ t : State, exec .cueLeadEnd s = .next t ∧ t.pwr = { s.pwr with cues := s.pwr.cues.filter fun q => decide (s.clock < q.until_) } ∧
      t.regs = s.regs ∧ t.mem = s.mem ∧ t.cmds = s.cmds) ∧
    (s.regsWf = true → s.takesWrites .PWR R.PWR_CFG_OPMAX.off = true → ∃ t : State, exec (.opmax v) s = .next t ∧
      t.rd R.PWR_CFG_OPMAX = bitsAt v.toNat R.PWR_CFG_OPMAX.lo R.PWR_CFG_OPMAX.wid ∧ t.flag R.PWR_CFG_CUE_EN = v.getLsbD R.PWR_CFG_CUE_EN.lo ∧
      t.pwr.pos ≤ 18 - t.rd R.PWR_CFG_OPMAX ∧ t.mem = s.mem ∧ t.cmds = s.cmds ∧ t.arrs = s.arrs)

-- Observation.

/-- R335, R337, R342, R343: a SNAP copies every programmable counter at once. A run of the clapper fails without a port that is UP, succeeds at
once on a device that is its own master, and else asks its master, BUSY until 64 samples or the 10 ms in which one must come.
REARM starts a recorder again that was stopped or frozen and clears TRIGGERED. An order of the trigger is a trigger of source 4; a trigger
acts where its source is selected and none has been since REARM, and leaves the next number in TRIG_SEQ. -/
def Obligations.CountersClapperAndRushesObey : Prop :=
  ∀ (s : State) (v : Word), s.regsWf = true →
    (s.takesWrites .PMC R.PMC_CTL_SNAP.off = true → v.getLsbD R.PMC_CTL_SNAP.lo = true →
      ∃ t : State, exec (.snap v) s = .next t ∧ t.dbg.snap = t.counters ∧
        t.rd R.PMC_CTL_READ_SNAP = bitsAt v.toNat R.PMC_CTL_READ_SNAP.lo R.PMC_CTL_READ_SNAP.wid ∧
        t.rd R.PMC_CTL_VECTOR = bitsAt v.toNat R.PMC_CTL_VECTOR.lo R.PMC_CTL_VECTOR.wid ∧ t.mem = s.mem ∧ t.cmds = s.cmds ∧
        (∀ i < 128, s.counterOpen i = false → t.rd R.PMC_CNT_VALUE 0 i = s.rd R.PMC_CNT_VALUE 0 i)) ∧
    (s.takesWrites .TSU R.TSU_CLAP_RUN.off = true → v.getLsbD R.TSU_CLAP_RUN.lo = true →
      ∀ u : State, u = s.wr R.TSU_CLAP_MASTER (bitsAt v.toNat R.TSU_CLAP_MASTER.lo R.TSU_CLAP_MASTER.wid) →
      (u.flag R.TSU_CLAP_BUSY = true → exec (.clapperRun v) s = .next u.settle) ∧
      (u.flag R.TSU_CLAP_BUSY = false → (∀ p < 18, u.portState p ≠ 3) → exec (.clapperRun v) s =
        .next ({ (u.wr R.TSU_CLAP_BUSY 0).wr R.TSU_CLAP_FAIL 1 with tsu := { u.tsu with samples := [], asked := 0 } }).settle) ∧
      (u.flag R.TSU_CLAP_BUSY = false → (∃ p < 18, u.portState p = 3) → u.clapMaster = u.dev → exec (.clapperRun v) s =
        .next ({ (u.wr R.TSU_CLAP_BUSY 0).wr R.TSU_CLAP_FAIL 0 with tsu := { u.tsu with samples := [], asked := 0 } }.wr R.TSU_CLAP_DONE 1).settle) ∧
      (u.flag R.TSU_CLAP_BUSY = false → (∃ p < 18, u.portState p = 3) → u.clapMaster ≠ u.dev →
        exec (.clapperRun v) s = .next ((u.wr R.TSU_CLAP_BUSY 1).clapAsk).settle)) ∧
    (s.flag R.TSU_CLAP_BUSY = true → s.tsu.began + 10000000 ≤ s.clock → exec .clapperTimeout s =
      .next { (s.wr R.TSU_CLAP_BUSY 0).wr R.TSU_CLAP_FAIL 1 with tsu := { s.tsu with samples := [], asked := 0 } }) ∧
    (s.takesWrites .DBG R.DBG_RUSH_CTL_EN.off = true → v.getLsbD R.DBG_RUSH_CTL_REARM.lo = true → v.getLsbD R.DBG_RUSH_CTL_EN.lo = true →
      s.flag R.DBG_RUSH_CTL_EN = true →
      ∃ t : State, exec (.rearm v) s = .next t ∧ t.flag R.DBG_RUSH_STAT_TRIGGERED = false ∧ t.dbg.left = none ∧
        t.rd R.DBG_RUSH_STAT_STATE = (if 2 ≤ s.rd R.DBG_RUSH_STAT_STATE then 1 else s.rd R.DBG_RUSH_STAT_STATE) ∧
        t.rd R.DBG_RUSH_CTL_CX_MASK = bitsAt v.toNat R.DBG_RUSH_CTL_CX_MASK.lo R.DBG_RUSH_CTL_CX_MASK.wid ∧
        t.rd R.DBG_RUSH_CTL_MODE = s.rd R.DBG_RUSH_CTL_MODE ∧ t.rd R.DBG_RUSH_CTL_PRE = s.rd R.DBG_RUSH_CTL_PRE ∧
        t.dbg.rush = s.dbg.rush ∧ t.mem = s.mem ∧ t.cmds = s.cmds) ∧
    (s.takesWrites .DBG R.DBG_RUSH_TRIG_SOURCES.off = true → v.getLsbD R.DBG_RUSH_TRIG_NOW.lo = true →
      exec (.triggerNow v) s = .next ((s.puts (hw8 v.toNat)
        [R.DBG_RUSH_TRIG_SOURCES, R.DBG_RUSH_TRIG_CUT_ON_TRIG, R.DBG_RUSH_TRIG_TAG, R.DBG_RUSH_TRIG_TAG_MASK]).trigger 4 0).settle) ∧
    (∀ k c : Nat, (bitAt (s.rd R.DBG_RUSH_TRIG_SOURCES) k = false ∨ s.flag R.DBG_RUSH_STAT_TRIGGERED = true → s.trigger k c = s) ∧
      (bitAt (s.rd R.DBG_RUSH_TRIG_SOURCES) k = true → s.flag R.DBG_RUSH_STAT_TRIGGERED = false → s.flag R.DBG_RUSH_CTL_EN = false →
        s.flag R.DBG_RUSH_TRIG_CUT_ON_TRIG = false →
        s.trigger k c = (s.wr R.DBG_RUSH_STAT_TRIGGERED 1).wr R.DBG_RUSH_POS_TRIG_SEQ (s.rd R.DBG_RUSH_POS_SEQ_NEXT)))

/-- R346, R347, R350: an order to cut with an empty cut set arms a cut 40 ACLK ahead, an order for a time one at that time, or 40 ACLK ahead
and LATE where it is sooner; of two armed cuts the earlier governs. At its time the freeze sets CUT, clears ARMED, writes the CUT record,
raises the vector, triggers source 5, and leaves the device in the cut state, with the registers of the blocks that go on kept for the
image. A read of section 7 shifts the chains: sections 1, 2, 4, 5 and 6 read zero from then on. -/
def Obligations.CutsArmFreezeAndAreRead : Prop :=
  (∀ (s : State) (v : Word) (at_ : Nat),
    s.regsWf = true → s.flag R.DBG_CUT_STAT_CUT = false → s.flag R.DBG_CUT_STAT_ARMED = false → s.dbg.cuts + 1 < 2 ^ 32 → s.now + s.cutLead < 2 ^ 64 →
    (s.takesWrites .DBG R.DBG_CUT_CTL_NOW.off = true → v.getLsbD R.DBG_CUT_CTL_NOW.lo = true → s.cutNowActed = false →
      bitsAt v.toNat R.DBG_CUT_CTL_SET_COUNT.lo R.DBG_CUT_CTL_SET_COUNT.wid = 0 →
      ∃ u : State, exec (.cutNow v) s = .next u.settle ∧ u.flag R.DBG_CUT_STAT_ARMED = true ∧ u.rd R.DBG_CUT_T_T = s.now + s.cutLead ∧
        u.flag R.DBG_CUT_STAT_LATE = false ∧ u.flag R.DBG_CUT_STAT_BY_FRAME = false ∧ u.rd R.DBG_CUT_STAT_ORIGIN = s.dev ∧
        u.rd R.DBG_CUT_STAT_CUT_ID = s.dbg.cuts + 1 ∧ u.dbg.cuts = s.dbg.cuts + 1 ∧ u.mem = s.mem ∧ u.cmds = s.cmds) ∧
    (s.takesWrites .DBG R.DBG_CUT_AT_AT.off = true → at_ = v.toNat → at_ ≠ 0 → s.rd R.DBG_CUT_CTL_SET_COUNT = 0 →
      ∃ u : State, exec (.cutAt v) s = .next u.settle ∧ u.flag R.DBG_CUT_STAT_ARMED = true ∧
        u.rd R.DBG_CUT_T_T = (if at_ < s.now + s.cutLead then s.now + s.cutLead else at_) ∧
        u.flag R.DBG_CUT_STAT_LATE = decide (at_ < s.now + s.cutLead) ∧ u.flag R.DBG_CUT_STAT_BY_FRAME = false ∧
        u.rd R.DBG_CUT_STAT_CUT_ID = s.dbg.cuts + 1 ∧ u.mem = s.mem ∧ u.cmds = s.cmds)) ∧
  (∀ (s : State) (t origin k : Nat) (b l : Bool), s.flag R.DBG_CUT_STAT_ARMED = true → s.rd R.DBG_CUT_T_T ≤ t → s.armCut t origin k b l = s) ∧
  (∀ s a b : State, s.flag R.DBG_CUT_STAT_ARMED = true → s.flag R.DBG_CUT_STAT_CUT = false → s.rd R.DBG_CUT_T_T ≤ s.now → s.recd.stopped = false →
    a = (s.wr R.DBG_CUT_STAT_CUT 1).wr R.DBG_CUT_STAT_ARMED 0 →
    b = a.reelEvent 0x0C (blkIndex .DBG) 0xFF (leBytes 8 (a.rd R.DBG_CUT_T_T) ++ leBytes 2 (a.rd R.DBG_CUT_STAT_ORIGIN) ++
      leBytes 4 (a.rd R.DBG_CUT_STAT_CUT_ID) ++ leBytes 1 (a.rd R.DBG_CUT_STAT_LATE)) →
    (s.rd R.MGT_START_STATE = 2 → exec .cutFreeze s = .next (((b.msix (b.rd R.DBG_CUT_CTL_VECTOR)).trigger 5 0).setStart 4).keepRegs) ∧
    (s.rd R.MGT_START_STATE = 3 → exec .cutFreeze s = .next ((b.msix (b.rd R.DBG_CUT_CTL_VECTOR)).trigger 5 0).keepRegs)) ∧
  (∀ (s : State) (off : Nat), s.rd R.MGT_START_STATE = 4 → s.boot.d3hot = false → s.recd.stopped = false → s.rd R.DBG_IMAGE_SEL_SECTION = 7 →
    s.scanGranted = true →
    ∃ (t : State) (a : Nat) (x : Word), exec (.scanChainRead off) s = .next t ∧ t.outs = s.outs ++ [.readData a x] ∧ t.regs = s.regs ∧ t.mem = s.mem ∧
      t.dbg.rush = s.dbg.rush ∧ (∀ k o, k ∈ [1, 2, 4, 5, 6] → t.sectionWord k o = some 0))

/-- R353, R355, R356, R358: FREEZE set to 1 writes the held repeats and holds events back; set to 0, or standing for 10 s, it lets the queue be
written in order, and one LOST record where events were lost. The held repeats are written a millisecond after the last write. A CLEAR
while frozen waits; else the authorisation in memory is checked: where it is the message of this device, its nonce and its next number,
signed by the owner, the log is erased and RESULT is 1, else a record is written and RESULT is 2; a new nonce stands in either case. -/
def Obligations.TheReelFreezesRepeatsAndClears : Prop :=
  ∀ (s : State) (v : Word) (a : Nat),
    (s.takesWrites .REC R.REC_CTL_FREEZE.off = true →
      (s.flag R.REC_CTL_FREEZE = v.getLsbD R.REC_CTL_FREEZE.lo → exec (.freeze v) s = .next s) ∧
      (s.flag R.REC_CTL_FREEZE = false → v.getLsbD R.REC_CTL_FREEZE.lo = true → ∀ u : State, u = s.flushRepeat →
        exec (.freeze v) s = .next { (u.wr R.REC_CTL_FREEZE 1).wr R.REC_STAT_FROZEN 1 with recd := { u.recd with frozeAt := s.clock } }) ∧
      (s.flag R.REC_CTL_FREEZE = true → v.getLsbD R.REC_CTL_FREEZE.lo = false → s.recd.clearDue = none → s.recd.lost = 0 →
        exec (.freeze v) s = .next (s.recd.queue.foldl State.recWrite
          { (s.wr R.REC_STAT_FROZEN 0).wr R.REC_CTL_FREEZE 0 with recd := { s.recd with queue := [], lost := 0 } }))) ∧
    (s.flag R.REC_CTL_FREEZE = true → s.recd.stopped = false → s.recd.frozeAt + 10000000000 ≤ s.clock →
      exec .freezeExpiry s = .next (s.wr R.REC_STAT_FREEZE_EXPIRED 1).unfreeze) ∧
    (s.recd.held ≠ 0 → s.flag R.REC_CTL_FREEZE = false → s.recd.stopped = false → s.recd.wroteAt + 1000000 ≤ s.clock →
      exec .repeatFlush s = .next s.flushRepeat ∧ (∀ k, s.recd.newest = some k → s.flushRepeat.recd.held = 0 ∧
        bitsAt (s.flushRepeat.reelSlot k).toNat 112 16 ≤ 0xFFFF ∧ (∀ j, j ≠ k → s.canon = true → s.flushRepeat.reelSlot j = s.reelSlot j))) ∧
    (s.takesWrites .REC R.REC_CLEAR_ADDR.off = true → a = 64 * bitsAt v.toNat R.REC_CLEAR_ADDR.lo R.REC_CLEAR_ADDR.wid →
      (s.flag R.REC_CTL_FREEZE = true → exec (.clear v) s = .next { s with recd := { s.recd with clearDue := some a } }) ∧
      (s.flag R.REC_CTL_FREEZE = false → ∀ ok : Bool,
        ok = (s.pread a 48 == s.clearMessage && Config.mldsaVerify (secBytes s.boot.image 5) (s.pread a 48) (s.pread (a + 48) 4627)) →
        ∀ u : State, u = (if ok then s.clearLog.wr R.REC_STAT_CLEAR_RESULT 1
          else (s.reelEvent 0x0E (blkIndex .REC) 0xFF (leBytes 1 1)).wr R.REC_STAT_CLEAR_RESULT 2) →
        exec (.clear v) s = .next ({ u with nonces := u.nonces + 1 }.wr R.REC_NONCE (Config.nonce u.nonces).toNat)))

-- Starts, trust, self-test.

/-- R357, R378, R379, R427: a fall of PWRFAIL_N writes a PWRFAIL record and stops the block, its rise begins a start: nothing but the queue, what has left, the
fuses, the reel store and its mode outlives it, and new nonces stand. P0 reads the fuses and the reel; P1, P2 and P3 go on when their work succeeds,
P4 lets the ports train, P5 and P6 end with the memory mapped and the fabric settled, and P7 leaves the device READY with a START record. -/
def Obligations.StartsRunTheirPhases : Prop :=
  ∀ (s : State) (n : Nat) (im : List Byte) (bad : List Nat) (slow : List (Option Bool)),
    (s.boot.pwrfail = true → ∀ u : State, u = { s with recd := { s.recd with queue := [], lost := 0, clearDue := none } }.flushRepeat →
      ∀ w : State, w = u.recWrite ⟨0x11, blkIndex .REC, 0xFF, [], u.now⟩ →
      exec .pwrfailFall s = .next { w with recd := { w.recd with stopped := true }, boot := { w.boot with pwrfail := false } }) ∧
    (s.boot.pwrfail = false → s.rd R.MGT_START_STATE ≠ 0 → ∃ t : State, exec .pwrfailRise s = .next t ∧ t.pending = s.pending ∧ t.reel = s.reel ∧
      t.boot.fuses = s.boot.fuses ∧ t.boot.pwrfail = true ∧ t.rd R.REC_STAT_MODE = s.rd R.REC_STAT_MODE ∧ t.rd R.REC_STAT_KEEP = s.rd R.REC_STAT_KEEP ∧
      t.rd R.MGT_START_STATE = 0 ∧ t.rd R.MGT_START_PHASE = 0 ∧ t.mem = [] ∧ t.cmds = [] ∧ t.cast = [] ∧ t.clock = 0 ∧
      t.rd R.REC_NONCE = (Config.nonce s.nonces).toNat ∧ t.rd R.MGT_LC_NONCE_NONCE = (Config.nonce (s.nonces + 1)).toNat ∧
      t.outs = s.outs ++ [.ibi 0] ∧ (∀ c < 16, t.cxState c = 0)) ∧
    (s.inPhase 0 = true → ∀ u : State,
      u = (((s.wr R.MGT_LC_STATE (s.fuse 0)).wr R.MGT_LC_SECRET (s.fuse 1)).wr R.MGT_LC_OWNERS (s.fuse 3)).scanReel →
      (s.fuse 0 ≠ 0 → s.fuse 0 ≠ 4 → exec .fuse s = .next (u.wr R.MGT_START_PHASE 1)) ∧
      (s.fuse 0 = 0 ∨ s.fuse 0 = 4 → exec .fuse s = .next (u.setStart 5))) ∧
    (s.inPhase 1 = true → exec (.secTest true) s = .next (s.wr R.MGT_START_PHASE 2) ∧ exec (.secTest false) s = .next (s.enterSafe (blkIndex .SEC) 1)) ∧
    (s.inPhase 2 = true → exec .keys s = .next (s.wr R.MGT_START_PHASE 3)) ∧
    (s.inPhase 3 = true →
      exec .xspiModeTimeout s = .next { s with boot := { s.boot with xspi1s := true } } ∧
      ((s.checkImage (some im)).1 = 0 → exec (.image (some im)) s =
        .next (((((s.checkImage (some im)).2.useImage (im.take (imgLength im))).setFlag R.MGT_START_PUSHED false).setStart 0).wr R.MGT_START_PHASE 4)) ∧
      ((s.checkImage (some im)).1 ≠ 0 → ∀ k : Nat, k = (s.checkImage (some im)).1 → exec (.image (some im)) s =
        .next ((((s.checkImage (some im)).2.wr R.MGT_START_CAUSE k).reelEvent 0x13 (blkIndex .MGT) 0xFF (leBytes 1 k)).setStart 1))) ∧
    (s.inPhase 4 = true →
      exec (.selfTest none) s = .next ((List.range 18).foldl (fun s p => if s.flag R.LK_CTL_EN p then s.train p else s.setPort p 4)
        (s.wr R.MGT_START_PHASE 5)).rollEnd ∧
      (n < 256 → exec (.selfTest (some n)) s = .next (s.enterSafe n 1))) ∧
    (s.inPhase 5 = true ∨ s.inPhase 6 = true →
      (s.boot.memDone = false → bad = [] → slow = List.replicate 32 (some true) → (∀ j < 12, recordValid (s.reelSlot (1 + j)) = false) →
        s.regsWf = true → s.nt.removed = [] → ∃ t : State, exec (.memory bad slow) s = .next t ∧ t.boot.memDone = true ∧ t.rd R.MGT_START_PHASE = 6 ∧
        t.rd R.MGT_POPULATION_NEAR_CH_LIVE = 192 ∧ t.rd R.MGT_POPULATION_NEAR_GIB = 1152 ∧ t.rd R.MGT_POPULATION_SLOW_PKGS = 32 ∧
        t.nt.removed = []) ∧
      (s.boot.fabDone = false → (∀ p < 18, s.portState p ≠ 1 ∧ s.portState p ≠ 2) → s.flag R.TSU_CLAP_BUSY = false →
        s.flag R.TSU_CLAP_DONE = true ∨ s.flag R.TSU_CLAP_FAIL = true →
        exec .fabric s = .next ({ s with boot := { s.boot with fabDone := true } }.wr R.MGT_START_PHASE 6)) ∧
      (s.boot.memDone = true → s.boot.fabDone = true → ∀ u : State, u = s.wr R.MGT_START_PHASE 7 →
        exec .release s = .next (((u.reelEvent 0x01 (blkIndex .MGT) 0xFF (leBytes 1 u.lifeCycle ++ u.boot.measures.take 8 ++
          leBytes 1 (u.rd R.MGT_POPULATION_SLOW_PKGS) ++ leBytes 1 (u.rd R.MGT_POPULATION_NEAR_CH_LIVE) ++
          leBytes 1 (u.rd R.MGT_POPULATION_UD_AVAIL))).setStart 2).afterRelease)))

/-- R370, R387, R390, R392 to R394, R400: GO with an image in scratch runs the checks of P3 in RECOVERY. An attestation is BUSY until its report, of 512 bytes and a
signature, stands in SEC's window; a state without attestation gives RESULT 2. A life-cycle token in memory moves the state, fused and recorded, and begins a
start; a wrong one, or contexts that exist, change the nonce. TAP instructions answer, enter SAFE where they would drive pins, or advance the
part. Overtemperature enters SAFE, and 1 ms after the entry the ports are DOWN, with a SAFE record and its vector. -/
def Obligations.TrustAndSafety : Prop :=
  ∀ (s u : State) (v : Word) (im : List Byte) (a target : Nat),
    (s.rd R.MGT_START_STATE = 1 → s.takesWrites .MGT R.MGT_PUSH_GO.off = true → v.getLsbD R.MGT_PUSH_GO.lo = true →
      im = s.pread scratchBase (min (bitsAt v.toNat R.MGT_PUSH_LEN.lo R.MGT_PUSH_LEN.wid) 0x1000000) →
      u = (s.checkImage (some im)).2 →
      ((s.checkImage (some im)).1 = 0 → exec (.push v) s = .next (((((u.useImage (im.take (imgLength im))).setFlag R.MGT_START_PUSHED true).setStart 0).wr
        R.MGT_START_PHASE 4).act 0)) ∧
      ((s.checkImage (some im)).1 ≠ 0 → exec (.push v) s = .next ((u.recovery (s.checkImage (some im)).1).act 0))) ∧
    (s.takesWrites .SEC R.SEC_ATT_CTL_GO.off = true → v.getLsbD R.SEC_ATT_CTL_GO.lo = true → s.flag R.SEC_ATT_CTL_BUSY = false →
      (s.attests = true → exec (.attestationRequest v) s = .next (s.wr R.SEC_ATT_CTL_BUSY 1)) ∧
      (s.attests = false → exec (.attestationRequest v) s = .next (s.wr R.SEC_ATT_CTL_RESULT 2))) ∧
    (s.flag R.SEC_ATT_CTL_BUSY = true → s.recd.stopped = false → s.flag R.DBG_CUT_STAT_CUT = false →
      exec .attestationReport s = .next (({ s with boot := { s.boot with report :=
        s.reportBody ++ (Config.mldsaSign s.reportBody ++ List.replicate 4627 0).take 4627 } }.wr R.SEC_ATT_CTL_BUSY 0).wr R.SEC_ATT_CTL_RESULT 0)) ∧
    (s.takesWrites .MGT R.MGT_LC_TOKEN_ADDR.off = true → a = 64 * bitsAt v.toNat R.MGT_LC_TOKEN_ADDR.lo R.MGT_LC_TOKEN_ADDR.wid →
      target = leNat (((s.pread a 48).drop 32).take 1) → ∀ good : Bool,
      good = (s.pread a 48 == s.lcMessage target && lcNext s.lifeCycle target &&
        (s.lifeCycle == 3 || Config.mldsaVerify Config.lifecycleKey (s.pread a 48) (s.pread (a + 48) 4627))) →
      ((∀ c < 16, s.cxState c = 0) → good = true → exec (.lcToken v) s = .next (((s.act 0).wr R.MGT_LC_RESULT 1).lcMove target)) ∧
      ((∀ c < 16, s.cxState c = 0) → good = false → exec (.lcToken v) s =
        .next (({ s.act 0 with nonces := s.nonces + 1 }.wr R.MGT_LC_NONCE_NONCE (Config.nonce s.nonces).toNat).wr R.MGT_LC_RESULT 2)) ∧
      ((∃ c < 16, s.cxState c ≠ 0) → exec (.lcToken v) s =
        .next (({ s.act 0 with nonces := s.nonces + 1 }.wr R.MGT_LC_NONCE_NONCE (Config.nonce s.nonces).toNat).wr R.MGT_LC_RESULT 3))) ∧
    (exec (.tapInstruction .idcode) s = .next { s with outs := s.outs ++ [.tap 0x0089634B] } ∧ exec (.tapInstruction .bypass) s = .next s ∧
      exec (.tapInstruction .sample) s = .next s ∧
      (s.rd R.MGT_START_STATE = 2 → exec (.tapInstruction .extest) s = .next (s.enterSafe 0 2) ∧ exec (.tapInstruction .mgtDebug) s = .next (s.enterSafe 0 2)) ∧
      (s.rd R.MGT_START_STATE ≠ 2 → exec (.tapInstruction .extest) s = .next s) ∧
      (s.rd R.MGT_START_STATE ≠ 2 → (s.lifeCycle = 1 ∨ s.lifeCycle = 3) →
        exec (.tapInstruction .privateScan) s = .next { s with boot := { s.boot with report := [], secOff := true } }) ∧
      (s.fuse 0 = 0 → exec (.tapInstruction .advanceToMaker) s = .next ((s.setFuse 0 1).setFuse 1 1))) ∧
    (exec .junctionOvertemp s = .next (s.enterSafe 0 2)) ∧
    (s.rd R.MGT_START_STATE < 3 → s.flag R.DBG_CUT_STAT_CUT = false → s.recd.stopped = false →
      ∀ n k : Nat, u = { (List.range 16).foldl (fun (s : State) c => s.faultCx c { code := 0x0A }) s with slice := {} }.setFlag R.BST_STAT_ACTIVE false →
      ∀ w : State, w = (u.wr R.MGT_START_SAFE_UNIT n).setStart 3 →
      s.enterSafe n k = ({ w with boot := { w.boot with safeAt := some w.clock, safeTest := k } }.act 0).settle) ∧
    (s.rd R.MGT_START_STATE = 3 → s.portsLive = true → ∀ t : Nat, s.boot.safeAt = some t → t + 1000000 ≤ s.clock → ∀ w x : State,
      w = (List.range 18).foldl (fun (s : State) p => if s.portState p = 4 then s else s.portDown p false) s → x = { w with txWait := [], boot := { w.boot with safeAt := none } } →
      ∃ y, y = x.reelEvent 0x12 (blkIndex .MGT) 0xFF (leBytes 1 (x.rd R.MGT_START_SAFE_UNIT) ++ leBytes 1 x.boot.safeTest) ∧
        exec .safePortShutdown s = .next (y.msix (y.rd R.MGT_START_SAFE_VECTOR)))

/-- R395 to R398: a slice falls due once its gap has passed, with a valid save area, and a round begins with the slices of every unit; at the unit's
quiet point its tests run, and without one for 10 ms the slice goes to the end of its round. A slice that passes is done, the unit returns and
the last one counts the round; one that fails enters SAFE with the unit. -/
def Obligations.SlicesTestEveryUnit : Prop :=
  ∀ (s : State) (k : Nat) (rest : List Nat), s.live = true →
    (s.flag R.BST_CFG_EN = true → s.saveOk = true → s.slice.phase = 0 → s.gapOver = true → s.slice.todo = k :: rest →
      exec .sliceDue s = .next ({ s with slice := { s.slice with phase := 1, since := s.clock } }.wr R.BST_STAT_UNIT (sliceUnit k).1)) ∧
    (s.flag R.BST_CFG_EN = true → s.saveOk = true → s.slice.phase = 0 → s.gapOver = true → s.slice.todo = [] → s.roundDue = true →
      exec .sliceDue s = .next (({ s with slice := { s.slice with todo := List.range sliceCount, began := some s.clock, phase := 1, since := s.clock } }.wr
        R.BST_STAT_LEFT sliceCount).wr R.BST_STAT_UNIT (sliceUnit 0).1)) ∧
    (s.slice.todo = k :: rest → s.slice.phase = 1 → s.quietAt (sliceUnit k).1 (sliceUnit k).2 = true → (sliceUnit k).1 ≠ 7 →
      exec .quietPoint s = .next ({ s with slice := { s.slice with phase := 2, since := s.clock } }.wr R.BST_STAT_ACTIVE 1)) ∧
    (s.slice.todo = k :: rest → s.slice.phase = 1 → s.slice.since + 10000000 ≤ s.clock →
      exec .quietTimeout s = .next { s with slice := { s.slice with phase := 0, todo := rest ++ [k] } }) ∧
    (s.slice.todo = k :: rest → s.slice.phase = 2 → rest ≠ [] →
      exec (.sliceEnd true) s = .next (({ s with slice := { s.slice with phase := 0, todo := rest, ended := s.clock } }.wr R.BST_STAT_ACTIVE 0).wr
        R.BST_STAT_LEFT rest.length).settle) ∧
    (s.slice.todo = [k] → s.slice.phase = 2 →
      exec (.sliceEnd true) s = .next ((({ s with slice := { s.slice with phase := 0, todo := [], ended := s.clock } }.wr R.BST_STAT_ACTIVE 0).wr
        R.BST_STAT_LEFT 0).bump R.BST_STAT_ROUNDS).settle) ∧
    (s.slice.phase = 2 → exec (.sliceEnd false) s = .next (s.enterSafe (s.rd R.BST_STAT_UNIT) 1))

-- Checkpoints.

/-- R309, R310, R315, R317 to R319, R321: EN from 0 to 1 reads the checkpoint list: a failing entry refuses it with its
number, a list that passes starts the engine. The snapshot instant comes when every processor stands at the gate and the
generation before is sealed: GEN counts, the schedule record stands in the slot of its generation, and the gate's semaphore
takes the new generation. A member without a parity group seals its generation when its obligations are met; a zeroed slot
runs the ready barrier. R324 to R326: an operation reads its operand block, is ignored while one is running, and leaves its
result. EXPORT writes the map of the sealed generation; SEND_STRIPES is BUSY until the stripes of the image have gone;
RESTORE checks the CRC, the generation, the position, the seed and the bindings of a record, and then restores memory,
semaphores, processors, S and its run, the marks and PIM, with GEN and SEALED that of the record. -/
def Obligations.CheckpointsAreTakenAndUsed : Prop :=
  (∀ (s : State) (c : Fin 16) (v : Word) (u : State),
     (s.takesWrites .CX R.CX_CKPT_CTL_EN.off = true → s.flag R.CX_CKPT_CTL_EN c = false → v.getLsbD R.CX_CKPT_CTL_EN.lo = true →
       s.regsWf = true → s.cxLive c = true →
       u = s.puts (hw8 v.toNat) [R.CX_CKPT_CTL_GATE_SEM, R.CX_CKPT_CTL_LIST_COUNT, R.CX_CKPT_CTL_BIND_COUNT, R.CX_CKPT_CTL_VCOUNT] c →
       (∀ i : Nat, u.readList c (List.range (u.rd R.CX_CKPT_CTL_LIST_COUNT c)) [] = .error i →
         exec (.checkpointEnable c v) s = .next ((u.wr R.CX_CKPT_OPSTAT_LIST_ERR 1 c).wr R.CX_CKPT_OPSTAT_ERR_ENTRY i c).settle) ∧
       (∀ rs, u.readList c (List.range (u.rd R.CX_CKPT_CTL_LIST_COUNT c)) [] = .ok rs → u.gateSemBad c = false →
         (∀ r ∈ rs, r.2.2 = false) → exec (.checkpointEnable c v) s = .next (u.ckptStart c rs none).settle) ∧
       (∀ rs, u.readList c (List.range (u.rd R.CX_CKPT_CTL_LIST_COUNT c)) [] = .ok rs → u.gateSemBad c = true →
         exec (.checkpointEnable c v) s = .next ((u.wr R.CX_CKPT_OPSTAT_LIST_ERR 1 c).wr R.CX_CKPT_OPSTAT_ERR_ENTRY 0xFFF c).settle)) ∧
     (s.gateOpen c = true → ∀ (g : Nat) (body : List Byte) (fail : Bool) (img : List (Option Nat)),
       g = s.rd R.CX_CKPT_STAT_GEN c + 1 → s.recordBody c g = .ok (body, fail) → s.imageNow c = .ok img →
       exec (.snapshotInstant c) s = .next (s.snapshotTaken c (body.take 4 ++ leBytes 4 (crc32c body) ++ body.drop 8) fail img).settle ∧
       (g < 2 ^ 32 → s.regsWf = true → s.cxState c = 3 →
         ∀ t : State, t = s.snapshotTaken c (body.take 4 ++ leBytes 4 (crc32c body) ++ body.drop 8) fail img →
         t.rd R.CX_CKPT_STAT_GEN c = g ∧ t.sem c (s.rd R.CX_CKPT_CTL_GATE_SEM c) = g ∧ t.flag R.CX_CKPT_OPSTAT_BIND_FAIL c = fail ∧
         t.rd R.CX_CKPT_STAT_SEALED c = s.rd R.CX_CKPT_STAT_SEALED c)) ∧
     (s.live = true → s.cxLive c = true → s.locallyDone c = true → (s.cx c).ckpt.group = [] →
       exec (.locallyComplete c) s = .next ((s.sealed c).updCx c fun x => { x with ckpt := { x.ckpt with readyOk := true } }).settle) ∧
     (s.live = true → s.cxLive c = true → s.locallyDone c = true → (s.cx c).ckpt.group ≠ [] →
       exec (.locallyComplete c) s = .next (s.ckptBarrier c false).settle) ∧
     (s.live = true → s.cxLive c = true → (s.cx c).ckpt.sealing = 2 →
       exec (.slotZeroed c) s = .next (s.readySlots c [(s.rd R.CX_CKPT_STAT_GEN c + 1) % 2]).settle)) ∧
  (∀ (s : State) (c : Fin 16) (v : Word) (a b : Nat) (op : Nat),
     s.takesWrites .CX R.CX_CKPT_OP_OP.off = true → op = bitsAt v.toNat R.CX_CKPT_OP_OP.lo R.CX_CKPT_OP_OP.wid →
     a = 64 * bitsAt v.toNat R.CX_CKPT_OP_ADDR.lo R.CX_CKPT_OP_ADDR.wid →
     (s.flag R.CX_CKPT_OPSTAT_BUSY c = true → (op = 1 → exec (.ckptExport c v) s = .next s) ∧ (op = 2 → exec (.sendStripes c v) s = .next s) ∧
       (op = 3 → exec (.restore c v) s = .next s)) ∧
     (s.flag R.CX_CKPT_OPSTAT_BUSY c = false → s.vreadNat c a 64 = .ok b →
       (op = 1 → s.cxState c ≠ 0 → bitsAt b 32 96 = 0 → bitsAt b 176 336 = 0 → bitsAt b 0 32 = s.rd R.CX_CKPT_STAT_SEALED c → bitsAt b 0 32 ≠ 0 →
         ∀ (img : List (Option Nat)) (ps : List Nat) (t : State), img = (s.cx c).ckpt.snap (bitsAt b 0 32) → ps = (s.cx c).ckpt.pages true →
         s.vwrite c (bitsAt b 128 48) (((List.range img.length).zip img).flatMap fun q => leBytes 8 (nth 0 ps q.1) ++ leBytes 8 (q.2.getD 0)) = .ok t →
         exec (.ckptExport c v) s = .next (t.wr R.CX_CKPT_OPSTAT_RESULT 0 c).settle) ∧
       (op = 2 → (s.cxState c = 1 ∨ s.cxState c = 3) → s.flag R.CX_CKPT_CTL_EN c = true → bitsAt b 0 32 = 0 → bitsAt b 49 463 = 0 →
         bitsAt b 32 16 < (s.cx c).ckpt.group.length → ∀ (img : List (Option Nat)) (out : List CkSend), s.imageNow c = .ok img →
         out = s.imageSends c (bitsAt b 48 1) img (fun h => h != (s.cx c).ckpt.rank && h != bitsAt b 32 16) →
         (out ≠ [] → exec (.sendStripes c v) s = .next ((((s.wr R.CX_CKPT_OPSTAT_BUSY 1 c).updCx c fun x =>
           { x with ckpt := { x.ckpt with sends := x.ckpt.sends ++ out, sendOp := true } }).kickSends c).settle)) ∧
         (out = [] → exec (.sendStripes c v) s = .next (s.wr R.CX_CKPT_OPSTAT_RESULT 0 c).settle)) ∧
       (op = 3 → s.cxState c = 1 → (s.cx c).resident = false → s.flag R.CX_CKPT_CTL_EN c = true → bitsAt b 32 32 = 0 → bitsAt b 176 336 = 0 →
         ∀ (h n : Nat) (r : List Byte) (bs : List (Nat × Nat × Nat)), s.vreadNat c (bitsAt b 128 48) 256 = .ok h → recordBytes h = some n →
         s.vread c (bitsAt b 128 48) n = .ok r → s.bindings c = .ok bs →
         (crc32c (r.take 4 ++ leBytes 4 0 ++ r.drop 8) ≠ recNat r 4 4 ∨ recNat r 0 4 ≠ bitsAt b 0 32 →
           exec (.restore c v) s = .next (s.wr R.CX_CKPT_OPSTAT_RESULT 3 c).settle) ∧
         (crc32c (r.take 4 ++ leBytes 4 0 ++ r.drop 8) = recNat r 4 4 → recNat r 0 4 = bitsAt b 0 32 →
           (s.mismatch c (bitsAt b 64 64) r bs = true → exec (.restore c v) s = .next (s.wr R.CX_CKPT_OPSTAT_RESULT 2 c).settle) ∧
           (s.mismatch c (bitsAt b 64 64) r bs = false → ∀ t : State, s.restoreMemory c (bitsAt b 64 64) r bs = .ok t →
             exec (.restore c v) s = .next (t.restoreActs c (bitsAt b 0 32) r).settle)))) ∧
     (s.flag R.CX_CKPT_OPSTAT_BUSY c = false → s.cxState c = 0 → s.vreadNat c a 64 = .ok b →
       (op = 1 → exec (.ckptExport c v) s = .next (s.wr R.CX_CKPT_OPSTAT_RESULT 4 c).settle) ∧
       (op = 2 → exec (.sendStripes c v) s = .next (s.wr R.CX_CKPT_OPSTAT_RESULT 4 c).settle) ∧
       (op = 3 → exec (.restore c v) s = .next (s.wr R.CX_CKPT_OPSTAT_RESULT 4 c).settle)))

-- The host port.

/-- R407, R408, R418: a TAIL within the ring's size of the TAIL before it and of HEAD is taken, any other sets BAD_TAIL. EN from 0 to 1 takes the ring's
fields and zeroes the counts and what stopped the queue. The descriptor at HEAD moves its bytes one way or the other and HEAD counts, with its vector where it asks for one;
one with reserved bits set, no bytes, or a range that does not exist stops the queue with CAUSE 1, an error of the host with CAUSE 3. -/
def Obligations.DmaMovesBytes : Prop :=
  ∀ (s : State) (v : Word) (size head tail nt d dev n : Nat) (bs : List Byte) (pass : State → State) (stop : Nat → State → State) (r : HostReply),
    s.regsWf = true → size = s.dmaSize → head = s.rd R.PX_DMA_PTRS_HEAD → tail = s.rd R.PX_DMA_PTRS_TAIL → nt = bitsAt v.toNat R.PX_DMA_PTRS_TAIL.lo 32 →
    (s.takesWrites .PX R.PX_DMA_PTRS_TAIL.off = true → s.flag R.PX_DMA_RING_EN = true →
      ((2 ^ 32 + nt - tail) % 2 ^ 32 ≤ size → (2 ^ 32 + nt - head) % 2 ^ 32 ≤ size → exec (.dmaTail v) s = .next (s.wr R.PX_DMA_PTRS_TAIL nt)) ∧
      (size < (2 ^ 32 + nt - tail) % 2 ^ 32 ∨ size < (2 ^ 32 + nt - head) % 2 ^ 32 → exec (.dmaTail v) s = .next (s.wr R.PX_DMA_STAT_BAD_TAIL 1))) ∧
    (s.takesWrites .PX R.PX_DMA_RING_EN.off = true → s.flag R.PX_DMA_RING_EN = false → v.getLsbD R.PX_DMA_RING_EN.lo = true →
      ∃ t : State, exec (.dmaEnable v) s = .next t ∧ t.flag R.PX_DMA_RING_EN = true ∧ t.rd R.PX_DMA_PTRS_HEAD = 0 ∧ t.rd R.PX_DMA_PTRS_TAIL = 0 ∧
        t.flag R.PX_DMA_STAT_ERR = false ∧ t.rd R.PX_DMA_STAT_CAUSE = 0 ∧ t.rd R.PX_DMA_STAT_ERR_INDEX = 0 ∧
        t.rd R.PX_DMA_RING_BASE = bitsAt v.toNat R.PX_DMA_RING_BASE.lo R.PX_DMA_RING_BASE.wid ∧
        t.rd R.PX_DMA_RING_VECTOR = bitsAt v.toNat R.PX_DMA_RING_VECTOR.lo R.PX_DMA_RING_VECTOR.wid ∧
        t.flag R.PX_DMA_STAT_BAD_TAIL = s.flag R.PX_DMA_STAT_BAD_TAIL ∧ t.mem = s.mem) ∧
    (pass = (fun u => if bitAt d 113 then (u.wr R.PX_DMA_PTRS_HEAD (u.rd R.PX_DMA_PTRS_HEAD + 1)).msix
        ((u.wr R.PX_DMA_PTRS_HEAD (u.rd R.PX_DMA_PTRS_HEAD + 1)).rd R.PX_DMA_RING_VECTOR)
      else u.wr R.PX_DMA_PTRS_HEAD (u.rd R.PX_DMA_PTRS_HEAD + 1)) →
      stop = (fun k u => ((u.wr R.PX_DMA_STAT_ERR 1).wr R.PX_DMA_STAT_CAUSE k).wr R.PX_DMA_STAT_ERR_INDEX
        (((u.wr R.PX_DMA_STAT_ERR 1)).rd R.PX_DMA_PTRS_HEAD)) →
      s.dmaBusy = true → s.rd R.MGT_START_STATE = 2 → s.flag R.DBG_CUT_STAT_CUT = false → s.recd.stopped = false →
      s.inNear (s.rdAddr R.PX_DMA_RING_BASE + 32 * (head % size)) 32 = true → s.badIn (s.rdAddr R.PX_DMA_RING_BASE + 32 * (head % size)) 32 = none →
      d = s.preadNat (s.rdAddr R.PX_DMA_RING_BASE + 32 * (head % size)) 32 → dev = bitsAt d 64 48 → n = bitsAt d 128 40 →
      (bitsAt d 114 14 ≠ 0 ∨ bitsAt d 168 88 ≠ 0 ∨ n = 0 ∨ s.dmaRange dev n = false → exec (.dmaDescriptor r) s = .next (stop 1 s)) ∧
      (bitsAt d 114 14 = 0 → bitsAt d 168 88 = 0 → n ≠ 0 → s.dmaRange dev n = true →
        (bitAt d 112 = false → s.badIn dev n = none →
          exec (.dmaDescriptor r) s = .next (pass { s with outs := s.outs ++ [.hostWrite (bitsAt d 0 64) (s.pread dev n)] })) ∧
        (bitAt d 112 = true → bs.length = n → s.badMerge dev n = none → exec (.dmaDescriptor (.ok bs)) s = .next (pass (s.pwrite dev bs))) ∧
        (bitAt d 112 = true → bs.length ≤ n → s.badMerge dev bs.length = none →
          exec (.dmaDescriptor (.error bs)) s = .next (stop 3 (s.pwrite dev bs)))))

/-- R380, R406, R409 to R411: BAR4 reads and writes the near tier from WIN_BASE: bytes beyond it read zero and are not written, and an uncorrectable block
aborts a read and drops the bytes of a write that covers it in part. A configuration request is retried while STARTING. An unmask sends the message of a pending
vector and clears it. In D3hot the function takes no writes; a return to D0 sends what is pending. A function-level reset destroys every
context and returns the queues, the window, the vectors and the power settings to reset. -/
def Obligations.TheHostFunctionAnswers : Prop :=
  ∀ (s : State) (off n a m : Nat) (bs : List Byte) (k : ConfigKind) (i : Fin 2048) (v : Word),
    (s.answers = true → s.rd R.MGT_START_STATE = 2 → a = s.rdAddr R.PX_BAR4_WIN_BASE + off → m = min n (s.nearBytes - a) →
      (off + n ≤ 0x1000000000 →
        (s.badIn a m = none → exec (.bar4Read off n) s = .next { s with outs := s.outs ++ [.bar4Data (s.pread a m ++ List.replicate (n - m) 0)] }) ∧
        (∀ b, s.badIn a m = some b → exec (.bar4Read off n) s = .next ((s.uncorrEvent b none true).emit .bar4Abort))) ∧
      (off + bs.length ≤ 0x1000000000 → s.flag R.DBG_CUT_STAT_CUT = false → n = bs.length →
        (s.badMerge a m = none → exec (.bar4Write off bs) s = .next (s.pwrite a (bs.take m))) ∧
        (∀ b, s.badMerge a m = some b → exec (.bar4Write off bs) s = .next ((s.pwrite a (bs.take m)).uncorrEvent b none true)))) ∧
    (s.recd.stopped = false → exec (.configRequest k) s = .next { s with outs := s.outs ++ [.config (s.rd R.MGT_START_STATE != 0)] }) ∧
    (s.takesWrites .MSIX (8 + 16 * i.val) = true → s.canon = true → s.flag R.MSIX_CTRL_MASK 0 i = true → s.vectorPending i = true →
      v.getLsbD R.MSIX_CTRL_MASK.lo = false →
      ∃ t : State, exec (.vectorUnmask i v) s = .next t ∧ t.outs = s.outs ++ [.msix i] ∧ t.vectorPending i = false ∧
        t.flag R.MSIX_CTRL_MASK 0 i = false ∧ t.rd R.MSIX_CTRL_DATA 0 i = bitsAt v.toNat R.MSIX_CTRL_DATA.lo R.MSIX_CTRL_DATA.wid ∧
        (∀ j : Fin 2048, j ≠ i → t.vectorPending j = s.vectorPending j) ∧ t.mem = s.mem) ∧
    (s.rd R.MGT_START_STATE ≠ 0 → s.recd.stopped = false →
      (∃ t : State, exec (.d3hot true) s = .next t ∧ t = { s with boot := { s.boot with d3hot := true } } ∧ (∀ b o, t.takesWrites b o = false) ∧
        t.answers = false) ∧
      exec (.d3hot false) s = .next ((List.range 2048).foldl State.sendPending { s with boot := { s.boot with d3hot := false } }) ∧
      exec .functionLevelReset s = .next (s.flrEffects.act 0).settle)

-- The board controller.

/-- R412 to R414: the device takes a dynamic address by ENTDAA with its provisional ID once P0 has ended. A command at that address is noted and
answered with a status byte: its state, its limit, its identity, a slot of the reel; SET_CAP sets the board's limit, CUT arms a cut,
ENTER_SAFE with its argument enters SAFE and RESTART with its argument begins a start, and with another argument they are refused. -/
def Obligations.TheBoardControllerCommands : Prop :=
  ∀ (s u : State) (addr : BitVec 7) (x : BitVec 16) (out : State → List Byte → State),
    s.i3cUp = true → out = (fun t bs => { t with outs := t.outs ++ [.i3c bs] }) →
    exec (.entdaa addr) s = .next (((out s (leBytes 6 s.provisionalId)).wr R.MGT_I3C_DYN_ADDR addr.toNat).wr R.MGT_I3C_ASSIGNED 1) ∧
    (s.flag R.MGT_I3C_ASSIGNED = true → ∀ at_ : Nat → State, at_ = (fun k => s.wr R.MGT_I3C_LAST_CMD k) →
      exec .readStatus s = .next (out (at_ 1) (0 :: (leBytes 4 ((at_ 1).word R.MGT_START_STATE.addr).toNat ++ leBytes 1 ((at_ 1).rd R.MGT_LC_STATE) ++
        leBytes 1 ((at_ 1).rd R.MGT_POPULATION_UD_AVAIL + 2 * (at_ 1).rd R.MGT_SEAT_SEATED + 4 * (at_ 1).rd R.DBG_CUT_STAT_CUT) ++
        leBytes 2 (at_ 1).dev))) ∧
      (1500 ≤ x.toNat → x.toNat ≤ 3300 → s.regsWf = true → exec (.setCap x) s = .next (out ((at_ 2).wr R.PWR_CAP_BOARD_LIMIT_W x.toNat) (0 :: leBytes 2 x.toNat))) ∧
      exec .readId s = .next (out (at_ 3) (0 :: (deviceId ++ leBytes 2 ((at_ 3).word R.MGT_DEVICE_ID_PART.addr).toNat))) ∧
      (s.regsWf = true → s.rd R.MGT_START_STATE = 2 → s.flag R.DBG_CUT_STAT_CUT = false → s.cutNowActed = false →
        exec .i3cCut s = .next (out ((at_ 4).orderCut.act 1) [0]).settle) ∧
      (s.regsWf = true → s.rd R.MGT_START_STATE ≠ 2 → s.rd R.MGT_START_STATE ≠ 3 → exec .i3cCut s = .next (out (at_ 4) [2])) ∧
      (x = 0x5AFE → s.regsWf = true → s.rd R.MGT_START_STATE < 3 → u = (at_ 5).enterSafe 0 2 → u.rd R.MGT_START_STATE = 3 →
        exec (.enterSafe x) s = .next (out u [0])) ∧
      (x ≠ 0x5AFE → exec (.enterSafe x) s = .next (out (at_ 5) [2])) ∧
      (x = 0x57A7 → exec (.restart x) s = .next (out (at_ 6) [0]).beginStart) ∧ (x ≠ 0x57A7 → exec (.restart x) s = .next (out (at_ 6) [2])) ∧
      exec (.readReel x) s = .next (out (at_ 7) (0 :: leBytes 64 ((at_ 7).reelSlot x.toNat).toNat)))
end

