-- ==== Sys2Proof/Laws/Bits.lean ====
section
/-! SUPPORT. Laws of bit fields and of association lists in canonical form. -/

namespace Sys2Proof.Machine

/-- A bit field is below the bound of its width. -/
theorem bitsAt_lt (w lo n : Nat) : bitsAt w lo n < 2 ^ n := Nat.mod_lt _ (Nat.two_pow_pos n)

/-- Bits of a field. -/
theorem bitsAt_testBit (w lo n j : Nat) : (bitsAt w lo n).testBit j = (decide (j < n) && w.testBit (lo + j)) := by
  simp [bitsAt, Nat.testBit_mod_two_pow, Nat.testBit_shiftRight]

/-- A field of which no bit is set is zero. -/
theorem bitsAt_zero (lo n : Nat) : bitsAt 0 lo n = 0 := by simp [bitsAt]

variable {β : Type}

/-- The canonical form holds from a lower key as well. -/
theorem smWfFrom_mono [DecidableEq β] {d : Nat → β} {a b : Nat} {m : List (Nat × β)} (h : smWfFrom d b m = true) (hab : a ≤ b) :
    smWfFrom d a m = true := by
  cases m with
  | nil => rfl
  | cons c t =>
    simp only [smWfFrom, Bool.and_eq_true, decide_eq_true_eq] at h ⊢
    exact ⟨⟨Nat.le_trans hab h.1.1, h.1.2⟩, h.2⟩

/-- A canonical list from `lo` lists no key below `lo`. -/
theorem smGet_below [DecidableEq β] {d : Nat → β} {lo k : Nat} {m : List (Nat × β)} (h : smWfFrom d lo m = true) (hk : k < lo) :
    smGet d m k = d k := by
  cases m with
  | nil => rfl
  | cons c t =>
    obtain ⟨k', v⟩ := c
    simp only [smWfFrom, Bool.and_eq_true, decide_eq_true_eq] at h
    have : k < k' := by omega
    simp [smGet, Nat.ne_of_lt this, this]

/-- Reading a key just written gives what was written. -/
theorem smGet_smPut_same [DecidableEq β] {d : Nat → β} {lo : Nat} {m : List (Nat × β)} (h : smWfFrom d lo m = true) (k : Nat)
    (v : β) : smGet d (smPut d m k v) k = v := by
  induction m generalizing lo with
  | nil =>
    unfold smPut
    split <;> simp_all [smGet]
  | cons c t ih =>
    obtain ⟨k', v'⟩ := c
    simp only [smWfFrom, Bool.and_eq_true, decide_eq_true_eq] at h
    simp only [smPut]
    split
    · rename_i hlt
      split
      · next hv => simp [smGet, Nat.ne_of_lt hlt, hlt, hv]
      · simp [smGet]
    · split
      · next he =>
        subst he
        split
        · next hv => rw [smGet_below h.2 (Nat.lt_succ_self k), hv]
        · simp [smGet]
      · next hne hne' =>
        have : ¬ k < k' := hne
        simp [smGet, hne', this, ih h.2]

/-- Writing a key leaves every other key as it was. -/
theorem smGet_smPut_ne [DecidableEq β] {d : Nat → β} {lo : Nat} {m : List (Nat × β)} (h : smWfFrom d lo m = true) {k j : Nat}
    (v : β) (hj : j ≠ k) : smGet d (smPut d m k v) j = smGet d m j := by
  induction m generalizing lo with
  | nil =>
    unfold smPut
    split
    · rfl
    · simp [smGet, hj]
  | cons c t ih =>
    obtain ⟨k', v'⟩ := c
    simp only [smWfFrom, Bool.and_eq_true, decide_eq_true_eq] at h
    simp only [smPut]
    split
    · rename_i hlt
      split
      · rfl
      · simp only [smGet, if_neg hj]
        by_cases hjk : j < k
        · have h1 : j ≠ k' := by omega
          have h2 : j < k' := by omega
          simp [hjk, h1, h2]
        · simp [hjk]
    · split
      · next he =>
        subst he
        split
        · simp only [smGet, if_neg hj]
          split
          · next hlt => exact smGet_below h.2 (by omega)
          · rfl
        · simp [smGet, hj]
      · simp only [smGet]
        rw [ih h.2]

/-- Writing a key keeps the canonical form. -/
theorem smWfFrom_smPut [DecidableEq β] {d : Nat → β} {lo : Nat} {m : List (Nat × β)} (h : smWfFrom d lo m = true) {k : Nat} (v : β)
    (hk : lo ≤ k) : smWfFrom d lo (smPut d m k v) = true := by
  induction m generalizing lo with
  | nil =>
    unfold smPut
    split <;> simp_all [smWfFrom]
  | cons c t ih =>
    obtain ⟨k', v'⟩ := c
    simp only [smWfFrom, Bool.and_eq_true, decide_eq_true_eq] at h
    simp only [smPut]
    split
    · rename_i hlt
      split
      · simp [smWfFrom, h]
      · next hv =>
        have : k + 1 ≤ k' := hlt
        simp_all [smWfFrom]
    · split
      · next he =>
        subst he
        split
        · exact smWfFrom_mono h.2 (by omega)
        · next hv => simp_all [smWfFrom]
      · next h1 h2 =>
        have : k' + 1 ≤ k := by omega
        simp [smWfFrom, h, ih h.2 this]

/-- Writing a key keeps the canonical form. -/
theorem smWf_smPut [DecidableEq β] {d : Nat → β} {m : List (Nat × β)} (h : smWf d m = true) (k : Nat) (v : β) :
    smWf d (smPut d m k v) = true := smWfFrom_smPut h v (Nat.zero_le k)

/-- Dropping cells keeps the canonical form. -/
theorem smWfFrom_filter [DecidableEq β] {d : Nat → β} {lo : Nat} {m : List (Nat × β)} (h : smWfFrom d lo m = true)
    (p : Nat × β → Bool) : smWfFrom d lo (m.filter p) = true := by
  induction m generalizing lo with
  | nil => rfl
  | cons c t ih =>
    obtain ⟨k, v⟩ := c
    simp only [smWfFrom, Bool.and_eq_true, decide_eq_true_eq] at h
    simp only [List.filter_cons]
    split
    · simp [smWfFrom, h, ih h.2]
    · exact smWfFrom_mono (ih h.2) (by omega)

/-- The values that stay after dropping cells by their keys. -/
theorem smGet_filter [DecidableEq β] {d : Nat → β} {lo : Nat} {m : List (Nat × β)} (h : smWfFrom d lo m = true) (p : Nat → Bool)
    (k : Nat) : smGet d (m.filter fun c => p c.1) k = if p k then smGet d m k else d k := by
  induction m generalizing lo with
  | nil => simp [smGet]
  | cons c t ih =>
    obtain ⟨k', v⟩ := c
    simp only [smWfFrom, Bool.and_eq_true, decide_eq_true_eq] at h
    simp only [List.filter_cons]
    by_cases hkk : k = k'
    · subst hkk
      by_cases hp : p k = true
      · simp [hp, smGet]
      · simp only [hp, Bool.false_eq_true, if_false]
        rw [ih h.2]
        simp [hp]
    · by_cases hlt : k < k'
      · have ht : smGet d t k = d k := smGet_below h.2 (by omega)
        by_cases hp' : p k' = true
        · simp [hp', smGet, hkk, hlt]
        · simp only [hp', Bool.false_eq_true, if_false]
          rw [ih h.2]
          simp [ht, smGet, hkk, hlt]
      · by_cases hp' : p k' = true
        · simp [hp', smGet, hkk, hlt, ih h.2]
        · simp [hp', smGet, hkk, hlt, ih h.2]

/-- Two canonical lists, the second above every key of the first, join into a canonical list. -/
theorem smWfFrom_append [DecidableEq β] {d : Nat → β} {lo mid : Nat} {a b : List (Nat × β)} (ha : smWfFrom d lo a = true)
    (hb : smWfFrom d mid b = true) (hlt : ∀ c ∈ a, c.1 < mid) (hlo : lo ≤ mid) : smWfFrom d lo (a ++ b) = true := by
  induction a generalizing lo with
  | nil => exact smWfFrom_mono hb hlo
  | cons c t ih =>
    obtain ⟨k, v⟩ := c
    simp only [smWfFrom, Bool.and_eq_true, decide_eq_true_eq] at ha
    have hk : k < mid := hlt (k, v) (by simp)
    simp only [List.cons_append, smWfFrom, Bool.and_eq_true, decide_eq_true_eq]
    exact ⟨ha.1, ih ha.2 (fun c hc => hlt c (by simp [hc])) (by omega)⟩

/-- Cells above a key, dropped below it, are canonical from that key. -/
theorem smWfFrom_above [DecidableEq β] {d : Nat → β} {lo k : Nat} {m : List (Nat × β)} (h : smWfFrom d lo m = true) :
    smWfFrom d k (m.filter fun c => decide (k ≤ c.1)) = true := by
  induction m generalizing lo with
  | nil => rfl
  | cons c t ih =>
    obtain ⟨k', v⟩ := c
    simp only [smWfFrom, Bool.and_eq_true, decide_eq_true_eq] at h
    simp only [List.filter_cons]
    split
    · next hk =>
      simp only [decide_eq_true_eq] at hk
      simp only [smWfFrom, Bool.and_eq_true, decide_eq_true_eq]
      exact ⟨⟨hk, h.1.2⟩, smWfFrom_filter h.2 _⟩
    · exact ih h.2

/-- Replacing a range by canonical cells that lie in it keeps the canonical form. -/
theorem smWf_smSplice [DecidableEq β] {d : Nat → β} {m cells : List (Nat × β)} {b n : Nat} (h : smWf d m = true)
    (hc : smWfFrom d b cells = true) (hin : ∀ c ∈ cells, c.1 < b + n) : smWf d (smSplice m b n cells) = true := by
  have h3 : smWfFrom d (b + n) (m.filter fun c => decide (b + n ≤ c.1)) = true := smWfFrom_above h
  have h2 : smWfFrom d b (cells ++ m.filter fun c => decide (b + n ≤ c.1)) = true := smWfFrom_append hc h3 hin (by omega)
  have h1 : smWfFrom d 0 (m.filter fun c => decide (c.1 < b)) = true := smWfFrom_filter h _
  unfold smWf smSplice
  rw [List.append_assoc]
  exact smWfFrom_append h1 h2 (fun c hc => by simpa using (List.mem_filter.1 hc).2) (Nat.zero_le b)

/-- Reading through a join of canonical lists. -/
theorem smGet_append [DecidableEq β] {d : Nat → β} {lo mid : Nat} {a b : List (Nat × β)} (ha : smWfFrom d lo a = true)
    (hb : smWfFrom d mid b = true) (hlt : ∀ c ∈ a, c.1 < mid) (k : Nat) :
    smGet d (a ++ b) k = if k < mid then smGet d a k else smGet d b k := by
  induction a generalizing lo with
  | nil =>
    simp only [List.nil_append, smGet]
    split
    · next h => exact smGet_below hb h
    · rfl
  | cons c t ih =>
    obtain ⟨k', v⟩ := c
    simp only [smWfFrom, Bool.and_eq_true, decide_eq_true_eq] at ha
    have hk' : k' < mid := hlt (k', v) (by simp)
    simp only [List.cons_append, smGet]
    rw [ih ha.2 (fun c hc => hlt c (by simp [hc]))]
    by_cases h1 : k = k'
    · have : k < mid := by omega
      simp [h1, hk']
    · by_cases h2 : k < k'
      · have : k < mid := by omega
        simp [h1, h2, this]
      · simp [h1, h2]

end Sys2Proof.Machine
end

