-- ==== Sys2Proof/Laws/Memory.lean ====
section
/-! SUPPORT. Laws of the memory: every operation keeps its canonical form, and what a read gives. -/

namespace Sys2Proof.Machine

/-- The cells of bytes written at `a` are canonical. -/
theorem cellsOf_wf (a : Nat) (bs : List Byte) : smWfFrom memDefault a (cellsOf a bs) = true := by
  induction bs generalizing a with
  | nil => rfl
  | cons b t ih =>
    unfold cellsOf
    split
    · exact smWfFrom_mono (ih (a + 1)) (Nat.le_succ a)
    · next h => simp [smWfFrom, h, ih (a + 1)]

/-- They lie in the range written. -/
theorem cellsOf_lt (a : Nat) (bs : List Byte) : ∀ c ∈ cellsOf a bs, c.1 < a + bs.length := by
  induction bs generalizing a with
  | nil => simp [cellsOf]
  | cons b t ih =>
    intro c hc
    unfold cellsOf at hc
    split at hc
    · have := ih (a + 1) c hc
      simp only [List.length_cons]
      omega
    · rcases List.mem_cons.1 hc with rfl | h
      · simp
      · have := ih (a + 1) c h
        simp only [List.length_cons]
        omega

/-- A write keeps the canonical form. -/
theorem memWrite_wf {m : List (Nat × Byte)} (h : memWf m = true) (a : Nat) (bs : List Byte) : memWf (memWrite m a bs) = true :=
  smWf_smSplice h (cellsOf_wf a bs) (cellsOf_lt a bs)

/-- Writes of one block after another keep the canonical form. -/
theorem memWrite_foldl_wf {m : List (Nat × Byte)} (h : memWf m = true) (l : List Nat) (f : List (Nat × Byte) → Nat → List Byte) :
    memWf (l.foldl (fun m b => memWrite m b (f m b)) m) = true := by
  induction l generalizing m with
  | nil => exact h
  | cons b t ih => exact ih (memWrite_wf h b _)

/-- Dropping a range keeps the canonical form. -/
theorem smErase_wf {m : List (Nat × Byte)} (h : memWf m = true) (a n : Nat) : memWf (smErase m a n) = true :=
  smWfFrom_filter h _

/-- The cells of a range, moved to another place, are canonical there: an unlisted byte reads zero everywhere. -/
theorem smSlice_wf {m : List (Nat × Byte)} {lo : Nat} (h : smWfFrom memDefault lo m = true) (a n b : Nat) :
    smWfFrom memDefault (b + (lo - a)) (smSlice m a n b) = true := by
  induction m generalizing lo with
  | nil => rfl
  | cons c t ih =>
    obtain ⟨k, v⟩ := c
    simp only [smWfFrom, Bool.and_eq_true, decide_eq_true_eq] at h
    have ht := ih h.2
    simp only [smSlice, List.filter_cons] at ht ⊢
    split
    · next hk =>
      simp only [Bool.and_eq_true, decide_eq_true_eq] at hk
      simp only [List.map_cons, smWfFrom, Bool.and_eq_true, decide_eq_true_eq]
      refine ⟨⟨by omega, h.1.2⟩, smWfFrom_mono ht (by omega)⟩
    · exact smWfFrom_mono ht (by omega)

/-- They lie in the range. -/
theorem smSlice_lt (m : List (Nat × Byte)) (a n b : Nat) : ∀ c ∈ smSlice m a n b, c.1 < b + n := by
  intro c hc
  simp only [smSlice, List.mem_map, List.mem_filter, Bool.and_eq_true, decide_eq_true_eq] at hc
  obtain ⟨x, ⟨_, h1, h2⟩, rfl⟩ := hc
  simp only
  omega

/-- A copy keeps the canonical form. -/
theorem smCopy_wf {m : List (Nat × Byte)} (h : memWf m = true) (a n b : Nat) : memWf (smCopy m a n b) = true :=
  smWf_smSplice h (smWfFrom_mono (smSlice_wf h a n b) (by omega)) (smSlice_lt m a n b)

/-- Every operation on device-physical memory keeps the canonical form. -/
theorem pwrite_memWf {s : State} (h : memWf s.mem = true) (a : Nat) (bs : List Byte) : memWf (s.pwrite a bs).mem = true := by
  unfold State.pwrite
  dsimp only
  split
  · exact memWrite_wf h a bs
  · exact memWrite_foldl_wf (memWrite_wf h a bs) _ _

theorem pwriteNat_memWf {s : State} (h : memWf s.mem = true) (a n v : Nat) : memWf (s.pwriteNat a n v).mem = true :=
  pwrite_memWf h a _

theorem pcopy_memWf {s : State} (h : memWf s.mem = true) (src n dst : Nat) : memWf (s.pcopy src n dst).mem = true :=
  smCopy_wf h src n dst

theorem pzero_memWf {s : State} (h : memWf s.mem = true) (a n : Nat) : memWf (s.pzero a n).mem = true := smErase_wf h a n

/-- A run of bytes over canonical cells from its first address is the bytes one by one. -/
theorem readRun_eq {a : Nat} {m : List (Nat × Byte)} (h : smWfFrom memDefault a m = true) (n : Nat) :
    readRun n a m = (List.range n).map fun i => smGet memDefault m (a + i) := by
  induction n generalizing a m with
  | zero => cases m <;> rfl
  | succ n ih =>
    rw [List.range_succ_eq_map, List.map_cons, List.map_map]
    cases m with
    | nil =>
      have := ih (a := a + 1) (m := []) rfl
      simp only [readRun, this, smGet]
      rfl
    | cons c t =>
      obtain ⟨k, v⟩ := c
      simp only [smWfFrom, Bool.and_eq_true, decide_eq_true_eq] at h
      by_cases hk : k = a
      · subst hk
        simp only [readRun, if_pos, smGet, Nat.add_zero]
        rw [ih h.2]
        refine congrArg _ (List.map_congr_left fun i _ => ?_)
        have h1 : ¬ (k + (i + 1) = k) := by omega
        have h2 : ¬ (k + (i + 1) < k) := by omega
        simp only [Function.comp, Nat.succ_eq_add_one, h1, h2, if_false]
        rw [Nat.add_assoc, Nat.add_comm 1 i]
      · have hlt : a < k := by omega
        have hne : ¬ a = k := by omega
        have hw : smWfFrom memDefault (a + 1) ((k, v) :: t) = true := by
          simp only [smWfFrom, Bool.and_eq_true, decide_eq_true_eq]
          exact ⟨⟨hlt, h.1.2⟩, h.2⟩
        simp only [readRun, if_neg hk, Nat.add_zero]
        rw [ih hw]
        have h0 : smGet memDefault ((k, v) :: t) a = memDefault a := by simp [smGet, hne, hlt]
        rw [h0]
        refine congrArg _ (List.map_congr_left fun i _ => ?_)
        simp only [Function.comp, Nat.succ_eq_add_one]
        rw [Nat.add_assoc, Nat.add_comm 1 i]

/-- Cells below the place where a read begins do not matter. -/
theorem smGet_dropWhile {lo a k : Nat} {m : List (Nat × Byte)} (h : smWfFrom memDefault lo m = true) (hk : a ≤ k) :
    smGet memDefault (m.dropWhile fun c => decide (c.1 < a)) k = smGet memDefault m k := by
  induction m generalizing lo with
  | nil => rfl
  | cons c t ih =>
    obtain ⟨k', v⟩ := c
    simp only [smWfFrom, Bool.and_eq_true, decide_eq_true_eq] at h
    simp only [List.dropWhile_cons]
    split
    · next hc =>
      simp only [decide_eq_true_eq] at hc
      have h1 : ¬ k = k' := by omega
      have h2 : ¬ k < k' := by omega
      rw [ih h.2]
      simp [smGet, h1, h2]
    · rfl

/-- What stays after that is canonical from there. -/
theorem dropWhile_wf {lo a : Nat} {m : List (Nat × Byte)} (h : smWfFrom memDefault lo m = true) :
    smWfFrom memDefault a (m.dropWhile fun c => decide (c.1 < a)) = true := by
  induction m generalizing lo with
  | nil => rfl
  | cons c t ih =>
    obtain ⟨k', v⟩ := c
    simp only [smWfFrom, Bool.and_eq_true, decide_eq_true_eq] at h
    simp only [List.dropWhile_cons]
    split
    · exact ih h.2
    · next hc =>
      simp only [decide_eq_true_eq] at hc
      simp only [smWfFrom, Bool.and_eq_true, decide_eq_true_eq]
      exact ⟨⟨by omega, h.1.2⟩, h.2⟩

/-- A read of canonical memory gives its bytes one by one. -/
theorem memRead_eq {m : List (Nat × Byte)} (h : memWf m = true) (a n : Nat) :
    memRead m a n = (List.range n).map fun i => smGet memDefault m (a + i) := by
  unfold memRead
  rw [readRun_eq (dropWhile_wf h)]
  exact List.map_congr_left fun i _ => smGet_dropWhile h (by omega)

/-- A read has the length asked for. -/
theorem memRead_length {m : List (Nat × Byte)} (h : memWf m = true) (a n : Nat) : (memRead m a n).length = n := by
  rw [memRead_eq h]
  simp

end Sys2Proof.Machine
end

