-- ==== Sys2Proof/Laws/Fields.lean ====
section
/-! SUPPORT. Laws of register fields: a field written reads back, and writing it leaves the others alone. -/

namespace Sys2Proof.Machine

/-- Writing a field as arithmetic: the bits above, the new value, the bits below. -/
theorem putField_toNat (w : BitVec 64) {lo wid : Nat} (v : Nat) (h : lo + wid ≤ 64) :
    (putField w lo wid v).toNat = 2 ^ lo * (2 ^ wid * (w.toNat / 2 ^ lo / 2 ^ wid) + v % 2 ^ wid) + w.toNat % 2 ^ lo := by
  have hw : w.toNat < 2 ^ 64 := w.isLt
  have hP : 0 < 2 ^ lo := Nat.two_pow_pos lo
  have hQ : 0 < 2 ^ wid := Nat.two_pow_pos wid
  have h64 : 2 ^ 64 = 2 ^ lo * (2 ^ wid * 2 ^ (64 - lo - wid)) := by
    rw [← Nat.pow_add, ← Nat.pow_add]
    congr 1
    omega
  have hb : bitsAt w.toNat lo wid = w.toNat / 2 ^ lo % 2 ^ wid := by rw [bitsAt, Nat.shiftRight_eq_div_pow]
  have e1 := Nat.div_add_mod w.toNat (2 ^ lo)
  have e2 := Nat.div_add_mod (w.toNat / 2 ^ lo) (2 ^ wid)
  have hhi : w.toNat / 2 ^ lo / 2 ^ wid < 2 ^ (64 - lo - wid) := by
    apply Nat.div_lt_of_lt_mul
    apply Nat.div_lt_of_lt_mul
    rw [← h64]
    exact hw
  have hv : v % 2 ^ wid < 2 ^ wid := Nat.mod_lt _ hQ
  have hlow : w.toNat % 2 ^ lo < 2 ^ lo := Nat.mod_lt _ hP
  unfold putField
  rw [hb, BitVec.toNat_ofNat, Nat.mod_eq_of_lt]
  · have key : w.toNat = 2 ^ lo * (2 ^ wid * (w.toNat / 2 ^ lo / 2 ^ wid)) + (w.toNat / 2 ^ lo % 2 ^ wid) * 2 ^ lo +
        w.toNat % 2 ^ lo := by
      calc w.toNat = 2 ^ lo * (w.toNat / 2 ^ lo) + w.toNat % 2 ^ lo := e1.symm
        _ = 2 ^ lo * (2 ^ wid * (w.toNat / 2 ^ lo / 2 ^ wid) + w.toNat / 2 ^ lo % 2 ^ wid) + w.toNat % 2 ^ lo := by rw [e2]
        _ = _ := by rw [Nat.mul_add, Nat.mul_comm (w.toNat / 2 ^ lo % 2 ^ wid)]
    rw [Nat.mul_add, Nat.mul_comm (2 ^ lo) (v % 2 ^ wid)]
    generalize 2 ^ lo * (2 ^ wid * (w.toNat / 2 ^ lo / 2 ^ wid)) = A at *
    generalize (w.toNat / 2 ^ lo % 2 ^ wid) * 2 ^ lo = B at *
    omega
  · have key : w.toNat - w.toNat / 2 ^ lo % 2 ^ wid * 2 ^ lo + v % 2 ^ wid * 2 ^ lo =
        2 ^ lo * (2 ^ wid * (w.toNat / 2 ^ lo / 2 ^ wid) + v % 2 ^ wid) + w.toNat % 2 ^ lo := by
      have key : w.toNat = 2 ^ lo * (2 ^ wid * (w.toNat / 2 ^ lo / 2 ^ wid)) + (w.toNat / 2 ^ lo % 2 ^ wid) * 2 ^ lo +
          w.toNat % 2 ^ lo := by
        calc w.toNat = 2 ^ lo * (w.toNat / 2 ^ lo) + w.toNat % 2 ^ lo := e1.symm
          _ = 2 ^ lo * (2 ^ wid * (w.toNat / 2 ^ lo / 2 ^ wid) + w.toNat / 2 ^ lo % 2 ^ wid) + w.toNat % 2 ^ lo := by rw [e2]
          _ = _ := by rw [Nat.mul_add, Nat.mul_comm (w.toNat / 2 ^ lo % 2 ^ wid)]
      rw [Nat.mul_add, Nat.mul_comm (2 ^ lo) (v % 2 ^ wid)]
      generalize 2 ^ lo * (2 ^ wid * (w.toNat / 2 ^ lo / 2 ^ wid)) = A at *
      generalize (w.toNat / 2 ^ lo % 2 ^ wid) * 2 ^ lo = B at *
      omega
    rw [key, h64]
    have h1 : 2 ^ wid * (w.toNat / 2 ^ lo / 2 ^ wid) + v % 2 ^ wid + 1 ≤ 2 ^ wid * 2 ^ (64 - lo - wid) :=
      calc 2 ^ wid * (w.toNat / 2 ^ lo / 2 ^ wid) + v % 2 ^ wid + 1 ≤
            2 ^ wid * (w.toNat / 2 ^ lo / 2 ^ wid) + 2 ^ wid := by omega
        _ = 2 ^ wid * (w.toNat / 2 ^ lo / 2 ^ wid + 1) := by rw [Nat.mul_add, Nat.mul_one]
        _ ≤ _ := Nat.mul_le_mul_left _ hhi
    calc 2 ^ lo * (2 ^ wid * (w.toNat / 2 ^ lo / 2 ^ wid) + v % 2 ^ wid) + w.toNat % 2 ^ lo
        < 2 ^ lo * (2 ^ wid * (w.toNat / 2 ^ lo / 2 ^ wid) + v % 2 ^ wid) + 2 ^ lo := by omega
      _ = 2 ^ lo * (2 ^ wid * (w.toNat / 2 ^ lo / 2 ^ wid) + v % 2 ^ wid + 1) := by rw [Nat.mul_add _ _ 1, Nat.mul_one]
      _ ≤ _ := Nat.mul_le_mul_left _ h1

/-- The bits of a word with a field replaced. -/
theorem putField_testBit (w : BitVec 64) {lo wid : Nat} (v j : Nat) (h : lo + wid ≤ 64) :
    (putField w lo wid v).toNat.testBit j =
      if j < lo then w.toNat.testBit j else if j < lo + wid then v.testBit (j - lo) else w.toNat.testBit j := by
  rw [putField_toNat w v h, Nat.testBit_two_pow_mul_add _ (Nat.mod_lt _ (Nat.two_pow_pos lo))]
  split
  · next hj => simp [Nat.testBit_mod_two_pow, hj]
  · next hj =>
    rw [Nat.testBit_two_pow_mul_add _ (Nat.mod_lt _ (Nat.two_pow_pos wid))]
    split
    · next hj2 =>
      have : j < lo + wid := by omega
      simp [Nat.testBit_mod_two_pow, hj2, this]
    · next hj2 =>
      have hn : ¬ j < lo + wid := by omega
      rw [if_neg hn, Nat.div_div_eq_div_mul, ← Nat.pow_add, Nat.testBit_div_two_pow]
      congr 1
      omega

/-- A field just written reads back, in its width. -/
theorem bitsAt_putField_same (w : BitVec 64) {lo wid : Nat} (v : Nat) (h : lo + wid ≤ 64) :
    bitsAt (putField w lo wid v).toNat lo wid = v % 2 ^ wid := by
  apply Nat.eq_of_testBit_eq
  intro j
  rw [bitsAt_testBit, putField_testBit w v _ h, Nat.testBit_mod_two_pow]
  by_cases hj : j < wid
  · have h1 : ¬ lo + j < lo := by omega
    have h2 : lo + j < lo + wid := by omega
    have h3 : lo + j - lo = j := by omega
    simp [h1, h2, h3, hj]
  · simp [hj]

/-- Two bit ranges have no bit in common. -/
def apart (lo wid lo' wid' : Nat) : Bool := decide (lo + wid ≤ lo') || decide (lo' + wid' ≤ lo)

/-- Writing a field leaves every other field of the word as it was. -/
theorem bitsAt_putField_apart (w : BitVec 64) {lo wid lo' wid' : Nat} (v : Nat) (h : lo + wid ≤ 64)
    (ha : apart lo wid lo' wid' = true) : bitsAt (putField w lo wid v).toNat lo' wid' = bitsAt w.toNat lo' wid' := by
  simp only [apart, Bool.or_eq_true, decide_eq_true_eq] at ha
  apply Nat.eq_of_testBit_eq
  intro j
  rw [bitsAt_testBit, bitsAt_testBit, putField_testBit w v _ h]
  by_cases hj : j < wid'
  · simp only [hj, decide_true, Bool.true_and]
    rcases ha with ha | ha
    · have h1 : ¬ lo' + j < lo := by omega
      have h2 : ¬ lo' + j < lo + wid := by omega
      simp [h1, h2]
    · have h1 : lo' + j < lo := by omega
      simp [h1]
  · simp [hj]

end Sys2Proof.Machine
end

