-- ==== Sys2Proof/Laws/State.lean ====
section
/-! SUPPORT. What the updates of the state leave alone, one law for each update, and what they write. -/

namespace Sys2Proof.Machine

variable (s : State)

@[simp] theorem State.setWord_keeps (a : Nat) (w : BitVec 64) :
    (s.setWord a w).pending = s.pending ∧ (s.setWord a w).mem = s.mem ∧ (s.setWord a w).bad = s.bad ∧ (s.setWord a w).arrs = s.arrs ∧ (s.setWord a w).sps = s.sps ∧
    (s.setWord a w).cxs = s.cxs ∧ (s.setWord a w).cmds = s.cmds ∧ (s.setWord a w).nextCmd = s.nextCmd ∧ (s.setWord a w).msgs = s.msgs ∧ (s.setWord a w).nextMsg = s.nextMsg ∧
    (s.setWord a w).colls = s.colls ∧ (s.setWord a w).nextColl = s.nextColl ∧ (s.setWord a w).cast = s.cast ∧ (s.setWord a w).admits = s.admits ∧ (s.setWord a w).builds = s.builds ∧
    (s.setWord a w).ports = s.ports ∧ (s.setWord a w).txWait = s.txWait ∧ (s.setWord a w).nt = s.nt ∧ (s.setWord a w).pwr = s.pwr ∧ (s.setWord a w).dbg = s.dbg ∧
    (s.setWord a w).reel = s.reel ∧ (s.setWord a w).recd = s.recd ∧ (s.setWord a w).outs = s.outs ∧ (s.setWord a w).free = s.free ∧ (s.setWord a w).nonces = s.nonces ∧
    (s.setWord a w).tsu = s.tsu ∧ (s.setWord a w).slice = s.slice ∧ (s.setWord a w).boot = s.boot ∧
    (∀ n, (s.setWord a w).cx n = s.cx n) ∧ (∀ n, (s.setWord a w).sp n = s.sp n) ∧
    (∀ n, (s.setWord a w).arr n = s.arr n) ∧ (∀ n, (s.setWord a w).port n = s.port n) ∧
    (s.setWord a w).clock = s.clock ∧ (∀ n, (s.setWord a w).cmd? n = s.cmd? n) ∧
    (∀ n i, (s.setWord a w).pread n i = s.pread n i) ∧ (∀ n, (s.setWord a w).reelSlot n = s.reelSlot n) :=
  ⟨rfl, rfl, rfl, rfl, rfl, rfl, rfl, rfl, rfl, rfl, rfl, rfl, rfl, rfl, rfl, rfl, rfl, rfl, rfl, rfl, rfl, rfl, rfl,
  rfl, rfl, rfl, rfl, rfl, fun _ => rfl, fun _ => rfl, fun _ => rfl, fun _ => rfl, rfl, fun _ => rfl, fun _ _ => rfl,
  fun _ => rfl⟩

@[simp] theorem State.wr_keeps (f : Fld) (v n i : Nat) :
    (s.wr f v n i).pending = s.pending ∧ (s.wr f v n i).mem = s.mem ∧ (s.wr f v n i).bad = s.bad ∧ (s.wr f v n i).arrs = s.arrs ∧ (s.wr f v n i).sps = s.sps ∧
    (s.wr f v n i).cxs = s.cxs ∧ (s.wr f v n i).cmds = s.cmds ∧ (s.wr f v n i).nextCmd = s.nextCmd ∧ (s.wr f v n i).msgs = s.msgs ∧ (s.wr f v n i).nextMsg = s.nextMsg ∧
    (s.wr f v n i).colls = s.colls ∧ (s.wr f v n i).nextColl = s.nextColl ∧ (s.wr f v n i).cast = s.cast ∧ (s.wr f v n i).admits = s.admits ∧ (s.wr f v n i).builds = s.builds ∧
    (s.wr f v n i).ports = s.ports ∧ (s.wr f v n i).txWait = s.txWait ∧ (s.wr f v n i).nt = s.nt ∧ (s.wr f v n i).pwr = s.pwr ∧ (s.wr f v n i).dbg = s.dbg ∧
    (s.wr f v n i).reel = s.reel ∧ (s.wr f v n i).recd = s.recd ∧ (s.wr f v n i).outs = s.outs ∧ (s.wr f v n i).free = s.free ∧ (s.wr f v n i).nonces = s.nonces ∧
    (s.wr f v n i).tsu = s.tsu ∧ (s.wr f v n i).slice = s.slice ∧ (s.wr f v n i).boot = s.boot ∧
    (∀ n, (s.wr f v n i).cx n = s.cx n) ∧ (∀ n, (s.wr f v n i).sp n = s.sp n) ∧
    (∀ n, (s.wr f v n i).arr n = s.arr n) ∧ (∀ n, (s.wr f v n i).port n = s.port n) ∧
    (s.wr f v n i).clock = s.clock ∧ (∀ n, (s.wr f v n i).cmd? n = s.cmd? n) ∧
    (∀ n i, (s.wr f v n i).pread n i = s.pread n i) ∧ (∀ n, (s.wr f v n i).reelSlot n = s.reelSlot n) :=
  ⟨rfl, rfl, rfl, rfl, rfl, rfl, rfl, rfl, rfl, rfl, rfl, rfl, rfl, rfl, rfl, rfl, rfl, rfl, rfl, rfl, rfl, rfl, rfl,
  rfl, rfl, rfl, rfl, rfl, fun _ => rfl, fun _ => rfl, fun _ => rfl, fun _ => rfl, rfl, fun _ => rfl, fun _ _ => rfl,
  fun _ => rfl⟩

@[simp] theorem State.setFlag_keeps (f : Fld) (b : Bool) (n i : Nat) :
    (s.setFlag f b n i).pending = s.pending ∧ (s.setFlag f b n i).mem = s.mem ∧ (s.setFlag f b n i).bad = s.bad ∧ (s.setFlag f b n i).arrs = s.arrs ∧ (s.setFlag f b n i).sps = s.sps ∧
    (s.setFlag f b n i).cxs = s.cxs ∧ (s.setFlag f b n i).cmds = s.cmds ∧ (s.setFlag f b n i).nextCmd = s.nextCmd ∧ (s.setFlag f b n i).msgs = s.msgs ∧ (s.setFlag f b n i).nextMsg = s.nextMsg ∧
    (s.setFlag f b n i).colls = s.colls ∧ (s.setFlag f b n i).nextColl = s.nextColl ∧ (s.setFlag f b n i).cast = s.cast ∧ (s.setFlag f b n i).admits = s.admits ∧ (s.setFlag f b n i).builds = s.builds ∧
    (s.setFlag f b n i).ports = s.ports ∧ (s.setFlag f b n i).txWait = s.txWait ∧ (s.setFlag f b n i).nt = s.nt ∧ (s.setFlag f b n i).pwr = s.pwr ∧ (s.setFlag f b n i).dbg = s.dbg ∧
    (s.setFlag f b n i).reel = s.reel ∧ (s.setFlag f b n i).recd = s.recd ∧ (s.setFlag f b n i).outs = s.outs ∧ (s.setFlag f b n i).free = s.free ∧ (s.setFlag f b n i).nonces = s.nonces ∧
    (s.setFlag f b n i).tsu = s.tsu ∧ (s.setFlag f b n i).slice = s.slice ∧ (s.setFlag f b n i).boot = s.boot ∧
    (∀ n, (s.setFlag f b n i).cx n = s.cx n) ∧ (∀ n, (s.setFlag f b n i).sp n = s.sp n) ∧
    (∀ n, (s.setFlag f b n i).arr n = s.arr n) ∧ (∀ n, (s.setFlag f b n i).port n = s.port n) ∧
    (s.setFlag f b n i).clock = s.clock ∧ (∀ n, (s.setFlag f b n i).cmd? n = s.cmd? n) ∧
    (∀ n i, (s.setFlag f b n i).pread n i = s.pread n i) ∧ (∀ n, (s.setFlag f b n i).reelSlot n = s.reelSlot n) :=
  ⟨rfl, rfl, rfl, rfl, rfl, rfl, rfl, rfl, rfl, rfl, rfl, rfl, rfl, rfl, rfl, rfl, rfl, rfl, rfl, rfl, rfl, rfl, rfl,
  rfl, rfl, rfl, rfl, rfl, fun _ => rfl, fun _ => rfl, fun _ => rfl, fun _ => rfl, rfl, fun _ => rfl, fun _ _ => rfl,
  fun _ => rfl⟩

@[simp] theorem State.bump_keeps (f : Fld) (v n i : Nat) :
    (s.bump f v n i).pending = s.pending ∧ (s.bump f v n i).mem = s.mem ∧ (s.bump f v n i).bad = s.bad ∧ (s.bump f v n i).arrs = s.arrs ∧ (s.bump f v n i).sps = s.sps ∧
    (s.bump f v n i).cxs = s.cxs ∧ (s.bump f v n i).cmds = s.cmds ∧ (s.bump f v n i).nextCmd = s.nextCmd ∧ (s.bump f v n i).msgs = s.msgs ∧ (s.bump f v n i).nextMsg = s.nextMsg ∧
    (s.bump f v n i).colls = s.colls ∧ (s.bump f v n i).nextColl = s.nextColl ∧ (s.bump f v n i).cast = s.cast ∧ (s.bump f v n i).admits = s.admits ∧ (s.bump f v n i).builds = s.builds ∧
    (s.bump f v n i).ports = s.ports ∧ (s.bump f v n i).txWait = s.txWait ∧ (s.bump f v n i).nt = s.nt ∧ (s.bump f v n i).pwr = s.pwr ∧ (s.bump f v n i).dbg = s.dbg ∧
    (s.bump f v n i).reel = s.reel ∧ (s.bump f v n i).recd = s.recd ∧ (s.bump f v n i).outs = s.outs ∧ (s.bump f v n i).free = s.free ∧ (s.bump f v n i).nonces = s.nonces ∧
    (s.bump f v n i).tsu = s.tsu ∧ (s.bump f v n i).slice = s.slice ∧ (s.bump f v n i).boot = s.boot ∧
    (∀ n, (s.bump f v n i).cx n = s.cx n) ∧ (∀ n, (s.bump f v n i).sp n = s.sp n) ∧
    (∀ n, (s.bump f v n i).arr n = s.arr n) ∧ (∀ n, (s.bump f v n i).port n = s.port n) ∧
    (s.bump f v n i).clock = s.clock ∧ (∀ n, (s.bump f v n i).cmd? n = s.cmd? n) ∧
    (∀ n i, (s.bump f v n i).pread n i = s.pread n i) ∧ (∀ n, (s.bump f v n i).reelSlot n = s.reelSlot n) :=
  ⟨rfl, rfl, rfl, rfl, rfl, rfl, rfl, rfl, rfl, rfl, rfl, rfl, rfl, rfl, rfl, rfl, rfl, rfl, rfl, rfl, rfl, rfl, rfl,
  rfl, rfl, rfl, rfl, rfl, fun _ => rfl, fun _ => rfl, fun _ => rfl, fun _ => rfl, rfl, fun _ => rfl, fun _ _ => rfl,
  fun _ => rfl⟩

@[simp] theorem State.updCx_keeps (c : Nat) (g : Ctx → Ctx) :
    (s.updCx c g).pending = s.pending ∧ (s.updCx c g).regs = s.regs ∧ (s.updCx c g).mem = s.mem ∧ (s.updCx c g).bad = s.bad ∧ (s.updCx c g).arrs = s.arrs ∧
    (s.updCx c g).sps = s.sps ∧ (s.updCx c g).cmds = s.cmds ∧ (s.updCx c g).nextCmd = s.nextCmd ∧ (s.updCx c g).msgs = s.msgs ∧ (s.updCx c g).nextMsg = s.nextMsg ∧
    (s.updCx c g).colls = s.colls ∧ (s.updCx c g).nextColl = s.nextColl ∧ (s.updCx c g).cast = s.cast ∧ (s.updCx c g).admits = s.admits ∧ (s.updCx c g).builds = s.builds ∧
    (s.updCx c g).ports = s.ports ∧ (s.updCx c g).txWait = s.txWait ∧ (s.updCx c g).nt = s.nt ∧ (s.updCx c g).pwr = s.pwr ∧ (s.updCx c g).dbg = s.dbg ∧
    (s.updCx c g).reel = s.reel ∧ (s.updCx c g).recd = s.recd ∧ (s.updCx c g).outs = s.outs ∧ (s.updCx c g).free = s.free ∧ (s.updCx c g).nonces = s.nonces ∧
    (s.updCx c g).tsu = s.tsu ∧ (s.updCx c g).slice = s.slice ∧ (s.updCx c g).boot = s.boot ∧
    (∀ a, (s.updCx c g).word a = s.word a) ∧ (∀ f n i, (s.updCx c g).rd f n i = s.rd f n i) ∧
    (∀ f n i, (s.updCx c g).flag f n i = s.flag f n i) ∧ (∀ n, (s.updCx c g).sp n = s.sp n) ∧
    (∀ n, (s.updCx c g).arr n = s.arr n) ∧ (∀ n, (s.updCx c g).port n = s.port n) ∧
    (s.updCx c g).clock = s.clock ∧ (∀ n, (s.updCx c g).cmd? n = s.cmd? n) ∧
    (∀ n, (s.updCx c g).cxState n = s.cxState n) ∧ (∀ n i, (s.updCx c g).pread n i = s.pread n i) ∧
    (∀ n, (s.updCx c g).reelSlot n = s.reelSlot n) :=
  ⟨rfl, rfl, rfl, rfl, rfl, rfl, rfl, rfl, rfl, rfl, rfl, rfl, rfl, rfl, rfl, rfl, rfl, rfl, rfl, rfl, rfl, rfl, rfl,
  rfl, rfl, rfl, rfl, rfl, fun _ => rfl, fun _ _ _ => rfl, fun _ _ _ => rfl, fun _ => rfl, fun _ => rfl, fun _ => rfl,
  rfl, fun _ => rfl, fun _ => rfl, fun _ _ => rfl, fun _ => rfl⟩

@[simp] theorem State.updSp_keeps (c : Nat) (g : Spu → Spu) :
    (s.updSp c g).pending = s.pending ∧ (s.updSp c g).regs = s.regs ∧ (s.updSp c g).mem = s.mem ∧ (s.updSp c g).bad = s.bad ∧ (s.updSp c g).arrs = s.arrs ∧
    (s.updSp c g).cxs = s.cxs ∧ (s.updSp c g).cmds = s.cmds ∧ (s.updSp c g).nextCmd = s.nextCmd ∧ (s.updSp c g).msgs = s.msgs ∧ (s.updSp c g).nextMsg = s.nextMsg ∧
    (s.updSp c g).colls = s.colls ∧ (s.updSp c g).nextColl = s.nextColl ∧ (s.updSp c g).cast = s.cast ∧ (s.updSp c g).admits = s.admits ∧ (s.updSp c g).builds = s.builds ∧
    (s.updSp c g).ports = s.ports ∧ (s.updSp c g).txWait = s.txWait ∧ (s.updSp c g).nt = s.nt ∧ (s.updSp c g).pwr = s.pwr ∧ (s.updSp c g).dbg = s.dbg ∧
    (s.updSp c g).reel = s.reel ∧ (s.updSp c g).recd = s.recd ∧ (s.updSp c g).outs = s.outs ∧ (s.updSp c g).free = s.free ∧ (s.updSp c g).nonces = s.nonces ∧
    (s.updSp c g).tsu = s.tsu ∧ (s.updSp c g).slice = s.slice ∧ (s.updSp c g).boot = s.boot ∧
    (∀ a, (s.updSp c g).word a = s.word a) ∧ (∀ f n i, (s.updSp c g).rd f n i = s.rd f n i) ∧
    (∀ f n i, (s.updSp c g).flag f n i = s.flag f n i) ∧ (∀ n, (s.updSp c g).cx n = s.cx n) ∧
    (∀ n, (s.updSp c g).arr n = s.arr n) ∧ (∀ n, (s.updSp c g).port n = s.port n) ∧
    (s.updSp c g).clock = s.clock ∧ (∀ n, (s.updSp c g).cmd? n = s.cmd? n) ∧
    (∀ n, (s.updSp c g).cxState n = s.cxState n) ∧ (∀ n i, (s.updSp c g).pread n i = s.pread n i) ∧
    (∀ n, (s.updSp c g).reelSlot n = s.reelSlot n) :=
  ⟨rfl, rfl, rfl, rfl, rfl, rfl, rfl, rfl, rfl, rfl, rfl, rfl, rfl, rfl, rfl, rfl, rfl, rfl, rfl, rfl, rfl, rfl, rfl,
  rfl, rfl, rfl, rfl, rfl, fun _ => rfl, fun _ _ _ => rfl, fun _ _ _ => rfl, fun _ => rfl, fun _ => rfl, fun _ => rfl,
  rfl, fun _ => rfl, fun _ => rfl, fun _ _ => rfl, fun _ => rfl⟩

@[simp] theorem State.updArr_keeps (c : Nat) (g : Arr → Arr) :
    (s.updArr c g).pending = s.pending ∧ (s.updArr c g).regs = s.regs ∧ (s.updArr c g).mem = s.mem ∧ (s.updArr c g).bad = s.bad ∧ (s.updArr c g).sps = s.sps ∧
    (s.updArr c g).cxs = s.cxs ∧ (s.updArr c g).cmds = s.cmds ∧ (s.updArr c g).nextCmd = s.nextCmd ∧ (s.updArr c g).msgs = s.msgs ∧ (s.updArr c g).nextMsg = s.nextMsg ∧
    (s.updArr c g).colls = s.colls ∧ (s.updArr c g).nextColl = s.nextColl ∧ (s.updArr c g).cast = s.cast ∧ (s.updArr c g).admits = s.admits ∧ (s.updArr c g).builds = s.builds ∧
    (s.updArr c g).ports = s.ports ∧ (s.updArr c g).txWait = s.txWait ∧ (s.updArr c g).nt = s.nt ∧ (s.updArr c g).pwr = s.pwr ∧ (s.updArr c g).dbg = s.dbg ∧
    (s.updArr c g).reel = s.reel ∧ (s.updArr c g).recd = s.recd ∧ (s.updArr c g).outs = s.outs ∧ (s.updArr c g).free = s.free ∧ (s.updArr c g).nonces = s.nonces ∧
    (s.updArr c g).tsu = s.tsu ∧ (s.updArr c g).slice = s.slice ∧ (s.updArr c g).boot = s.boot ∧
    (∀ a, (s.updArr c g).word a = s.word a) ∧ (∀ f n i, (s.updArr c g).rd f n i = s.rd f n i) ∧
    (∀ f n i, (s.updArr c g).flag f n i = s.flag f n i) ∧ (∀ n, (s.updArr c g).cx n = s.cx n) ∧
    (∀ n, (s.updArr c g).sp n = s.sp n) ∧ (∀ n, (s.updArr c g).port n = s.port n) ∧
    (s.updArr c g).clock = s.clock ∧ (∀ n, (s.updArr c g).cmd? n = s.cmd? n) ∧
    (∀ n, (s.updArr c g).cxState n = s.cxState n) ∧ (∀ n i, (s.updArr c g).pread n i = s.pread n i) ∧
    (∀ n, (s.updArr c g).reelSlot n = s.reelSlot n) :=
  ⟨rfl, rfl, rfl, rfl, rfl, rfl, rfl, rfl, rfl, rfl, rfl, rfl, rfl, rfl, rfl, rfl, rfl, rfl, rfl, rfl, rfl, rfl, rfl,
  rfl, rfl, rfl, rfl, rfl, fun _ => rfl, fun _ _ _ => rfl, fun _ _ _ => rfl, fun _ => rfl, fun _ => rfl, fun _ => rfl,
  rfl, fun _ => rfl, fun _ => rfl, fun _ _ => rfl, fun _ => rfl⟩

@[simp] theorem State.updPort_keeps (c : Nat) (g : Port → Port) :
    (s.updPort c g).pending = s.pending ∧ (s.updPort c g).regs = s.regs ∧ (s.updPort c g).mem = s.mem ∧ (s.updPort c g).bad = s.bad ∧ (s.updPort c g).arrs = s.arrs ∧
    (s.updPort c g).sps = s.sps ∧ (s.updPort c g).cxs = s.cxs ∧ (s.updPort c g).cmds = s.cmds ∧ (s.updPort c g).nextCmd = s.nextCmd ∧ (s.updPort c g).msgs = s.msgs ∧
    (s.updPort c g).nextMsg = s.nextMsg ∧ (s.updPort c g).colls = s.colls ∧ (s.updPort c g).nextColl = s.nextColl ∧ (s.updPort c g).cast = s.cast ∧ (s.updPort c g).admits = s.admits ∧
    (s.updPort c g).builds = s.builds ∧ (s.updPort c g).txWait = s.txWait ∧ (s.updPort c g).nt = s.nt ∧ (s.updPort c g).pwr = s.pwr ∧ (s.updPort c g).dbg = s.dbg ∧
    (s.updPort c g).reel = s.reel ∧ (s.updPort c g).recd = s.recd ∧ (s.updPort c g).outs = s.outs ∧ (s.updPort c g).free = s.free ∧ (s.updPort c g).nonces = s.nonces ∧
    (s.updPort c g).tsu = s.tsu ∧ (s.updPort c g).slice = s.slice ∧ (s.updPort c g).boot = s.boot ∧
    (∀ a, (s.updPort c g).word a = s.word a) ∧ (∀ f n i, (s.updPort c g).rd f n i = s.rd f n i) ∧
    (∀ f n i, (s.updPort c g).flag f n i = s.flag f n i) ∧ (∀ n, (s.updPort c g).cx n = s.cx n) ∧
    (∀ n, (s.updPort c g).sp n = s.sp n) ∧ (∀ n, (s.updPort c g).arr n = s.arr n) ∧
    (s.updPort c g).clock = s.clock ∧ (∀ n, (s.updPort c g).cmd? n = s.cmd? n) ∧
    (∀ n, (s.updPort c g).cxState n = s.cxState n) ∧ (∀ n i, (s.updPort c g).pread n i = s.pread n i) ∧
    (∀ n, (s.updPort c g).reelSlot n = s.reelSlot n) :=
  ⟨rfl, rfl, rfl, rfl, rfl, rfl, rfl, rfl, rfl, rfl, rfl, rfl, rfl, rfl, rfl, rfl, rfl, rfl, rfl, rfl, rfl, rfl, rfl,
  rfl, rfl, rfl, rfl, rfl, fun _ => rfl, fun _ _ _ => rfl, fun _ _ _ => rfl, fun _ => rfl, fun _ => rfl, fun _ => rfl,
  rfl, fun _ => rfl, fun _ => rfl, fun _ _ => rfl, fun _ => rfl⟩

@[simp] theorem State.updCmd_keeps (c : Nat) (g : Cmd → Cmd) :
    (s.updCmd c g).pending = s.pending ∧ (s.updCmd c g).regs = s.regs ∧ (s.updCmd c g).mem = s.mem ∧ (s.updCmd c g).bad = s.bad ∧ (s.updCmd c g).arrs = s.arrs ∧
    (s.updCmd c g).sps = s.sps ∧ (s.updCmd c g).cxs = s.cxs ∧ (s.updCmd c g).nextCmd = s.nextCmd ∧ (s.updCmd c g).msgs = s.msgs ∧ (s.updCmd c g).nextMsg = s.nextMsg ∧
    (s.updCmd c g).colls = s.colls ∧ (s.updCmd c g).nextColl = s.nextColl ∧ (s.updCmd c g).cast = s.cast ∧ (s.updCmd c g).admits = s.admits ∧ (s.updCmd c g).builds = s.builds ∧
    (s.updCmd c g).ports = s.ports ∧ (s.updCmd c g).txWait = s.txWait ∧ (s.updCmd c g).nt = s.nt ∧ (s.updCmd c g).pwr = s.pwr ∧ (s.updCmd c g).dbg = s.dbg ∧
    (s.updCmd c g).reel = s.reel ∧ (s.updCmd c g).recd = s.recd ∧ (s.updCmd c g).outs = s.outs ∧ (s.updCmd c g).free = s.free ∧ (s.updCmd c g).nonces = s.nonces ∧
    (s.updCmd c g).tsu = s.tsu ∧ (s.updCmd c g).slice = s.slice ∧ (s.updCmd c g).boot = s.boot ∧
    (∀ a, (s.updCmd c g).word a = s.word a) ∧ (∀ f n i, (s.updCmd c g).rd f n i = s.rd f n i) ∧
    (∀ f n i, (s.updCmd c g).flag f n i = s.flag f n i) ∧ (∀ n, (s.updCmd c g).cx n = s.cx n) ∧
    (∀ n, (s.updCmd c g).sp n = s.sp n) ∧ (∀ n, (s.updCmd c g).arr n = s.arr n) ∧
    (∀ n, (s.updCmd c g).port n = s.port n) ∧ (s.updCmd c g).clock = s.clock ∧
    (∀ n, (s.updCmd c g).cxState n = s.cxState n) ∧ (∀ n i, (s.updCmd c g).pread n i = s.pread n i) ∧
    (∀ n, (s.updCmd c g).reelSlot n = s.reelSlot n) :=
  ⟨rfl, rfl, rfl, rfl, rfl, rfl, rfl, rfl, rfl, rfl, rfl, rfl, rfl, rfl, rfl, rfl, rfl, rfl, rfl, rfl, rfl, rfl, rfl,
  rfl, rfl, rfl, rfl, rfl, fun _ => rfl, fun _ _ _ => rfl, fun _ _ _ => rfl, fun _ => rfl, fun _ => rfl, fun _ => rfl,
  fun _ => rfl, rfl, fun _ => rfl, fun _ _ => rfl, fun _ => rfl⟩

@[simp] theorem State.addCmd_keeps (x : Cmd) :
    (s.addCmd x).pending = s.pending ∧ (s.addCmd x).regs = s.regs ∧ (s.addCmd x).mem = s.mem ∧ (s.addCmd x).bad = s.bad ∧ (s.addCmd x).arrs = s.arrs ∧
    (s.addCmd x).sps = s.sps ∧ (s.addCmd x).cxs = s.cxs ∧ (s.addCmd x).nextCmd = s.nextCmd ∧ (s.addCmd x).msgs = s.msgs ∧ (s.addCmd x).nextMsg = s.nextMsg ∧
    (s.addCmd x).colls = s.colls ∧ (s.addCmd x).nextColl = s.nextColl ∧ (s.addCmd x).cast = s.cast ∧ (s.addCmd x).admits = s.admits ∧ (s.addCmd x).builds = s.builds ∧
    (s.addCmd x).ports = s.ports ∧ (s.addCmd x).txWait = s.txWait ∧ (s.addCmd x).nt = s.nt ∧ (s.addCmd x).pwr = s.pwr ∧ (s.addCmd x).dbg = s.dbg ∧
    (s.addCmd x).reel = s.reel ∧ (s.addCmd x).recd = s.recd ∧ (s.addCmd x).outs = s.outs ∧ (s.addCmd x).free = s.free ∧ (s.addCmd x).nonces = s.nonces ∧
    (s.addCmd x).tsu = s.tsu ∧ (s.addCmd x).slice = s.slice ∧ (s.addCmd x).boot = s.boot ∧
    (∀ a, (s.addCmd x).word a = s.word a) ∧ (∀ f n i, (s.addCmd x).rd f n i = s.rd f n i) ∧
    (∀ f n i, (s.addCmd x).flag f n i = s.flag f n i) ∧ (∀ n, (s.addCmd x).cx n = s.cx n) ∧
    (∀ n, (s.addCmd x).sp n = s.sp n) ∧ (∀ n, (s.addCmd x).arr n = s.arr n) ∧
    (∀ n, (s.addCmd x).port n = s.port n) ∧ (s.addCmd x).clock = s.clock ∧
    (∀ n, (s.addCmd x).cxState n = s.cxState n) ∧ (∀ n i, (s.addCmd x).pread n i = s.pread n i) ∧
    (∀ n, (s.addCmd x).reelSlot n = s.reelSlot n) :=
  ⟨rfl, rfl, rfl, rfl, rfl, rfl, rfl, rfl, rfl, rfl, rfl, rfl, rfl, rfl, rfl, rfl, rfl, rfl, rfl, rfl, rfl, rfl, rfl,
  rfl, rfl, rfl, rfl, rfl, fun _ => rfl, fun _ _ _ => rfl, fun _ _ _ => rfl, fun _ => rfl, fun _ => rfl, fun _ => rfl,
  fun _ => rfl, rfl, fun _ => rfl, fun _ _ => rfl, fun _ => rfl⟩

@[simp] theorem State.updMsg_keeps (c : Nat) (g : Msg → Msg) :
    (s.updMsg c g).pending = s.pending ∧ (s.updMsg c g).regs = s.regs ∧ (s.updMsg c g).mem = s.mem ∧ (s.updMsg c g).bad = s.bad ∧ (s.updMsg c g).arrs = s.arrs ∧
    (s.updMsg c g).sps = s.sps ∧ (s.updMsg c g).cxs = s.cxs ∧ (s.updMsg c g).cmds = s.cmds ∧ (s.updMsg c g).nextCmd = s.nextCmd ∧ (s.updMsg c g).nextMsg = s.nextMsg ∧
    (s.updMsg c g).colls = s.colls ∧ (s.updMsg c g).nextColl = s.nextColl ∧ (s.updMsg c g).cast = s.cast ∧ (s.updMsg c g).admits = s.admits ∧ (s.updMsg c g).builds = s.builds ∧
    (s.updMsg c g).ports = s.ports ∧ (s.updMsg c g).txWait = s.txWait ∧ (s.updMsg c g).nt = s.nt ∧ (s.updMsg c g).pwr = s.pwr ∧ (s.updMsg c g).dbg = s.dbg ∧
    (s.updMsg c g).reel = s.reel ∧ (s.updMsg c g).recd = s.recd ∧ (s.updMsg c g).outs = s.outs ∧ (s.updMsg c g).free = s.free ∧ (s.updMsg c g).nonces = s.nonces ∧
    (s.updMsg c g).tsu = s.tsu ∧ (s.updMsg c g).slice = s.slice ∧ (s.updMsg c g).boot = s.boot ∧
    (∀ a, (s.updMsg c g).word a = s.word a) ∧ (∀ f n i, (s.updMsg c g).rd f n i = s.rd f n i) ∧
    (∀ f n i, (s.updMsg c g).flag f n i = s.flag f n i) ∧ (∀ n, (s.updMsg c g).cx n = s.cx n) ∧
    (∀ n, (s.updMsg c g).sp n = s.sp n) ∧ (∀ n, (s.updMsg c g).arr n = s.arr n) ∧
    (∀ n, (s.updMsg c g).port n = s.port n) ∧ (s.updMsg c g).clock = s.clock ∧
    (∀ n, (s.updMsg c g).cmd? n = s.cmd? n) ∧ (∀ n, (s.updMsg c g).cxState n = s.cxState n) ∧
    (∀ n i, (s.updMsg c g).pread n i = s.pread n i) ∧ (∀ n, (s.updMsg c g).reelSlot n = s.reelSlot n) :=
  ⟨rfl, rfl, rfl, rfl, rfl, rfl, rfl, rfl, rfl, rfl, rfl, rfl, rfl, rfl, rfl, rfl, rfl, rfl, rfl, rfl, rfl, rfl, rfl,
  rfl, rfl, rfl, rfl, rfl, fun _ => rfl, fun _ _ _ => rfl, fun _ _ _ => rfl, fun _ => rfl, fun _ => rfl, fun _ => rfl,
  fun _ => rfl, rfl, fun _ => rfl, fun _ => rfl, fun _ _ => rfl, fun _ => rfl⟩

@[simp] theorem State.emit_keeps (o : Out) :
    (s.emit o).pending = s.pending ∧ (s.emit o).regs = s.regs ∧ (s.emit o).mem = s.mem ∧ (s.emit o).bad = s.bad ∧ (s.emit o).arrs = s.arrs ∧
    (s.emit o).sps = s.sps ∧ (s.emit o).cxs = s.cxs ∧ (s.emit o).cmds = s.cmds ∧ (s.emit o).nextCmd = s.nextCmd ∧ (s.emit o).msgs = s.msgs ∧
    (s.emit o).nextMsg = s.nextMsg ∧ (s.emit o).colls = s.colls ∧ (s.emit o).nextColl = s.nextColl ∧ (s.emit o).cast = s.cast ∧ (s.emit o).admits = s.admits ∧
    (s.emit o).builds = s.builds ∧ (s.emit o).ports = s.ports ∧ (s.emit o).txWait = s.txWait ∧ (s.emit o).nt = s.nt ∧ (s.emit o).pwr = s.pwr ∧
    (s.emit o).dbg = s.dbg ∧ (s.emit o).reel = s.reel ∧ (s.emit o).recd = s.recd ∧ (s.emit o).free = s.free ∧ (s.emit o).nonces = s.nonces ∧
    (s.emit o).tsu = s.tsu ∧ (s.emit o).slice = s.slice ∧ (s.emit o).boot = s.boot ∧
    (∀ a, (s.emit o).word a = s.word a) ∧ (∀ f n i, (s.emit o).rd f n i = s.rd f n i) ∧
    (∀ f n i, (s.emit o).flag f n i = s.flag f n i) ∧ (∀ n, (s.emit o).cx n = s.cx n) ∧
    (∀ n, (s.emit o).sp n = s.sp n) ∧ (∀ n, (s.emit o).arr n = s.arr n) ∧
    (∀ n, (s.emit o).port n = s.port n) ∧ (s.emit o).clock = s.clock ∧
    (∀ n, (s.emit o).cmd? n = s.cmd? n) ∧ (∀ n, (s.emit o).cxState n = s.cxState n) ∧
    (∀ n i, (s.emit o).pread n i = s.pread n i) ∧ (∀ n, (s.emit o).reelSlot n = s.reelSlot n) :=
  ⟨rfl, rfl, rfl, rfl, rfl, rfl, rfl, rfl, rfl, rfl, rfl, rfl, rfl, rfl, rfl, rfl, rfl, rfl, rfl, rfl, rfl, rfl, rfl,
  rfl, rfl, rfl, rfl, rfl, fun _ => rfl, fun _ _ _ => rfl, fun _ _ _ => rfl, fun _ => rfl, fun _ => rfl, fun _ => rfl,
  fun _ => rfl, rfl, fun _ => rfl, fun _ => rfl, fun _ _ => rfl, fun _ => rfl⟩

@[simp] theorem State.sendFrames_keeps (l : List Frame) :
    (s.sendFrames l).pending = s.pending ∧ (s.sendFrames l).regs = s.regs ∧ (s.sendFrames l).mem = s.mem ∧ (s.sendFrames l).bad = s.bad ∧ (s.sendFrames l).arrs = s.arrs ∧
    (s.sendFrames l).sps = s.sps ∧ (s.sendFrames l).cxs = s.cxs ∧ (s.sendFrames l).cmds = s.cmds ∧ (s.sendFrames l).nextCmd = s.nextCmd ∧ (s.sendFrames l).msgs = s.msgs ∧
    (s.sendFrames l).nextMsg = s.nextMsg ∧ (s.sendFrames l).colls = s.colls ∧ (s.sendFrames l).nextColl = s.nextColl ∧ (s.sendFrames l).cast = s.cast ∧ (s.sendFrames l).admits = s.admits ∧
    (s.sendFrames l).builds = s.builds ∧ (s.sendFrames l).ports = s.ports ∧ (s.sendFrames l).nt = s.nt ∧ (s.sendFrames l).pwr = s.pwr ∧ (s.sendFrames l).dbg = s.dbg ∧
    (s.sendFrames l).reel = s.reel ∧ (s.sendFrames l).recd = s.recd ∧ (s.sendFrames l).outs = s.outs ∧ (s.sendFrames l).free = s.free ∧ (s.sendFrames l).nonces = s.nonces ∧
    (s.sendFrames l).tsu = s.tsu ∧ (s.sendFrames l).slice = s.slice ∧ (s.sendFrames l).boot = s.boot ∧
    (∀ a, (s.sendFrames l).word a = s.word a) ∧ (∀ f n i, (s.sendFrames l).rd f n i = s.rd f n i) ∧
    (∀ f n i, (s.sendFrames l).flag f n i = s.flag f n i) ∧ (∀ n, (s.sendFrames l).cx n = s.cx n) ∧
    (∀ n, (s.sendFrames l).sp n = s.sp n) ∧ (∀ n, (s.sendFrames l).arr n = s.arr n) ∧
    (∀ n, (s.sendFrames l).port n = s.port n) ∧ (s.sendFrames l).clock = s.clock ∧
    (∀ n, (s.sendFrames l).cmd? n = s.cmd? n) ∧ (∀ n, (s.sendFrames l).cxState n = s.cxState n) ∧
    (∀ n i, (s.sendFrames l).pread n i = s.pread n i) ∧ (∀ n, (s.sendFrames l).reelSlot n = s.reelSlot n) :=
  ⟨rfl, rfl, rfl, rfl, rfl, rfl, rfl, rfl, rfl, rfl, rfl, rfl, rfl, rfl, rfl, rfl, rfl, rfl, rfl, rfl, rfl, rfl, rfl,
  rfl, rfl, rfl, rfl, rfl, fun _ => rfl, fun _ _ _ => rfl, fun _ _ _ => rfl, fun _ => rfl, fun _ => rfl, fun _ => rfl,
  fun _ => rfl, rfl, fun _ => rfl, fun _ => rfl, fun _ _ => rfl, fun _ => rfl⟩

@[simp] theorem State.setReelSlot_keeps (c : Nat) (v : BitVec 512) :
    (s.setReelSlot c v).pending = s.pending ∧ (s.setReelSlot c v).regs = s.regs ∧ (s.setReelSlot c v).mem = s.mem ∧ (s.setReelSlot c v).bad = s.bad ∧ (s.setReelSlot c v).arrs = s.arrs ∧
    (s.setReelSlot c v).sps = s.sps ∧ (s.setReelSlot c v).cxs = s.cxs ∧ (s.setReelSlot c v).cmds = s.cmds ∧ (s.setReelSlot c v).nextCmd = s.nextCmd ∧ (s.setReelSlot c v).msgs = s.msgs ∧
    (s.setReelSlot c v).nextMsg = s.nextMsg ∧ (s.setReelSlot c v).colls = s.colls ∧ (s.setReelSlot c v).nextColl = s.nextColl ∧ (s.setReelSlot c v).cast = s.cast ∧ (s.setReelSlot c v).admits = s.admits ∧
    (s.setReelSlot c v).builds = s.builds ∧ (s.setReelSlot c v).ports = s.ports ∧ (s.setReelSlot c v).txWait = s.txWait ∧ (s.setReelSlot c v).nt = s.nt ∧ (s.setReelSlot c v).pwr = s.pwr ∧
    (s.setReelSlot c v).dbg = s.dbg ∧ (s.setReelSlot c v).recd = s.recd ∧ (s.setReelSlot c v).outs = s.outs ∧ (s.setReelSlot c v).free = s.free ∧ (s.setReelSlot c v).nonces = s.nonces ∧
    (s.setReelSlot c v).tsu = s.tsu ∧ (s.setReelSlot c v).slice = s.slice ∧ (s.setReelSlot c v).boot = s.boot ∧
    (∀ a, (s.setReelSlot c v).word a = s.word a) ∧ (∀ f n i, (s.setReelSlot c v).rd f n i = s.rd f n i) ∧
    (∀ f n i, (s.setReelSlot c v).flag f n i = s.flag f n i) ∧ (∀ n, (s.setReelSlot c v).cx n = s.cx n) ∧
    (∀ n, (s.setReelSlot c v).sp n = s.sp n) ∧ (∀ n, (s.setReelSlot c v).arr n = s.arr n) ∧
    (∀ n, (s.setReelSlot c v).port n = s.port n) ∧ (s.setReelSlot c v).clock = s.clock ∧
    (∀ n, (s.setReelSlot c v).cmd? n = s.cmd? n) ∧ (∀ n, (s.setReelSlot c v).cxState n = s.cxState n) ∧
    (∀ n i, (s.setReelSlot c v).pread n i = s.pread n i) :=
  ⟨rfl, rfl, rfl, rfl, rfl, rfl, rfl, rfl, rfl, rfl, rfl, rfl, rfl, rfl, rfl, rfl, rfl, rfl, rfl, rfl, rfl, rfl, rfl,
  rfl, rfl, rfl, rfl, rfl, fun _ => rfl, fun _ _ _ => rfl, fun _ _ _ => rfl, fun _ => rfl, fun _ => rfl, fun _ => rfl,
  fun _ => rfl, rfl, fun _ => rfl, fun _ => rfl, fun _ _ => rfl⟩

@[simp] theorem State.updDbg_keeps (g : Dbg → Dbg) :
    (s.updDbg g).pending = s.pending ∧ (s.updDbg g).regs = s.regs ∧ (s.updDbg g).mem = s.mem ∧ (s.updDbg g).bad = s.bad ∧ (s.updDbg g).arrs = s.arrs ∧
    (s.updDbg g).sps = s.sps ∧ (s.updDbg g).cxs = s.cxs ∧ (s.updDbg g).cmds = s.cmds ∧ (s.updDbg g).nextCmd = s.nextCmd ∧ (s.updDbg g).msgs = s.msgs ∧
    (s.updDbg g).nextMsg = s.nextMsg ∧ (s.updDbg g).colls = s.colls ∧ (s.updDbg g).nextColl = s.nextColl ∧ (s.updDbg g).cast = s.cast ∧ (s.updDbg g).admits = s.admits ∧
    (s.updDbg g).builds = s.builds ∧ (s.updDbg g).ports = s.ports ∧ (s.updDbg g).txWait = s.txWait ∧ (s.updDbg g).nt = s.nt ∧ (s.updDbg g).pwr = s.pwr ∧
    (s.updDbg g).reel = s.reel ∧ (s.updDbg g).recd = s.recd ∧ (s.updDbg g).outs = s.outs ∧ (s.updDbg g).free = s.free ∧ (s.updDbg g).nonces = s.nonces ∧
    (s.updDbg g).tsu = s.tsu ∧ (s.updDbg g).slice = s.slice ∧ (s.updDbg g).boot = s.boot ∧
    (∀ a, (s.updDbg g).word a = s.word a) ∧ (∀ f n i, (s.updDbg g).rd f n i = s.rd f n i) ∧
    (∀ f n i, (s.updDbg g).flag f n i = s.flag f n i) ∧ (∀ n, (s.updDbg g).cx n = s.cx n) ∧
    (∀ n, (s.updDbg g).sp n = s.sp n) ∧ (∀ n, (s.updDbg g).arr n = s.arr n) ∧
    (∀ n, (s.updDbg g).port n = s.port n) ∧ (s.updDbg g).clock = s.clock ∧
    (∀ n, (s.updDbg g).cmd? n = s.cmd? n) ∧ (∀ n, (s.updDbg g).cxState n = s.cxState n) ∧
    (∀ n i, (s.updDbg g).pread n i = s.pread n i) ∧ (∀ n, (s.updDbg g).reelSlot n = s.reelSlot n) :=
  ⟨rfl, rfl, rfl, rfl, rfl, rfl, rfl, rfl, rfl, rfl, rfl, rfl, rfl, rfl, rfl, rfl, rfl, rfl, rfl, rfl, rfl, rfl, rfl,
  rfl, rfl, rfl, rfl, rfl, fun _ => rfl, fun _ _ _ => rfl, fun _ _ _ => rfl, fun _ => rfl, fun _ => rfl, fun _ => rfl,
  fun _ => rfl, rfl, fun _ => rfl, fun _ => rfl, fun _ _ => rfl, fun _ => rfl⟩

@[simp] theorem State.updRec_keeps (g : Rec → Rec) :
    (s.updRec g).pending = s.pending ∧ (s.updRec g).regs = s.regs ∧ (s.updRec g).mem = s.mem ∧ (s.updRec g).bad = s.bad ∧ (s.updRec g).arrs = s.arrs ∧
    (s.updRec g).sps = s.sps ∧ (s.updRec g).cxs = s.cxs ∧ (s.updRec g).cmds = s.cmds ∧ (s.updRec g).nextCmd = s.nextCmd ∧ (s.updRec g).msgs = s.msgs ∧
    (s.updRec g).nextMsg = s.nextMsg ∧ (s.updRec g).colls = s.colls ∧ (s.updRec g).nextColl = s.nextColl ∧ (s.updRec g).cast = s.cast ∧ (s.updRec g).admits = s.admits ∧
    (s.updRec g).builds = s.builds ∧ (s.updRec g).ports = s.ports ∧ (s.updRec g).txWait = s.txWait ∧ (s.updRec g).nt = s.nt ∧ (s.updRec g).pwr = s.pwr ∧
    (s.updRec g).dbg = s.dbg ∧ (s.updRec g).reel = s.reel ∧ (s.updRec g).outs = s.outs ∧ (s.updRec g).free = s.free ∧ (s.updRec g).nonces = s.nonces ∧
    (s.updRec g).tsu = s.tsu ∧ (s.updRec g).slice = s.slice ∧ (s.updRec g).boot = s.boot ∧
    (∀ a, (s.updRec g).word a = s.word a) ∧ (∀ f n i, (s.updRec g).rd f n i = s.rd f n i) ∧
    (∀ f n i, (s.updRec g).flag f n i = s.flag f n i) ∧ (∀ n, (s.updRec g).cx n = s.cx n) ∧
    (∀ n, (s.updRec g).sp n = s.sp n) ∧ (∀ n, (s.updRec g).arr n = s.arr n) ∧
    (∀ n, (s.updRec g).port n = s.port n) ∧ (s.updRec g).clock = s.clock ∧
    (∀ n, (s.updRec g).cmd? n = s.cmd? n) ∧ (∀ n, (s.updRec g).cxState n = s.cxState n) ∧
    (∀ n i, (s.updRec g).pread n i = s.pread n i) ∧ (∀ n, (s.updRec g).reelSlot n = s.reelSlot n) :=
  ⟨rfl, rfl, rfl, rfl, rfl, rfl, rfl, rfl, rfl, rfl, rfl, rfl, rfl, rfl, rfl, rfl, rfl, rfl, rfl, rfl, rfl, rfl, rfl,
  rfl, rfl, rfl, rfl, rfl, fun _ => rfl, fun _ _ _ => rfl, fun _ _ _ => rfl, fun _ => rfl, fun _ => rfl, fun _ => rfl,
  fun _ => rfl, rfl, fun _ => rfl, fun _ => rfl, fun _ _ => rfl, fun _ => rfl⟩

@[simp] theorem State.updTsu_keeps (g : Tsu → Tsu) :
    (s.updTsu g).pending = s.pending ∧ (s.updTsu g).regs = s.regs ∧ (s.updTsu g).mem = s.mem ∧ (s.updTsu g).bad = s.bad ∧ (s.updTsu g).arrs = s.arrs ∧
    (s.updTsu g).sps = s.sps ∧ (s.updTsu g).cxs = s.cxs ∧ (s.updTsu g).cmds = s.cmds ∧ (s.updTsu g).nextCmd = s.nextCmd ∧ (s.updTsu g).msgs = s.msgs ∧
    (s.updTsu g).nextMsg = s.nextMsg ∧ (s.updTsu g).colls = s.colls ∧ (s.updTsu g).nextColl = s.nextColl ∧ (s.updTsu g).cast = s.cast ∧ (s.updTsu g).admits = s.admits ∧
    (s.updTsu g).builds = s.builds ∧ (s.updTsu g).ports = s.ports ∧ (s.updTsu g).txWait = s.txWait ∧ (s.updTsu g).nt = s.nt ∧ (s.updTsu g).pwr = s.pwr ∧
    (s.updTsu g).dbg = s.dbg ∧ (s.updTsu g).reel = s.reel ∧ (s.updTsu g).recd = s.recd ∧ (s.updTsu g).outs = s.outs ∧ (s.updTsu g).free = s.free ∧
    (s.updTsu g).nonces = s.nonces ∧ (s.updTsu g).slice = s.slice ∧ (s.updTsu g).boot = s.boot ∧
    (∀ a, (s.updTsu g).word a = s.word a) ∧ (∀ f n i, (s.updTsu g).rd f n i = s.rd f n i) ∧
    (∀ f n i, (s.updTsu g).flag f n i = s.flag f n i) ∧ (∀ n, (s.updTsu g).cx n = s.cx n) ∧
    (∀ n, (s.updTsu g).sp n = s.sp n) ∧ (∀ n, (s.updTsu g).arr n = s.arr n) ∧
    (∀ n, (s.updTsu g).port n = s.port n) ∧ (∀ n, (s.updTsu g).cmd? n = s.cmd? n) ∧
    (∀ n, (s.updTsu g).cxState n = s.cxState n) ∧ (∀ n i, (s.updTsu g).pread n i = s.pread n i) ∧
    (∀ n, (s.updTsu g).reelSlot n = s.reelSlot n) :=
  ⟨rfl, rfl, rfl, rfl, rfl, rfl, rfl, rfl, rfl, rfl, rfl, rfl, rfl, rfl, rfl, rfl, rfl, rfl, rfl, rfl, rfl, rfl, rfl,
  rfl, rfl, rfl, rfl, rfl, fun _ => rfl, fun _ _ _ => rfl, fun _ _ _ => rfl, fun _ => rfl, fun _ => rfl, fun _ => rfl,
  fun _ => rfl, fun _ => rfl, fun _ => rfl, fun _ _ => rfl, fun _ => rfl⟩

@[simp] theorem State.updSlice_keeps (g : Slice → Slice) :
    (s.updSlice g).pending = s.pending ∧ (s.updSlice g).regs = s.regs ∧ (s.updSlice g).mem = s.mem ∧ (s.updSlice g).bad = s.bad ∧ (s.updSlice g).arrs = s.arrs ∧
    (s.updSlice g).sps = s.sps ∧ (s.updSlice g).cxs = s.cxs ∧ (s.updSlice g).cmds = s.cmds ∧ (s.updSlice g).nextCmd = s.nextCmd ∧ (s.updSlice g).msgs = s.msgs ∧
    (s.updSlice g).nextMsg = s.nextMsg ∧ (s.updSlice g).colls = s.colls ∧ (s.updSlice g).nextColl = s.nextColl ∧ (s.updSlice g).cast = s.cast ∧ (s.updSlice g).admits = s.admits ∧
    (s.updSlice g).builds = s.builds ∧ (s.updSlice g).ports = s.ports ∧ (s.updSlice g).txWait = s.txWait ∧ (s.updSlice g).nt = s.nt ∧ (s.updSlice g).pwr = s.pwr ∧
    (s.updSlice g).dbg = s.dbg ∧ (s.updSlice g).reel = s.reel ∧ (s.updSlice g).recd = s.recd ∧ (s.updSlice g).outs = s.outs ∧ (s.updSlice g).free = s.free ∧
    (s.updSlice g).nonces = s.nonces ∧ (s.updSlice g).tsu = s.tsu ∧ (s.updSlice g).boot = s.boot ∧
    (∀ a, (s.updSlice g).word a = s.word a) ∧ (∀ f n i, (s.updSlice g).rd f n i = s.rd f n i) ∧
    (∀ f n i, (s.updSlice g).flag f n i = s.flag f n i) ∧ (∀ n, (s.updSlice g).cx n = s.cx n) ∧
    (∀ n, (s.updSlice g).sp n = s.sp n) ∧ (∀ n, (s.updSlice g).arr n = s.arr n) ∧
    (∀ n, (s.updSlice g).port n = s.port n) ∧ (s.updSlice g).clock = s.clock ∧
    (∀ n, (s.updSlice g).cmd? n = s.cmd? n) ∧ (∀ n, (s.updSlice g).cxState n = s.cxState n) ∧
    (∀ n i, (s.updSlice g).pread n i = s.pread n i) ∧ (∀ n, (s.updSlice g).reelSlot n = s.reelSlot n) :=
  ⟨rfl, rfl, rfl, rfl, rfl, rfl, rfl, rfl, rfl, rfl, rfl, rfl, rfl, rfl, rfl, rfl, rfl, rfl, rfl, rfl, rfl, rfl, rfl,
  rfl, rfl, rfl, rfl, rfl, fun _ => rfl, fun _ _ _ => rfl, fun _ _ _ => rfl, fun _ => rfl, fun _ => rfl, fun _ => rfl,
  fun _ => rfl, rfl, fun _ => rfl, fun _ => rfl, fun _ _ => rfl, fun _ => rfl⟩

@[simp] theorem State.updBoot_keeps (g : Boot → Boot) :
    (s.updBoot g).pending = s.pending ∧ (s.updBoot g).regs = s.regs ∧ (s.updBoot g).mem = s.mem ∧ (s.updBoot g).bad = s.bad ∧ (s.updBoot g).arrs = s.arrs ∧
    (s.updBoot g).sps = s.sps ∧ (s.updBoot g).cxs = s.cxs ∧ (s.updBoot g).cmds = s.cmds ∧ (s.updBoot g).nextCmd = s.nextCmd ∧ (s.updBoot g).msgs = s.msgs ∧
    (s.updBoot g).nextMsg = s.nextMsg ∧ (s.updBoot g).colls = s.colls ∧ (s.updBoot g).nextColl = s.nextColl ∧ (s.updBoot g).cast = s.cast ∧ (s.updBoot g).admits = s.admits ∧
    (s.updBoot g).builds = s.builds ∧ (s.updBoot g).ports = s.ports ∧ (s.updBoot g).txWait = s.txWait ∧ (s.updBoot g).nt = s.nt ∧ (s.updBoot g).pwr = s.pwr ∧
    (s.updBoot g).dbg = s.dbg ∧ (s.updBoot g).reel = s.reel ∧ (s.updBoot g).recd = s.recd ∧ (s.updBoot g).outs = s.outs ∧ (s.updBoot g).free = s.free ∧
    (s.updBoot g).nonces = s.nonces ∧ (s.updBoot g).tsu = s.tsu ∧ (s.updBoot g).slice = s.slice ∧
    (∀ a, (s.updBoot g).word a = s.word a) ∧ (∀ f n i, (s.updBoot g).rd f n i = s.rd f n i) ∧
    (∀ f n i, (s.updBoot g).flag f n i = s.flag f n i) ∧ (∀ n, (s.updBoot g).cx n = s.cx n) ∧
    (∀ n, (s.updBoot g).sp n = s.sp n) ∧ (∀ n, (s.updBoot g).arr n = s.arr n) ∧
    (∀ n, (s.updBoot g).port n = s.port n) ∧ (s.updBoot g).clock = s.clock ∧
    (∀ n, (s.updBoot g).cmd? n = s.cmd? n) ∧ (∀ n, (s.updBoot g).cxState n = s.cxState n) ∧
    (∀ n i, (s.updBoot g).pread n i = s.pread n i) ∧ (∀ n, (s.updBoot g).reelSlot n = s.reelSlot n) :=
  ⟨rfl, rfl, rfl, rfl, rfl, rfl, rfl, rfl, rfl, rfl, rfl, rfl, rfl, rfl, rfl, rfl, rfl, rfl, rfl, rfl, rfl, rfl, rfl,
  rfl, rfl, rfl, rfl, rfl, fun _ => rfl, fun _ _ _ => rfl, fun _ _ _ => rfl, fun _ => rfl, fun _ => rfl, fun _ => rfl,
  fun _ => rfl, rfl, fun _ => rfl, fun _ => rfl, fun _ _ => rfl, fun _ => rfl⟩

@[simp] theorem State.updNt_keeps (g : Tiers → Tiers) :
    (s.updNt g).pending = s.pending ∧ (s.updNt g).regs = s.regs ∧ (s.updNt g).mem = s.mem ∧ (s.updNt g).bad = s.bad ∧ (s.updNt g).arrs = s.arrs ∧
    (s.updNt g).sps = s.sps ∧ (s.updNt g).cxs = s.cxs ∧ (s.updNt g).cmds = s.cmds ∧ (s.updNt g).nextCmd = s.nextCmd ∧ (s.updNt g).msgs = s.msgs ∧
    (s.updNt g).nextMsg = s.nextMsg ∧ (s.updNt g).colls = s.colls ∧ (s.updNt g).nextColl = s.nextColl ∧ (s.updNt g).cast = s.cast ∧ (s.updNt g).admits = s.admits ∧
    (s.updNt g).builds = s.builds ∧ (s.updNt g).ports = s.ports ∧ (s.updNt g).txWait = s.txWait ∧ (s.updNt g).pwr = s.pwr ∧ (s.updNt g).dbg = s.dbg ∧
    (s.updNt g).reel = s.reel ∧ (s.updNt g).recd = s.recd ∧ (s.updNt g).outs = s.outs ∧ (s.updNt g).free = s.free ∧ (s.updNt g).nonces = s.nonces ∧
    (s.updNt g).tsu = s.tsu ∧ (s.updNt g).slice = s.slice ∧ (s.updNt g).boot = s.boot ∧
    (∀ a, (s.updNt g).word a = s.word a) ∧ (∀ f n i, (s.updNt g).rd f n i = s.rd f n i) ∧
    (∀ f n i, (s.updNt g).flag f n i = s.flag f n i) ∧ (∀ n, (s.updNt g).cx n = s.cx n) ∧
    (∀ n, (s.updNt g).sp n = s.sp n) ∧ (∀ n, (s.updNt g).arr n = s.arr n) ∧
    (∀ n, (s.updNt g).port n = s.port n) ∧ (s.updNt g).clock = s.clock ∧
    (∀ n, (s.updNt g).cmd? n = s.cmd? n) ∧ (∀ n, (s.updNt g).cxState n = s.cxState n) ∧
    (∀ n i, (s.updNt g).pread n i = s.pread n i) ∧ (∀ n, (s.updNt g).reelSlot n = s.reelSlot n) :=
  ⟨rfl, rfl, rfl, rfl, rfl, rfl, rfl, rfl, rfl, rfl, rfl, rfl, rfl, rfl, rfl, rfl, rfl, rfl, rfl, rfl, rfl, rfl, rfl,
  rfl, rfl, rfl, rfl, rfl, fun _ => rfl, fun _ _ _ => rfl, fun _ _ _ => rfl, fun _ => rfl, fun _ => rfl, fun _ => rfl,
  fun _ => rfl, rfl, fun _ => rfl, fun _ => rfl, fun _ _ => rfl, fun _ => rfl⟩

@[simp] theorem State.updPwr_keeps (g : Pwr → Pwr) :
    (s.updPwr g).pending = s.pending ∧ (s.updPwr g).regs = s.regs ∧ (s.updPwr g).mem = s.mem ∧ (s.updPwr g).bad = s.bad ∧ (s.updPwr g).arrs = s.arrs ∧
    (s.updPwr g).sps = s.sps ∧ (s.updPwr g).cxs = s.cxs ∧ (s.updPwr g).cmds = s.cmds ∧ (s.updPwr g).nextCmd = s.nextCmd ∧ (s.updPwr g).msgs = s.msgs ∧
    (s.updPwr g).nextMsg = s.nextMsg ∧ (s.updPwr g).colls = s.colls ∧ (s.updPwr g).nextColl = s.nextColl ∧ (s.updPwr g).cast = s.cast ∧ (s.updPwr g).admits = s.admits ∧
    (s.updPwr g).builds = s.builds ∧ (s.updPwr g).ports = s.ports ∧ (s.updPwr g).txWait = s.txWait ∧ (s.updPwr g).nt = s.nt ∧ (s.updPwr g).dbg = s.dbg ∧
    (s.updPwr g).reel = s.reel ∧ (s.updPwr g).recd = s.recd ∧ (s.updPwr g).outs = s.outs ∧ (s.updPwr g).free = s.free ∧ (s.updPwr g).nonces = s.nonces ∧
    (s.updPwr g).tsu = s.tsu ∧ (s.updPwr g).slice = s.slice ∧ (s.updPwr g).boot = s.boot ∧
    (∀ a, (s.updPwr g).word a = s.word a) ∧ (∀ f n i, (s.updPwr g).rd f n i = s.rd f n i) ∧
    (∀ f n i, (s.updPwr g).flag f n i = s.flag f n i) ∧ (∀ n, (s.updPwr g).cx n = s.cx n) ∧
    (∀ n, (s.updPwr g).sp n = s.sp n) ∧ (∀ n, (s.updPwr g).arr n = s.arr n) ∧
    (∀ n, (s.updPwr g).port n = s.port n) ∧ (s.updPwr g).clock = s.clock ∧
    (∀ n, (s.updPwr g).cmd? n = s.cmd? n) ∧ (∀ n, (s.updPwr g).cxState n = s.cxState n) ∧
    (∀ n i, (s.updPwr g).pread n i = s.pread n i) ∧ (∀ n, (s.updPwr g).reelSlot n = s.reelSlot n) :=
  ⟨rfl, rfl, rfl, rfl, rfl, rfl, rfl, rfl, rfl, rfl, rfl, rfl, rfl, rfl, rfl, rfl, rfl, rfl, rfl, rfl, rfl, rfl, rfl,
  rfl, rfl, rfl, rfl, rfl, fun _ => rfl, fun _ _ _ => rfl, fun _ _ _ => rfl, fun _ => rfl, fun _ => rfl, fun _ => rfl,
  fun _ => rfl, rfl, fun _ => rfl, fun _ => rfl, fun _ _ => rfl, fun _ => rfl⟩

@[simp] theorem State.setWord_regs (a : Nat) (w : BitVec 64) : (s.setWord a w).regs = smPut resetWord s.regs a w := rfl

@[simp] theorem State.addCmd_cmds (x : Cmd) : (s.addCmd x).cmds = s.cmds ++ [x] := rfl

@[simp] theorem State.updCmd_cmds (c : Nat) (g : Cmd → Cmd) : (s.updCmd c g).cmds = replaceFirst (fun x => x.id == c) g s.cmds := rfl

@[simp] theorem State.updMsg_msgs (c : Nat) (g : Msg → Msg) : (s.updMsg c g).msgs = replaceFirst (fun x => x.id == c) g s.msgs := rfl

@[simp] theorem State.emit_outs (o : Out) : (s.emit o).outs = s.outs ++ [o] := rfl

@[simp] theorem State.sendFrames_txWait (l : List Frame) : (s.sendFrames l).txWait = s.txWait ++ l := rfl

@[simp] theorem State.setReelSlot_reel (c : Nat) (v : BitVec 512) : (s.setReelSlot c v).reel = smPut reelDefault s.reel c v := rfl

@[simp] theorem State.updDbg_dbg (g : Dbg → Dbg) : (s.updDbg g).dbg = g s.dbg := rfl

@[simp] theorem State.updRec_recd (g : Rec → Rec) : (s.updRec g).recd = g s.recd := rfl

@[simp] theorem State.updTsu_tsu (g : Tsu → Tsu) : (s.updTsu g).tsu = g s.tsu := rfl

@[simp] theorem State.updSlice_slice (g : Slice → Slice) : (s.updSlice g).slice = g s.slice := rfl

@[simp] theorem State.updBoot_boot (g : Boot → Boot) : (s.updBoot g).boot = g s.boot := rfl

@[simp] theorem State.updNt_nt (g : Tiers → Tiers) : (s.updNt g).nt = g s.nt := rfl

@[simp] theorem State.updPwr_pwr (g : Pwr → Pwr) : (s.updPwr g).pwr = g s.pwr := rfl

/-- An engine that was changed, and the others, which were not. -/
theorem State.updCx_cx (n m : Nat) (g : Ctx → Ctx) :
    (s.updCx n g).cx m = if m % 16 = n % 16 then g (s.cx n) else s.cx m := by
  have hm : m % 16 < 16 := Nat.mod_lt m (by decide)
  show (s.cxs.set (n % 16) (g (s.cx n)) (Nat.mod_lt n (by decide)))[m % 16]'hm = _
  rw [Vector.getElem_set]
  by_cases h : n % 16 = m % 16
  · rw [if_pos h, if_pos h.symm]
  · rw [if_neg h, if_neg (Ne.symm h)]
    rfl

@[simp] theorem State.updCx_cx_same (n : Nat) (g : Ctx → Ctx) : (s.updCx n g).cx n = g (s.cx n) := by
  rw [State.updCx_cx, if_pos rfl]

/-- An engine that was changed, and the others, which were not. -/
theorem State.updSp_sp (n m : Nat) (g : Spu → Spu) :
    (s.updSp n g).sp m = if m % 32 = n % 32 then g (s.sp n) else s.sp m := by
  have hm : m % 32 < 32 := Nat.mod_lt m (by decide)
  show (s.sps.set (n % 32) (g (s.sp n)) (Nat.mod_lt n (by decide)))[m % 32]'hm = _
  rw [Vector.getElem_set]
  by_cases h : n % 32 = m % 32
  · rw [if_pos h, if_pos h.symm]
  · rw [if_neg h, if_neg (Ne.symm h)]
    rfl

@[simp] theorem State.updSp_sp_same (n : Nat) (g : Spu → Spu) : (s.updSp n g).sp n = g (s.sp n) := by
  rw [State.updSp_sp, if_pos rfl]

/-- An engine that was changed, and the others, which were not. -/
theorem State.updArr_arr (n m : Nat) (g : Arr → Arr) :
    (s.updArr n g).arr m = if m % 8 = n % 8 then g (s.arr n) else s.arr m := by
  have hm : m % 8 < 8 := Nat.mod_lt m (by decide)
  show (s.arrs.set (n % 8) (g (s.arr n)) (Nat.mod_lt n (by decide)))[m % 8]'hm = _
  rw [Vector.getElem_set]
  by_cases h : n % 8 = m % 8
  · rw [if_pos h, if_pos h.symm]
  · rw [if_neg h, if_neg (Ne.symm h)]
    rfl

@[simp] theorem State.updArr_arr_same (n : Nat) (g : Arr → Arr) : (s.updArr n g).arr n = g (s.arr n) := by
  rw [State.updArr_arr, if_pos rfl]

/-- An engine that was changed, and the others, which were not. -/
theorem State.updPort_port (n m : Nat) (g : Port → Port) :
    (s.updPort n g).port m = if m % 18 = n % 18 then g (s.port n) else s.port m := by
  have hm : m % 18 < 18 := Nat.mod_lt m (by decide)
  show (s.ports.set (n % 18) (g (s.port n)) (Nat.mod_lt n (by decide)))[m % 18]'hm = _
  rw [Vector.getElem_set]
  by_cases h : n % 18 = m % 18
  · rw [if_pos h, if_pos h.symm]
  · rw [if_neg h, if_neg (Ne.symm h)]
    rfl

@[simp] theorem State.updPort_port_same (n : Nat) (g : Port → Port) : (s.updPort n g).port n = g (s.port n) := by
  rw [State.updPort_port, if_pos rfl]

end Sys2Proof.Machine
end

