-- ==== Sys2Proof/Laws/Regs.lean ====
section
/-! SUPPORT. Laws of the register map: reading after writing, over a state whose registers are in canonical form. -/

namespace Sys2Proof.Machine

-- The canonical form of the registers is kept by the named operations.

theorem setWord_regsWf {s : State} (h : s.regsWf = true) (a : Nat) (w : BitVec 64) : (s.setWord a w).regsWf = true :=
  smWf_smPut h a w

@[simp] theorem wr_regsWf {s : State} (h : s.regsWf = true) (f : Fld) (v n i : Nat) : (s.wr f v n i).regsWf = true :=
  setWord_regsWf h _ _

@[simp] theorem setFlag_regsWf {s : State} (h : s.regsWf = true) (f : Fld) (b : Bool) (n i : Nat) :
    (s.setFlag f b n i).regsWf = true := wr_regsWf h f _ n i

@[simp] theorem bump_regsWf {s : State} (h : s.regsWf = true) (f : Fld) (k n i : Nat) : (s.bump f k n i).regsWf = true :=
  wr_regsWf h f _ n i

-- Words.

theorem setWord_word_same {s : State} (h : s.regsWf = true) (a : Nat) (w : BitVec 64) : (s.setWord a w).word a = w :=
  smGet_smPut_same h a w

theorem setWord_word_ne {s : State} (h : s.regsWf = true) {a b : Nat} (w : BitVec 64) (hb : b ≠ a) :
    (s.setWord a w).word b = s.word b := smGet_smPut_ne h w hb

-- Where fields stand.

/-- A field fits its register, and every entry of it lies within an instance of its block. -/
def Fld.ok (f : Fld) : Bool :=
  decide (f.lo + f.wid ≤ 64) && decide (f.off + f.sub * (f.cnt - 1) < (if blkStride f.blk = 0 then blkSize f.blk else blkStride f.blk))

/-- Every field of every block's list is in order. -/
theorem fields_ok : ∀ b : Blk, (fieldsOf b).all Fld.ok = true := by
  intro b
  cases b <;> decide +kernel

/-- First address after the instances of a block. -/
def blkEnd (b : Blk) : Nat := blkBase b + (if blkStride b = 0 then blkSize b else blkStride b * blkCount b)

/-- Two blocks do not overlap. -/
theorem blk_disjoint (a b : Blk) (h : a ≠ b) : blkEnd a ≤ blkBase b ∨ blkEnd b ≤ blkBase a := by
  cases a <;> cases b <;> first | exact absurd rfl h | exact Or.inl (by decide) | exact Or.inr (by decide)

theorem addr_lower (f : Fld) (n i : Nat) : blkBase f.blk ≤ f.addr n i := by
  unfold Fld.addr
  omega

theorem addr_upper {f : Fld} (hf : f.ok = true) {n i : Nat} (h : f.has n i) : f.addr n i < blkEnd f.blk := by
  obtain ⟨hn, hi⟩ := h
  simp only [Fld.ok, Bool.and_eq_true, decide_eq_true_eq] at hf
  have h1 : f.sub * i ≤ f.sub * (f.cnt - 1) := Nat.mul_le_mul_left _ (by omega)
  unfold Fld.addr blkEnd
  split
  · next hz =>
    rw [if_pos hz] at hf
    rw [hz]
    omega
  · next hz =>
    rw [if_neg hz] at hf
    have h2 : blkStride f.blk * (n + 1) ≤ blkStride f.blk * blkCount f.blk := Nat.mul_le_mul_left _ hn
    rw [Nat.mul_add] at h2
    omega

/-- Fields of different blocks stand at different addresses. -/
theorem addr_ne_of_blk {f g : Fld} (hb : f.blk ≠ g.blk) (hf : f.ok = true) (hg : g.ok = true) {n i m j : Nat}
    (h : f.has n i) (h' : g.has m j) : g.addr m j ≠ f.addr n i := by
  have := addr_lower f n i
  have := addr_lower g m j
  have := addr_upper hf h
  have := addr_upper hg h'
  rcases blk_disjoint f.blk g.blk hb with e | e <;> omega

-- Fields.

/-- A field just written reads back, in its width. -/
theorem wr_rd_same {s : State} (h : s.regsWf = true) {f : Fld} (hf : f.ok = true) (v n i : Nat) :
    (s.wr f v n i).rd f n i = v % 2 ^ f.wid := by
  simp only [Fld.ok, Bool.and_eq_true, decide_eq_true_eq] at hf
  unfold State.wr State.rd
  rw [setWord_word_same h, bitsAt_putField_same _ _ hf.1]

/-- Writing a field leaves a field of another register as it was. -/
theorem wr_rd_ne {s : State} (h : s.regsWf = true) (f : Fld) {g : Fld} (v n i m j : Nat) (ha : g.addr m j ≠ f.addr n i) :
    (s.wr f v n i).rd g m j = s.rd g m j := by
  unfold State.wr State.rd
  rw [setWord_word_ne h _ ha]

/-- Writing a field leaves the other fields of its register as they were. -/
theorem wr_rd_apart {s : State} (h : s.regsWf = true) {f g : Fld} (hf : f.ok = true) (v n i m j : Nat)
    (ha : apart f.lo f.wid g.lo g.wid = true) : (s.wr f v n i).rd g m j = s.rd g m j := by
  by_cases e : g.addr m j = f.addr n i
  · simp only [Fld.ok, Bool.and_eq_true, decide_eq_true_eq] at hf
    unfold State.wr State.rd
    rw [e, setWord_word_same h, bitsAt_putField_apart _ _ hf.1 ha]
  · exact wr_rd_ne h f v n i m j e

/-- Two fields of one block that never share a bit in one instance: other registers, or other bits. -/
def Fld.away (f g : Fld) : Bool :=
  decide (f.blk = g.blk) && (apart f.lo f.wid g.lo g.wid || (decide (f.sub = 0) && decide (g.sub = 0) && decide (f.off ≠ g.off)))

/-- Writing a field leaves the other fields of its block instance as they were. -/
theorem wr_rd_away {s : State} (h : s.regsWf = true) {f g : Fld} (hf : f.ok = true) (ha : f.away g = true) (v n i j : Nat) :
    (s.wr f v n i).rd g n j = s.rd g n j := by
  simp only [Fld.away, Bool.and_eq_true, Bool.or_eq_true, decide_eq_true_eq] at ha
  obtain ⟨hb, ha | ⟨⟨h1, h2⟩, h3⟩⟩ := ha
  · exact wr_rd_apart h hf v n i n j ha
  · refine wr_rd_ne h f v n i n j ?_
    unfold Fld.addr
    rw [hb, h1, h2]
    omega

/-- Writing a field leaves every other block as it was. -/
theorem wr_rd_blk {s : State} (h : s.regsWf = true) {f g : Fld} (hf : f.ok = true) (hg : g.ok = true) (hb : f.blk ≠ g.blk)
    (v : Nat) {n i m j : Nat} (hn : f.has n i) (hm : g.has m j) : (s.wr f v n i).rd g m j = s.rd g m j :=
  wr_rd_ne h f v n i m j (addr_ne_of_blk hb hf hg hn hm)

/-- The addresses of a field in two instances differ. -/
theorem addr_ne_of_instance {f g : Fld} (hb : f.blk = g.blk) (hf : f.ok = true) (hg : g.ok = true) {n i m j : Nat}
    (hs : blkStride f.blk ≠ 0) (hi : i < f.cnt) (hj : j < g.cnt) (hnm : n ≠ m) : g.addr m j ≠ f.addr n i := by
  simp only [Fld.ok, Bool.and_eq_true, decide_eq_true_eq] at hf hg
  rw [← hb] at hg
  rw [if_neg hs] at hf hg
  have h1 : f.sub * i ≤ f.sub * (f.cnt - 1) := Nat.mul_le_mul_left _ (by omega)
  have h2 : g.sub * j ≤ g.sub * (g.cnt - 1) := Nat.mul_le_mul_left _ (by omega)
  unfold Fld.addr
  rw [← hb]
  rcases Nat.lt_or_gt_of_ne hnm with e | e
  · have h3 : blkStride f.blk * (n + 1) ≤ blkStride f.blk * m := Nat.mul_le_mul_left _ e
    rw [Nat.mul_add] at h3
    omega
  · have h3 : blkStride f.blk * (m + 1) ≤ blkStride f.blk * n := Nat.mul_le_mul_left _ e
    rw [Nat.mul_add] at h3
    omega

/-- Writing a field of one instance leaves every other instance of the block as it was. -/
theorem wr_rd_instance {s : State} (h : s.regsWf = true) {f g : Fld} (hb : f.blk = g.blk) (hf : f.ok = true) (hg : g.ok = true)
    (v : Nat) {n i m j : Nat} (hs : blkStride f.blk ≠ 0) (hi : i < f.cnt) (hj : j < g.cnt) (hnm : n ≠ m) :
    (s.wr f v n i).rd g m j = s.rd g m j := wr_rd_ne h f v n i m j (addr_ne_of_instance hb hf hg hs hi hj hnm)

/-- A flag just written reads back. -/
theorem setFlag_flag_same {s : State} (h : s.regsWf = true) {f : Fld} (hf : f.ok = true) (hw : f.wid = 1) (b : Bool) (n i : Nat) :
    (s.setFlag f b n i).flag f n i = b := by
  unfold State.setFlag State.flag
  rw [wr_rd_same h hf, hw]
  cases b <;> rfl

end Sys2Proof.Machine
end

