-- ==== Sys2Proof/Laws/Reports.lean ====
section
/-! SUPPORT. What reporting can do: counters, rushes and their trigger, interrupts and reel records change the registers of
PMC, DBG, REC and MSIX, the stores of rushes and of the reel, what leaves the block, and nothing else. -/

namespace Sys2Proof.Machine

/-- `t` is `s` after reports. -/
structure Reports (s t : State) : Prop where
  pending : t.pending = s.pending
  arrs : t.arrs = s.arrs
  sps : t.sps = s.sps
  cxs : t.cxs = s.cxs
  cmds : t.cmds = s.cmds
  nextCmd : t.nextCmd = s.nextCmd
  msgs : t.msgs = s.msgs
  nextMsg : t.nextMsg = s.nextMsg
  colls : t.colls = s.colls
  nextColl : t.nextColl = s.nextColl
  cast : t.cast = s.cast
  admits : t.admits = s.admits
  builds : t.builds = s.builds
  ports : t.ports = s.ports
  nt : t.nt = s.nt
  pwr : t.pwr = s.pwr
  free : t.free = s.free
  nonces : t.nonces = s.nonces
  tsu : t.tsu = s.tsu
  slice : t.slice = s.slice
  boot : t.boot = s.boot
  regsWf : s.regsWf = true → t.regsWf = true
  canon : s.canon = true → t.canon = true
  word : s.regsWf = true → ∀ a, reportReg a = false → t.word a = s.word a
  memory : s.regsWf = true → s.noSpill → t.mem = s.mem ∧ t.bad = s.bad ∧ t.noSpill

namespace Reports

theorem refl (s : State) : Reports s s := by
  constructor <;> intros <;> first | rfl | assumption | exact ⟨rfl, rfl, by assumption⟩

theorem trans {s t u : State} (a : Reports s t) (b : Reports t u) : Reports s u where
  pending := b.pending.trans a.pending
  arrs := b.arrs.trans a.arrs
  sps := b.sps.trans a.sps
  cxs := b.cxs.trans a.cxs
  cmds := b.cmds.trans a.cmds
  nextCmd := b.nextCmd.trans a.nextCmd
  msgs := b.msgs.trans a.msgs
  nextMsg := b.nextMsg.trans a.nextMsg
  colls := b.colls.trans a.colls
  nextColl := b.nextColl.trans a.nextColl
  cast := b.cast.trans a.cast
  admits := b.admits.trans a.admits
  builds := b.builds.trans a.builds
  ports := b.ports.trans a.ports
  nt := b.nt.trans a.nt
  pwr := b.pwr.trans a.pwr
  free := b.free.trans a.free
  nonces := b.nonces.trans a.nonces
  tsu := b.tsu.trans a.tsu
  slice := b.slice.trans a.slice
  boot := b.boot.trans a.boot
  regsWf := fun h => b.regsWf (a.regsWf h)
  canon := fun h => b.canon (a.canon h)
  word := fun h x hx => (b.word (a.regsWf h) x hx).trans (a.word h x hx)
  memory := fun h hn =>
    let ha := a.memory h hn
    let hb := b.memory (a.regsWf h) ha.2.2
    ⟨hb.1.trans ha.1, hb.2.1.trans ha.2.1, hb.2.2⟩

theorem ite {s t u : State} {p : Prop} [Decidable p] (a : Reports s t) (b : Reports s u) : Reports s (if p then t else u) := by
  split
  · exact a
  · exact b

end Reports

/-- The parts of the canonical form. -/
theorem canon_iff (s : State) :
    s.canon = true ↔ s.regsWf = true ∧ memWf s.mem = true ∧ smWf reelDefault s.reel = true ∧ smWf rushDefault s.dbg.rush = true := by
  simp [State.canon, Bool.and_eq_true, and_assoc]

/-- A state with the same sparse data is in canonical form if the other is. -/
theorem canon_congr {s t : State} (h1 : t.regs = s.regs) (h2 : t.mem = s.mem) (h3 : t.reel = s.reel) (h4 : t.dbg.rush = s.dbg.rush)
    (h : s.canon = true) : t.canon = true := by
  unfold State.canon State.regsWf at *
  rw [h1, h2, h3, h4]
  exact h

/-- Writing a register word keeps the canonical form. -/
theorem setWord_canon {s : State} (h : s.canon = true) (a : Nat) (w : BitVec 64) : (s.setWord a w).canon = true := by
  rw [canon_iff] at h ⊢
  exact ⟨setWord_regsWf h.1 a w, h.2⟩

@[simp] theorem wr_canon {s : State} (h : s.canon = true) (f : Fld) (v n i : Nat) : (s.wr f v n i).canon = true := setWord_canon h _ _

@[simp] theorem setFlag_canon {s : State} (h : s.canon = true) (f : Fld) (b : Bool) (n i : Nat) : (s.setFlag f b n i).canon = true :=
  wr_canon h f _ n i

@[simp] theorem bump_canon {s : State} (h : s.canon = true) (f : Fld) (k n i : Nat) : (s.bump f k n i).canon = true := wr_canon h f _ n i

theorem canon_regsWf {s : State} (h : s.canon = true) : s.regsWf = true := ((canon_iff s).1 h).1

theorem canon_memWf {s : State} (h : s.canon = true) : memWf s.mem = true := ((canon_iff s).1 h).2.1

/-- Memory operations keep the canonical form. -/
theorem pwrite_canon {s : State} (h : s.canon = true) (a : Nat) (bs : List Byte) : (s.pwrite a bs).canon = true := by
  have hm := pwrite_memWf (canon_memWf h) a bs
  rw [canon_iff] at h ⊢
  refine ⟨?_, hm, ?_⟩
  · have : (s.pwrite a bs).regs = s.regs := by
      unfold State.pwrite
      dsimp only
      split <;> rfl
    unfold State.regsWf
    rw [this]
    exact h.1
  · have h1 : (s.pwrite a bs).reel = s.reel := by
      unfold State.pwrite
      dsimp only
      split <;> rfl
    have h2 : (s.pwrite a bs).dbg = s.dbg := by
      unfold State.pwrite
      dsimp only
      split <;> rfl
    rw [h1, h2]
    exact h.2.2

theorem pwriteNat_canon {s : State} (h : s.canon = true) (a n v : Nat) : (s.pwriteNat a n v).canon = true := pwrite_canon h a _

theorem pcopy_canon {s : State} (h : s.canon = true) (a n b : Nat) : (s.pcopy a n b).canon = true := by
  have hm := pcopy_memWf (canon_memWf h) a n b
  rw [canon_iff] at h ⊢
  exact ⟨h.1, hm, h.2.2⟩

theorem pzero_canon {s : State} (h : s.canon = true) (a n : Nat) : (s.pzero a n).canon = true := by
  have hm := pzero_memWf (canon_memWf h) a n
  rw [canon_iff] at h ⊢
  exact ⟨h.1, hm, h.2.2⟩

theorem setReelSlot_canon {s : State} (h : s.canon = true) (i : Nat) (v : BitVec 512) : (s.setReelSlot i v).canon = true := by
  rw [canon_iff] at h ⊢
  exact ⟨h.1, h.2.1, smWf_smPut h.2.2.1 i v, h.2.2.2⟩

-- What a memory write leaves alone.

@[simp] theorem State.pwrite_keeps (s : State) (a : Nat) (bs : List Byte) :
    (s.pwrite a bs).pending = s.pending ∧ (s.pwrite a bs).regs = s.regs ∧ (s.pwrite a bs).arrs = s.arrs ∧
    (s.pwrite a bs).sps = s.sps ∧ (s.pwrite a bs).cxs = s.cxs ∧ (s.pwrite a bs).cmds = s.cmds ∧
    (s.pwrite a bs).nextCmd = s.nextCmd ∧ (s.pwrite a bs).msgs = s.msgs ∧ (s.pwrite a bs).nextMsg = s.nextMsg ∧
    (s.pwrite a bs).colls = s.colls ∧ (s.pwrite a bs).nextColl = s.nextColl ∧ (s.pwrite a bs).cast = s.cast ∧
    (s.pwrite a bs).admits = s.admits ∧ (s.pwrite a bs).builds = s.builds ∧ (s.pwrite a bs).ports = s.ports ∧
    (s.pwrite a bs).txWait = s.txWait ∧ (s.pwrite a bs).nt = s.nt ∧ (s.pwrite a bs).pwr = s.pwr ∧
    (s.pwrite a bs).dbg = s.dbg ∧ (s.pwrite a bs).reel = s.reel ∧ (s.pwrite a bs).recd = s.recd ∧
    (s.pwrite a bs).outs = s.outs ∧ (s.pwrite a bs).free = s.free ∧ (s.pwrite a bs).nonces = s.nonces ∧
    (s.pwrite a bs).tsu = s.tsu ∧ (s.pwrite a bs).slice = s.slice ∧ (s.pwrite a bs).boot = s.boot := by
  unfold State.pwrite
  dsimp only
  split <;> exact ⟨rfl, rfl, rfl, rfl, rfl, rfl, rfl, rfl, rfl, rfl, rfl, rfl, rfl, rfl, rfl, rfl, rfl, rfl, rfl, rfl, rfl, rfl, rfl,
    rfl, rfl, rfl, rfl⟩

/-- A read of registers sees only the registers. -/
theorem word_congr {s t : State} (h : t.regs = s.regs) (a : Nat) : t.word a = s.word a := by
  unfold State.word
  rw [h]

theorem rd_congr {s t : State} (h : t.regs = s.regs) (f : Fld) (n i : Nat) : t.rd f n i = s.rd f n i := by
  unfold State.rd
  rw [word_congr h]

namespace Reports

/-- Writing a field of a block that reports, other than the control of rushes, is a report. -/
theorem wr {s : State} (f : Fld) (v n i : Nat) (ha : reportReg (f.addr n i) = true)
    (hc : f.addr n i ≠ R.DBG_RUSH_CTL_SPILL.addr) : Reports s (s.wr f v n i) := by
  constructor
  case regsWf => exact fun h => wr_regsWf h f v n i
  case canon => exact fun h => wr_canon h f v n i
  case word =>
    intro h a hra
    refine setWord_word_ne h _ ?_
    intro e
    rw [e, ha] at hra
    cases hra
  case memory =>
    intro h hn
    refine ⟨rfl, rfl, ?_, hn.2⟩
    rw [wr_rd_ne h f v n i 0 0 (Ne.symm hc)]
    exact hn.1
  all_goals rfl

/-- So is one of its flags. -/
theorem setFlag {s : State} (f : Fld) (b : Bool) (n i : Nat) (ha : reportReg (f.addr n i) = true)
    (hc : f.addr n i ≠ R.DBG_RUSH_CTL_SPILL.addr) : Reports s (s.setFlag f b n i) := wr f _ n i ha hc

/-- A change of what leaves the block, of the frames that wait, of the recorder, and of the stores of reel and rushes. -/
theorem fields {s : State} (outs : List Out) (tx : List Frame) (recd : Rec) (reel : List (Nat × BitVec 512)) (dbg : Dbg)
    (hr : smWf reelDefault s.reel = true → smWf reelDefault reel = true)
    (hd : smWf rushDefault s.dbg.rush = true → smWf rushDefault dbg.rush = true)
    (hs : s.noSpill → dbg.spillOk = none) :
    Reports s { s with outs := outs, txWait := tx, recd := recd, reel := reel, dbg := dbg } := by
  constructor
  case regsWf => exact id
  case canon =>
    intro h
    rw [canon_iff] at h ⊢
    exact ⟨h.1, h.2.1, hr h.2.2.1, hd h.2.2.2⟩
  case word => intros; rfl
  case memory => exact fun _ hn => ⟨rfl, rfl, hn.1, hs hn⟩
  all_goals rfl

/-- Something leaves the block. -/
theorem emit {s : State} (o : Out) : Reports s (s.emit o) := fields _ s.txWait s.recd s.reel s.dbg id id (fun h => h.2)

theorem dbg {s : State} (d : Dbg) (hd : smWf rushDefault s.dbg.rush = true → smWf rushDefault d.rush = true)
    (hs : s.noSpill → d.spillOk = none) : Reports s { s with dbg := d } := fields s.outs s.txWait s.recd s.reel d id hd hs

theorem recd {s : State} (r : Rec) : Reports s { s with recd := r } := fields s.outs s.txWait r s.reel s.dbg id id (fun h => h.2)

theorem txWait {s : State} (l : List Frame) : Reports s { s with txWait := l } := fields s.outs l s.recd s.reel s.dbg id id (fun h => h.2)

theorem setReelSlot {s : State} (i : Nat) (v : BitVec 512) : Reports s (s.setReelSlot i v) :=
  fields s.outs s.txWait s.recd _ s.dbg (fun h => smWf_smPut h i v) id (fun h => h.2)

end Reports

-- The reel.

theorem reports_flushRepeat (s : State) : Reports s s.flushRepeat := by
  unfold State.flushRepeat
  split
  · exact .refl s
  · dsimp only
    split
    · exact .refl s
    · exact (Reports.setReelSlot _ _).trans (Reports.recd _)

theorem reports_seqNext (s : State) (v : Nat) : Reports s (s.wr R.REC_STAT_SEQ_NEXT v) := .wr _ _ _ _ (by decide) (by decide)

theorem reports_logWrite (s : State) (e : ReelEv) : Reports s (s.logWrite e) := by
  unfold State.logWrite
  split
  · dsimp only
    split
    · exact (Reports.recd _).trans (reports_flushRepeat _)
    · exact Reports.recd _
  · exact (((reports_flushRepeat s).trans (Reports.setReelSlot _ _)).trans (reports_seqNext _ _)).trans (Reports.recd _)

theorem reports_repairWrite (s : State) (e : ReelEv) : Reports s (s.repairWrite e) :=
  (Reports.setReelSlot _ _).trans (reports_seqNext _ _)

theorem reports_recWrite (s : State) (e : ReelEv) : Reports s (s.recWrite e) :=
  Reports.ite (reports_repairWrite s e) (reports_logWrite s e)

/-- A reel record reports, and does nothing else. -/
theorem reports_reelEvent (s : State) (typ unit cx : Nat) (payload : List Byte) : Reports s (s.reelEvent typ unit cx payload) := by
  unfold State.reelEvent
  dsimp only
  split
  · exact .refl s
  · split
    · split <;> exact Reports.recd _
    · exact reports_recWrite _ _

-- Interrupts.

/-- An interrupt reports, and does nothing else. -/
theorem reports_msix (s : State) (v : Nat) (hv : v < 2048) : Reports s (s.msix v) := by
  unfold State.msix
  dsimp only
  split
  · exact .refl s
  · split
    · have ha : reportReg (R.MSIX_PBA_PENDING.addr 0 (v / 64)) = true := by
        have : v / 64 < 32 := by omega
        simp only [reportReg, Fld.addr, R.MSIX_PBA_PENDING, blkBase, blkStride, blkSize, Bool.or_eq_true, Bool.and_eq_true]
        exact Or.inr ⟨decide_eq_true (by omega), decide_eq_true (by omega)⟩
      constructor
      case regsWf => exact fun h => setWord_regsWf h _ _
      case canon => exact fun h => setWord_canon h _ _
      case word =>
        intro h a hra
        refine setWord_word_ne h _ ?_
        intro e
        rw [e, ha] at hra
        cases hra
      case memory =>
        intro h hn
        refine ⟨rfl, rfl, ?_, hn.2⟩
        unfold State.rd
        rw [setWord_word_ne h]
        · exact hn.1
        · simp only [Fld.addr, R.MSIX_PBA_PENDING, R.DBG_RUSH_CTL_SPILL, blkBase, blkStride]
          omega
      all_goals rfl
    · exact Reports.emit _

-- The cut as it is armed.

theorem reports_armCut (s : State) (t o k : Nat) (b l : Bool) : Reports s (s.armCut t o k b l) := by
  unfold State.armCut
  split
  · exact .refl s
  · split
    · exact .refl s
    · exact ((((((Reports.setFlag _ _ _ _ (by decide) (by decide)).trans (Reports.wr _ _ _ _ (by decide) (by decide))).trans
        (Reports.setFlag _ _ _ _ (by decide) (by decide))).trans (Reports.setFlag _ _ _ _ (by decide) (by decide))).trans
        (Reports.wr _ _ _ _ (by decide) (by decide)))).trans (Reports.wr _ _ _ _ (by decide) (by decide))

theorem reports_armTimed (s : State) (t o k : Nat) (b : Bool) : Reports s (s.armTimed t o k b) :=
  Reports.ite (reports_armCut _ _ _ _ _ _) (reports_armCut _ _ _ _ _ _)

/-- The order of a cut arms it and sends frames. -/
theorem reports_orderCut (s : State) : Reports s s.orderCut := by
  unfold State.orderCut
  dsimp only
  have h1 : Reports s { s with dbg := { s.dbg with cuts := s.dbg.cuts + 1 } } := Reports.dbg _ id (fun h => h.2)
  split
  · exact h1.trans (reports_armCut _ _ _ _ _ _)
  · exact (h1.trans (reports_armTimed _ _ _ _ _)).trans (Reports.txWait _)

-- Rushes.

theorem reports_spillInit (s : State) : Reports s s.spillInit := by
  unfold State.spillInit
  split
  · next hc =>
    have hno : ¬ s.noSpill := by
      intro h
      simp [State.flag, h.1] at hc
    dsimp only
    split
    · exact Reports.dbg _ id (fun h => absurd h hno)
    · exact (Reports.setFlag R.DBG_RUSH_STAT_SPILL_LOST true 0 0 (by decide) (by decide)).trans (Reports.dbg _ id (fun h => h.2))
  · exact .refl s

theorem spillInit_noSpill {s : State} (h : s.noSpill) : s.spillInit = s := by
  unfold State.spillInit
  rw [if_neg]
  simp [State.flag, h.1]

/-- A write of a record to the spill region. -/
theorem reports_spillWrite {s : State} (hno : ¬ s.noSpill) (a n v : Nat) : Reports s (s.pwriteNat a n v) := by
  have hk := State.pwrite_keeps s a (leBytes n v)
  obtain ⟨h1, h2, h3, h4, h5, h6, h7, h8, h9, h10, h11, h12, h13, h14, h15, _, h17, h18, h19, h20, h21, _, h23, h24, h25, h26, h27⟩ := hk
  exact ⟨h1, h3, h4, h5, h6, h7, h8, h9, h10, h11, h12, h13, h14, h15, h17, h18, h23, h24, h25, h26, h27,
    fun h => by unfold State.regsWf; rw [State.pwriteNat, h2]; exact h, fun h => pwriteNat_canon h a n v,
    fun _ a _ => word_congr h2 a, fun _ h => absurd h hno⟩

/-- The number of the next record moves on, and so does the count of those written. -/
theorem reports_rushNext (t : State) (v : Nat) :
    Reports t { t.wr R.DBG_RUSH_POS_SEQ_NEXT v with dbg := { (t.wr R.DBG_RUSH_POS_SEQ_NEXT v).dbg with
      count := (t.wr R.DBG_RUSH_POS_SEQ_NEXT v).dbg.count + 1 } } :=
  (Reports.wr R.DBG_RUSH_POS_SEQ_NEXT _ 0 0 (by decide) (by decide)).trans (Reports.dbg _ id (fun h => h.2))

theorem reports_rushPut (s : State) (cls cx sp op tag cmd data : Nat) : Reports s (s.rushPut cls cx sp op tag cmd data) := by
  refine (reports_spillInit s).trans ?_
  unfold State.rushPut
  generalize s.spillInit = t
  dsimp only
  split
  · next b p hb =>
    have hno : ¬ t.noSpill := fun h => by rw [h.2] at hb; cases hb
    exact (reports_spillWrite hno _ _ _).trans (reports_rushNext _ _)
  · refine Reports.trans ?_ (reports_rushNext _ _)
    exact Reports.dbg _ (fun h => smWf_smPut h _ _) (fun h => h.2)

/-- A record of rushes reports, and does nothing else. -/
theorem reports_rush (s : State) (cls cx sp op tag cmd data : Nat) : Reports s (s.rush cls cx sp op tag cmd data) := by
  unfold State.rush
  dsimp only
  have hl (t : State) : Reports t (t.bump R.DBG_RUSH_STAT_LOST) := Reports.wr _ _ _ _ (by decide) (by decide)
  have hst (t : State) (v : Nat) : Reports t (t.wr R.DBG_RUSH_STAT_STATE v) := Reports.wr _ _ _ _ (by decide) (by decide)
  have hleft (t : State) (k : Nat) : Reports t (State.wr { t with dbg := { t.dbg with left := some k } } R.DBG_RUSH_STAT_STATE 3) :=
    Reports.trans (t := { t with dbg := { t.dbg with left := some k } }) (Reports.dbg _ id (fun h => h.2)) (hst _ 3)
  split
  · exact .refl s
  · split
    · split
      · exact hl s
      · exact .refl s
    · split
      · exact (hst s 2).trans (hl _)
      · refine (reports_rushPut s cls cx sp op tag cmd data).trans ?_
        generalize s.rushPut cls cx sp op tag cmd data = t
        split
        · exact .refl t
        · split
          · exact hleft t _
          · exact Reports.dbg _ id (fun h => h.2)

/-- What the mode of rushes does at a trigger. -/
theorem reports_mode (t : State) :
    Reports t (match t.rd R.DBG_RUSH_CTL_MODE with
      | 1 => t.wr R.DBG_RUSH_STAT_STATE 2
      | 2 =>
        if t.rushCap * (256 - t.rd R.DBG_RUSH_CTL_PRE) / 256 = 0 then t.wr R.DBG_RUSH_STAT_STATE 3
        else { t with dbg := { t.dbg with left := some (t.rushCap * (256 - t.rd R.DBG_RUSH_CTL_PRE) / 256) } }
      | _ => t) := by
  have hst (t : State) (v : Nat) : Reports t (t.wr R.DBG_RUSH_STAT_STATE v) := Reports.wr _ _ _ _ (by decide) (by decide)
  split
  · exact hst t 2
  · exact Reports.ite (hst t 3) (Reports.dbg _ id (fun h => h.2))
  · exact .refl t

/-- The trigger of rushes reports, and does nothing else. -/
theorem reports_trigger (s : State) (bit cx : Nat) : Reports s (s.trigger bit cx) := by
  have hcut (s t : State) (h : Reports s t) : Reports s (if t.flag R.DBG_RUSH_TRIG_CUT_ON_TRIG then t.orderCut else t) :=
    Reports.ite (h.trans (reports_orderCut t)) h
  have h1 : Reports s (s.setFlag R.DBG_RUSH_STAT_TRIGGERED true) := Reports.setFlag _ _ 0 0 (by decide) (by decide)
  have h2 (t : State) (v : Nat) : Reports t (t.wr R.DBG_RUSH_POS_TRIG_SEQ v) := Reports.wr _ _ 0 0 (by decide) (by decide)
  unfold State.trigger
  refine Reports.ite (.refl s) ?_
  exact hcut _ _ (Reports.ite ((h1.trans (h2 _ _)).trans ((reports_rush _ _ _ _ _ _ _ _).trans (reports_mode _))) (h1.trans (h2 _ _)))

-- Counters.

/-- A programmable counter has a number below 128. -/
theorem reports_pmcAdd (s : State) (i n : Nat) (hi : i < 128) : Reports s (s.pmcAdd i n) := by
  have ha (f : Fld) (h1 : f.blk = .PMC) (h2 : f.off + f.sub * 127 < 0x200000) : reportReg (f.addr 0 i) = true := by
    have : f.sub * i ≤ f.sub * 127 := Nat.mul_le_mul_left _ (by omega)
    simp only [reportReg, Fld.addr, h1, blkBase, blkStride, Bool.or_eq_true, Bool.and_eq_true]
    exact Or.inl ⟨decide_eq_true (by omega), decide_eq_true (by omega)⟩
  have hc (f : Fld) (h1 : f.blk = .PMC) (h2 : f.off + f.sub * 127 < 0x200000) : f.addr 0 i ≠ R.DBG_RUSH_CTL_SPILL.addr := by
    have : f.sub * i ≤ f.sub * 127 := Nat.mul_le_mul_left _ (by omega)
    simp only [Fld.addr, h1, blkBase, blkStride, R.DBG_RUSH_CTL_SPILL]
    omega
  have hw (t : State) (f : Fld) (v : Nat) (h1 : f.blk = .PMC) (h2 : f.off + f.sub * 127 < 0x200000) : Reports t (t.wr f v 0 i) :=
    Reports.wr f v 0 i (ha f h1 h2) (hc f h1 h2)
  have hevt (t : State) : Reports t (if t.flag R.PMC_SEL_EVT_EN 0 i then (t.msix (t.rd R.PMC_CTL_VECTOR)).trigger 2 0 else t) :=
    Reports.ite ((reports_msix t _ (bitsAt_lt _ _ _)).trans (reports_trigger _ 2 0)) (.refl t)
  have hovf (t : State) : Reports t (t.setFlag R.PMC_CNT_OVF true 0 i) := hw t R.PMC_CNT_OVF 1 rfl (by decide)
  have hval (t : State) (v : Nat) : Reports t (t.wr R.PMC_CNT_VALUE v 0 i) := hw t R.PMC_CNT_VALUE v rfl (by decide)
  unfold State.pmcAdd
  exact Reports.ite (hval s _) ((hval s _).trans (Reports.ite (.refl _) ((hovf _).trans (hevt _))))

/-- The counters that can be live have numbers below 128. -/
theorem pmcLive_lt (s : State) : ∀ i ∈ s.pmcLive, i < 128 := by
  intro i hi
  simp only [State.pmcLive, List.mem_map, List.mem_filter, Bool.and_eq_true, decide_eq_true_eq] at hi
  obtain ⟨r, ⟨_, h1, h2⟩, rfl⟩ := hi
  omega

/-- Counting events reports, and does nothing else. -/
theorem reports_count (s : State) (src unit cx n : Nat) : Reports s (s.count src unit cx n) := by
  unfold State.count
  split
  · exact .refl s
  · have key : ∀ (l : List Nat) (t : State), (∀ i ∈ l, i < 128) → Reports t (l.foldl (fun s i =>
        if s.flag R.PMC_SEL_EN 0 i && s.rd R.PMC_SEL_SOURCE 0 i == src &&
            (s.rd R.PMC_SEL_UNIT 0 i == unit || (s.rd R.PMC_SEL_UNIT 0 i == 0xFF && decide (0x040 ≤ src))) &&
            (cx == 0x10 || s.rd R.PMC_SEL_CX 0 i == 0x10 || s.rd R.PMC_SEL_CX 0 i == cx) then s.pmcAdd i n else s) t) := by
      intro l
      induction l with
      | nil => exact fun t _ => .refl t
      | cons i l ih =>
        intro t ht
        have hi : i < 128 := ht i (by simp)
        simp only [List.foldl_cons]
        refine Reports.trans ?_ (ih _ (fun j hj => ht j (by simp [hj])))
        split
        · exact reports_pmcAdd t i n hi
        · exact .refl t
    exact key _ s (pmcLive_lt s)

end Sys2Proof.Machine
end

