-- ==== Sys2Proof/Laws/Canon.lean ====
section
/-! SUPPORT. What every file builds on: writes of registers, memory, reports, frames, translation, semaphores and streams keep the
canonical form. -/

namespace Sys2Proof.Machine

/-- Folds keep the form where each step keeps it. -/
theorem foldl_canon {α : Type} {f : State → α → State} {l : List α} {s : State} (hf : ∀ (s : State) (x : α), s.canon = true →
    (f s x).canon = true)
    (h : s.canon = true) : (l.foldl f s).canon = true := by
  induction l generalizing s with
  | nil => exact h
  | cons x t ih => exact ih (hf s x h)

theorem foldl_fst {α β : Type} {f : State × β → α → State × β} {l : List α} {s : State × β} (hf : ∀ (s : State × β) (x : α),
    s.1.canon = true → (f s x).1.canon = true)
    (h : s.1.canon = true) : (l.foldl f s).1.canon = true := by
  induction l generalizing s with
  | nil => exact h
  | cons x t ih => exact ih (hf s x h)

theorem foldl_fst_fst {α β γ : Type} {f : (State × γ) × β → α → (State × γ) × β} {l : List α} {s : (State × γ) × β} (hf : ∀
    (s : (State × γ) × β) (x : α), s.1.1.canon = true → (f s x).1.1.canon = true)
    (h : s.1.1.canon = true) : (l.foldl f s).1.1.canon = true := by
  induction l generalizing s with
  | nil => exact h
  | cons x t ih => exact ih (hf s x h)

/-- A change of fields that hold nothing sparse keeps the form. -/
theorem canon_mk {s : State} {d : Dbg} {f1 f2 f3 f4 f5 f6 f7 f8 f9 f10 f11 f12 f13 f14 f15 f16 f17 f18 f19 f20 f21 f22 f23
    f24 f25} (hd : d.rush = s.dbg.rush) (h : s.canon = true) :
    (State.mk f1 s.regs s.mem f2 f3 f4 f5 f6 f7 f8 f9 f10 f11 f12 f13 f14 f15 f16 f17 f18 d s.reel f19 f20 f21 f22 f23 f24
      f25).canon = true :=
  canon_congr (s := s) rfl rfl rfl hd h

theorem fst_of {β : Type} {p : State × β} {t : State} {b : β} (e : p = (t, b)) (h : p.1.canon = true) : t.canon = true := by
  subst e; exact h

theorem snd_of {β : Type} {p : β × State} {t : State} {b : β} (e : p = (b, t)) (h : p.2.canon = true) : t.canon = true := by
  subst e; exact h

theorem fst_mk {β : Type} {t : State} {b : β} (h : t.canon = true) : (t, b).1.canon = true := h

theorem snd_mk {β : Type} {t : State} {b : β} (h : t.canon = true) : (b, t).2.canon = true := h

/-- A result, where there is one, has a property. -/
def Holds {α : Type} (P : α → Prop) (r : Res α) : Prop := ∀ t, r = .ok t → P t

theorem Holds.out {α : Type} {P : α → Prop} {r : Res α} {t : α} (h : Holds P r) (e : r = .ok t) : P t := h t e

theorem Holds.of {α : Type} {P : α → Prop} {r : Res α} (h : ∀ t, r = .ok t → P t) : Holds P r := h

theorem Holds.ok {α : Type} {P : α → Prop} {t : α} (h : P t) : Holds P (.ok t) := fun _ e => by cases e; exact h

theorem Holds.fault {α : Type} {P : α → Prop} {k : Cause} : Holds P (.fault k) := fun _ e => by cases e

theorem Holds.wait {α : Type} {P : α → Prop} : Holds P (.wait) := fun _ e => by cases e

theorem Holds.bind {α β : Type} {P : β → Prop} {x : Res α} {f : α → Res β} (h : ∀ a, x = .ok a → Holds P (f a)) : Holds P
    (x.bind f) := by
  intro t e
  cases x with
  | ok a => exact h a rfl t e
  | fault k => cases e
  | wait => cases e

theorem Holds.fold {α β : Type} {P : β → Prop} {f : β → α → Res β} {l : List α} {b : β} (hf : ∀ b x, P b → Holds P (f b x))
    (h : P b) : Holds P (Res.fold f b l) := by
  induction l generalizing b with
  | nil => exact Holds.ok h
  | cons x t ih => exact Holds.bind fun a e => ih (hf b x h a e)

-- Ops.lean

theorem updCx_canon (s : State) (n : Nat) (f : Ctx → Ctx) (hs : s.canon = true) : (State.updCx s n f).canon = true := by
  unfold State.updCx
  exact canon_mk rfl ‹_›

theorem updSp_canon (s : State) (n : Nat) (f : Spu → Spu) (hs : s.canon = true) : (State.updSp s n f).canon = true := by
  unfold State.updSp
  exact canon_mk rfl ‹_›

theorem updArr_canon (s : State) (n : Nat) (f : Arr → Arr) (hs : s.canon = true) : (State.updArr s n f).canon = true := by
  unfold State.updArr
  exact canon_mk rfl ‹_›

theorem updPort_canon (s : State) (n : Nat) (f : Port → Port) (hs : s.canon = true) : (State.updPort s n f).canon = true :=
    by
  unfold State.updPort
  exact canon_mk rfl ‹_›

theorem updCmd_canon (s : State) (id : Nat) (f : Cmd → Cmd) (hs : s.canon = true) : (State.updCmd s id f).canon = true := by
  unfold State.updCmd
  exact canon_mk rfl ‹_›

theorem takeFree_canon (s : State) (hs : s.canon = true) : (State.takeFree s).2.canon = true := by
  unfold State.takeFree
  dsimp only
  exact canon_mk rfl ‹_›

theorem pick_canon (s : State) (n : Nat) (hs : s.canon = true) : (State.pick s n).2.canon = true := by
  unfold State.pick
  repeat' (first | (with_reducible first | assumption | dsimp only | split) | refine canon_mk rfl ?_)

theorem emit_canon (s : State) (o : Out) (hs : s.canon = true) : (State.emit s o).canon = true := by
  unfold State.emit
  exact canon_mk rfl ‹_›

theorem msix_canon (s : State) (v : Nat) (hs : s.canon = true) : (State.msix s v).canon = true := by
  unfold State.msix
  dsimp only
  with_reducible repeat' first | assumption | apply emit_canon | apply setWord_canon | split

theorem setSem_canon (s : State) (c i v : Nat) (hs : s.canon = true) : (State.setSem s c i v).canon = true := by
  unfold State.setSem
  with_reducible repeat' first | assumption | apply pwriteNat_canon | apply wr_canon | split

-- Reel.lean

theorem flushRepeat_canon (s : State) (hs : s.canon = true) : (State.flushRepeat s).canon = true := by
  unfold State.flushRepeat
  dsimp only
  repeat' (first | (with_reducible first | assumption | apply setReelSlot_canon | split) | refine canon_mk rfl ?_)

theorem logWrite_canon (s : State) (e : ReelEv) (hs : s.canon = true) : (State.logWrite s e).canon = true := by
  unfold State.logWrite
  dsimp only
  repeat' first
    | with_reducible first
      | assumption | apply flushRepeat_canon | apply setReelSlot_canon | apply wr_canon | split
    | refine canon_mk rfl ?_

theorem repairWrite_canon (s : State) (e : ReelEv) (hs : s.canon = true) : (State.repairWrite s e).canon = true := by
  unfold State.repairWrite
  dsimp only
  with_reducible repeat' first | assumption | apply setReelSlot_canon | apply wr_canon

theorem recWrite_canon (s : State) (e : ReelEv) (hs : s.canon = true) : (State.recWrite s e).canon = true := by
  unfold State.recWrite
  with_reducible repeat' first | assumption | apply logWrite_canon | apply repairWrite_canon | split

theorem reelEvent_canon (s : State) (typ unit cx : Nat) (payload : List Byte) (hs : s.canon = true) : (State.reelEvent s typ
    unit cx payload).canon = true := by
  unfold State.reelEvent
  dsimp only
  repeat' (first | (with_reducible first | assumption | apply recWrite_canon | split) | refine canon_mk rfl ?_)

theorem thaw_canon (s : State) (hs : s.canon = true) : (State.thaw s).canon = true := by
  unfold State.thaw
  dsimp only
  repeat' first
    | with_reducible first
      | assumption | apply recWrite_canon | apply wr_canon | apply foldl_canon | split
    | refine canon_mk rfl ?_

-- Trace.lean

theorem armCut_canon (s : State) (t origin cutId : Nat) (byFrame late : Bool) (hs : s.canon = true) : (State.armCut s t
    origin cutId byFrame late).canon = true := by
  unfold State.armCut
  dsimp only
  with_reducible repeat' first | assumption | apply setFlag_canon | apply wr_canon | split

theorem armTimed_canon (s : State) (t origin cutId : Nat) (byFrame : Bool) (hs : s.canon = true) : (State.armTimed s t origin
    cutId byFrame).canon = true := by
  unfold State.armTimed
  with_reducible repeat' first | assumption | apply armCut_canon | split

theorem sendCuts_canon (s : State) (t cutId : Nat) (hs : s.canon = true) : (State.sendCuts s t cutId).canon = true := by
  unfold State.sendCuts
  dsimp only
  exact canon_mk rfl ‹_›

theorem orderCut_canon (s : State) (hs : s.canon = true) : (State.orderCut s).canon = true := by
  unfold State.orderCut
  dsimp only
  repeat' first
    | with_reducible first
      | assumption | apply armCut_canon | apply armTimed_canon | apply sendCuts_canon | split
    | refine canon_mk rfl ?_

theorem spillInit_canon (s : State) (hs : s.canon = true) : (State.spillInit s).canon = true := by
  unfold State.spillInit
  dsimp only
  repeat' (first | (with_reducible first | assumption | apply setFlag_canon | split) | refine canon_mk rfl ?_)

theorem spillGone_canon (s : State) (c : Nat) (hs : s.canon = true) : (State.spillGone s c).canon = true := by
  unfold State.spillGone
  dsimp only
  repeat' (first | (with_reducible first | assumption | apply setFlag_canon | split) | refine canon_mk rfl ?_)

theorem rushPut_canon (s : State) (cls cx sp op tag cmd data : Nat) (hs : s.canon = true) : (State.rushPut s cls cx sp op tag
    cmd data).canon = true := by
  have h := spillInit_canon s hs
  unfold State.rushPut
  dsimp only
  refine canon_mk (s := State.wr _ _ _ _ _) rfl (wr_canon ?_ _ _ _ _)
  split
  · exact pwriteNat_canon h _ _ _
  · rw [canon_iff] at h ⊢
    exact ⟨h.1, h.2.1, h.2.2.1, smWf_smPut h.2.2.2 _ _⟩

theorem rush_canon (s : State) (cls cx sp op tag cmd data : Nat) (hs : s.canon = true) : (State.rush s cls cx sp op tag cmd
    data).canon = true := by
  unfold State.rush
  dsimp only
  repeat' first
    | with_reducible first
      | assumption | apply bump_canon | apply rushPut_canon | apply wr_canon | split
    | refine canon_mk rfl ?_

theorem trigger_canon (s : State) (bit cx : Nat) (hs : s.canon = true) : (State.trigger s bit cx).canon = true := by
  unfold State.trigger
  dsimp only
  repeat' first
    | with_reducible first
      | assumption | apply orderCut_canon | apply rush_canon | apply setFlag_canon | apply wr_canon | split
    | refine canon_mk rfl ?_

theorem pmcAdd_canon (s : State) (i n : Nat) (hs : s.canon = true) : (State.pmcAdd s i n).canon = true := by
  unfold State.pmcAdd
  dsimp only
  with_reducible repeat' first
    | assumption | apply msix_canon | apply setFlag_canon | apply trigger_canon | apply wr_canon | split

theorem count_canon (s : State) (src unit cx n : Nat) (hs : s.canon = true) : (State.count s src unit cx n).canon = true :=
    by
  unfold State.count
  with_reducible repeat' first | assumption | apply pmcAdd_canon | apply foldl_canon | intro _ | split

-- Clock.lean

theorem tick_canon (s : State) (hs : s.canon = true) : (State.tick s).canon = true := by
  unfold State.tick
  dsimp only
  repeat' (first | (with_reducible first | assumption | apply wr_canon | split) | refine canon_mk rfl ?_)

-- Wirebox.lean

theorem markSent_canon (s : State) (f : Frame) (hs : s.canon = true) : (State.markSent s f).canon = true := by
  unfold State.markSent
  repeat' (first | (with_reducible first | assumption | split) | refine canon_mk rfl ?_)

theorem sendOn_canon (s : State) (p : Nat) (f : Frame) (hs : s.canon = true) : (State.sendOn s p f).canon = true := by
  unfold State.sendOn
  dsimp only
  with_reducible repeat' first | assumption | apply count_canon | apply emit_canon | apply markSent_canon | apply updPort_canon

theorem drainFrames_canon (l : List Frame) (s : State) (k : List Frame) (hs : s.canon = true) : (drainFrames l s k).canon =
    true := by
  induction l generalizing s k with
  | nil => exact canon_mk rfl hs
  | cons f t ih =>
    unfold drainFrames
    split
    · exact ih _ _ hs
    · split
      · exact ih _ _ (sendOn_canon _ _ _ hs)
      · exact ih _ _ hs

theorem drainTx_canon (s : State) (hs : s.canon = true) : (State.drainTx s).canon = true := by
  unfold State.drainTx
  with_reducible repeat' first | assumption | apply drainFrames_canon | split

theorem sendFrames_canon (s : State) (fs : List Frame) (hs : s.canon = true) : (State.sendFrames s fs).canon = true := by
  unfold State.sendFrames
  exact canon_mk rfl ‹_›

-- Xlate.lean

theorem updEntry_canon (s : State) (c i : Nat) (f : StashEntry → StashEntry) (hs : s.canon = true) : (State.updEntry s c i
    f).canon = true := by
  unfold State.updEntry
  dsimp only
  with_reducible repeat' first | assumption | apply updCx_canon

theorem takeNear_canon {s : State} {c : Nat} {t : (Nat × State)} (he : (State.takeNear s c) = some t) (hs : s.canon = true) :
    t.2.canon = true := by
  unfold State.takeNear at he
  dsimp only at he
  split at he
  · cases he
  · obtain ⟨_, _, rfl⟩ := Option.map_eq_some_iff.1 he
    exact pick_canon _ _ hs

theorem takeShadowFrame_canon {s : State} {c : Nat} {near : Bool} {t : (Nat × State)} (he : (State.takeShadowFrame s c near)
    = some t) (hs : s.canon = true) : t.2.canon = true := by
  unfold State.takeShadowFrame at he
  dsimp only at he
  obtain ⟨_, _, rfl⟩ := Option.map_eq_some_iff.1 he
  exact updCx_canon _ _ _ (pick_canon _ _ hs)

theorem returnFrame_canon (s : State) (c frame : Nat) (near : Bool) (hs : s.canon = true) : (State.returnFrame s c frame
    near).canon = true := by
  unfold State.returnFrame
  with_reducible repeat' first | assumption | apply updCx_canon

theorem updShadow_canon (s : State) (c va : Nat) (f : Shadow → Shadow) (hs : s.canon = true) : (State.updShadow s c va
    f).canon = true := by
  unfold State.updShadow
  with_reducible repeat' first | assumption | apply updCx_canon

theorem shadowFor_canon {s : State} {c va : Nat} {p : Page} {step : Nat} {byUpdate : Bool} {cover : List (Nat × Nat)} {t :
    (State × Nat)} (he : (State.shadowFor s c va p step byUpdate cover) = .ok t) (hs : s.canon = true) : t.1.canon = true :=
    by
  refine Holds.out (P := fun r => r.1.canon = true) ?_ he
  unfold State.shadowFor
  dsimp only
  with_reducible repeat' first
    | assumption | apply pcopy_canon | (refine takeShadowFrame_canon (by assumption) ?_) | apply updCx_canon
    | apply updShadow_canon | (apply Holds.ok; try dsimp only) | apply Holds.fault | apply Holds.wait | split

theorem writeAt_canon {s : State} {c va : Nat} {k : WKind} {t : (State × Nat)} (he : (State.writeAt s c va k) = .ok t) (hs :
    s.canon = true) : t.1.canon = true := by
  refine Holds.out (P := fun r => r.1.canon = true) ?_ he
  unfold State.writeAt
  with_reducible repeat' first
    | assumption | (refine shadowFor_canon (by assumption) ?_) | (refine takeNear_canon (by assumption) ?_)
    | apply updEntry_canon | apply Holds.bind | (apply Holds.ok; try dsimp only) | apply Holds.fault | apply Holds.wait
    | intro _ | split

theorem vwriteFrom_canon (s : State) (c va : Nat) (bs : List Byte) (k : WKind) (hs : s.canon = true) : (State.vwriteFrom s c
    va bs k).1.canon = true := by
  unfold State.vwriteFrom
  dsimp only
  with_reducible repeat' first
    | assumption | apply pwrite_canon | (refine writeAt_canon (by assumption) ?_) | apply foldl_fst | intro _ | split

theorem vwrite_canon {s : State} {c va : Nat} {bs : List Byte} {k : WKind} {t : State} (he : (State.vwrite s c va bs k) = .ok
    t) (hs : s.canon = true) : t.canon = true := by
  refine Holds.out (P := fun r => r.canon = true) ?_ he
  unfold State.vwrite
  with_reducible repeat' first
    | assumption | (refine fst_of (by assumption) ?_; apply vwriteFrom_canon) | (apply Holds.ok; try dsimp only)
    | apply Holds.fault | apply Holds.wait | split

theorem vwriteNat_canon {s : State} {c va n v : Nat} {k : WKind} {t : State} (he : (State.vwriteNat s c va n v k) = .ok t)
    (hs : s.canon = true) : t.canon = true := by
  refine Holds.out (P := fun r => r.canon = true) ?_ he
  unfold State.vwriteNat
  with_reducible repeat' first | assumption | (refine vwrite_canon (by assumption) ?_) | intro _ | (refine Holds.of ?_)

theorem vcopyFrom_canon (s : State) (c src dst n : Nat) (k : WKind) (hs : s.canon = true) : (State.vcopyFrom s c src dst n
    k).1.canon = true := by
  unfold State.vcopyFrom
  with_reducible repeat' first
    | assumption | apply pcopy_canon | apply pwrite_canon | (refine writeAt_canon (by assumption) ?_) | apply foldl_fst
    | intro _ | split

theorem dropTranslations_canon (s : State) (c : Nat) (hs : s.canon = true) : (State.dropTranslations s c).canon = true := by
  unfold State.dropTranslations
  with_reducible repeat' first | assumption | apply updCx_canon

theorem cacheTables_canon (s : State) (c : Nat) (hs : s.canon = true) : (State.cacheTables s c).canon = true := by
  unfold State.cacheTables
  with_reducible repeat' first | assumption | apply updCx_canon | split

theorem setL2_canon (s : State) (c a2 v : Nat) (hs : s.canon = true) : (State.setL2 s c a2 v).canon = true := by
  unfold State.setL2
  dsimp only
  with_reducible repeat' first | assumption | apply pwriteNat_canon | apply updCx_canon

-- Teardown.lean

theorem uncorrEvent_canon (s : State) (block : Nat) (by_ : Option Nat) (host : Bool) (hs : s.canon = true) :
    (State.uncorrEvent s block by_ host).canon = true := by
  unfold State.uncorrEvent
  dsimp only
  with_reducible repeat' first
    | assumption | apply reelEvent_canon | apply setFlag_canon | apply trigger_canon | apply wr_canon | split

theorem discardShadow_canon (s : State) (c : Nat) (h : Shadow) (hs : s.canon = true) : (State.discardShadow s c h).canon =
    true := by
  unfold State.discardShadow
  with_reducible repeat' first | assumption | apply returnFrame_canon

theorem discardShadows_canon (s : State) (c : Nat) (p : Shadow → Bool) (hs : s.canon = true) : (State.discardShadows s c
    p).canon = true := by
  unfold State.discardShadows
  dsimp only
  with_reducible repeat' first | assumption | apply discardShadow_canon | apply updCx_canon | apply foldl_canon | intro _

theorem abortColl_canon (s : State) (k : Coll) (hs : s.canon = true) : (State.abortColl s k).canon = true := by
  unfold State.abortColl
  dsimp only
  repeat' first
    | with_reducible first
      | assumption | apply bump_canon | apply rush_canon | apply sendFrames_canon
    | refine canon_mk rfl ?_

theorem clearArray_canon (s : State) (c a : Nat) (hs : s.canon = true) : (State.clearArray s c a).canon = true := by
  unfold State.clearArray
  dsimp only
  with_reducible repeat' first | assumption | apply count_canon | apply updArr_canon

theorem releaseHold_canon (s : State) (c p : Nat) (hs : s.canon = true) : (State.releaseHold s c p).canon = true := by
  unfold State.releaseHold
  dsimp only
  with_reducible repeat' first | assumption | apply setSem_canon | split

theorem semLoad_canon (s : State) (c : Nat) (hs : s.canon = true) : (State.semLoad s c).canon = true := by
  unfold State.semLoad
  dsimp only
  with_reducible repeat' first | assumption | apply wr_canon | apply foldl_canon | intro _

theorem markSp_canon (s : State) (n : Nat) (c : Cause) (spx : Option (Nat × Nat)) (hs : s.canon = true) : (State.markSp s n c
    spx).canon = true := by
  unfold State.markSp
  dsimp only
  with_reducible repeat' first | assumption | apply setFlag_canon | apply updSp_canon | apply wr_canon | split

theorem faultCx_canon (s : State) (c : Nat) (k : Cause) (spx : Option (Nat × Nat)) (hs : s.canon = true) : (State.faultCx s c
    k spx).canon = true := by
  unfold State.faultCx
  dsimp only
  repeat' first
    | with_reducible first
      | assumption | apply abortColl_canon | apply bump_canon | apply clearArray_canon | apply discardShadows_canon
      | apply markSp_canon | apply msix_canon | apply reelEvent_canon | apply releaseHold_canon | apply rush_canon
      | apply semLoad_canon | apply setFlag_canon | apply spillGone_canon | apply trigger_canon | apply uncorrEvent_canon
      | apply updCx_canon | apply wr_canon | apply foldl_canon | intro _ | split
    | refine canon_mk rfl ?_

theorem faultCmd_canon (s : State) (x : Cmd) (k : Cause) (hs : s.canon = true) : (State.faultCmd s x k).canon = true := by
  unfold State.faultCmd
  with_reducible repeat' first | assumption | apply faultCx_canon

-- Tensor.lean

theorem putBytes_canon (r : Writing) (c va : Nat) (bs : List Byte) (k : WKind) (hr : r.1.canon = true) : (putBytes r c va bs
    k).1.canon = true := by
  unfold putBytes
  with_reducible repeat' first | assumption | apply vwriteFrom_canon | split

theorem putCodes_canon (st : Writing) (cx : Nat) (d : Desc) (r c0 : Nat) (codes : List Nat) (k : WKind) (hst : st.1.canon =
    true) : (putCodes st cx d r c0 codes k).1.canon = true := by
  unfold putCodes
  dsimp only
  with_reducible repeat' first | assumption | apply putBytes_canon | apply foldl_fst | intro _

theorem putRow_canon (st : Writing) (cx : Nat) (d : Desc) (r c0 : Nat) (codes : List Nat) (k : WKind) (hst : st.1.canon =
    true) : (putRow st cx d r c0 codes k).1.canon = true := by
  unfold putRow
  dsimp only
  with_reducible repeat' first | assumption | apply putCodes_canon | apply foldl_fst | intro _

theorem putScale_canon (st : Writing) (cx : Nat) (d : Desc) (r c v : Nat) (k : WKind) (hst : st.1.canon = true) : (putScale
    st cx d r c v k).1.canon = true := by
  unfold putScale
  with_reducible repeat' first | assumption | apply putBytes_canon | split

-- Sync.lean

theorem post_canon {s : State} {m i v : Nat} {t : State} (he : (State.post s m i v) = some t) (hs : s.canon = true) : t.canon
    = true := by
  unfold State.post at he
  try dsimp only at he
  (repeat' split at he) <;> cases he
  all_goals (try dsimp only)
  all_goals with_reducible repeat' first | assumption | apply count_canon | apply setSem_canon

theorem markStep_canon (s : State) (c : Nat) (st : Option Nat) (hs : s.canon = true) : (State.markStep s c st).canon = true
    := by
  unfold State.markStep
  with_reducible repeat' first | assumption | apply setFlag_canon | split

theorem countFor_canon (s : State) (id : Nat) (tid : Nat) (kind : Kind) (c : Counts) (hs : s.canon = true) : (State.countFor
    s id tid kind c).canon = true := by
  unfold State.countFor
  dsimp only
  with_reducible repeat' first | assumption | apply markStep_canon | apply updCmd_canon | split

theorem healthAdd_canon (s : State) (c : Nat) (st : Option Nat) (tid : Nat) (k : Counts) (hs : s.canon = true) :
    (State.healthAdd s c st tid k).canon = true := by
  unfold State.healthAdd
  dsimp only
  with_reducible repeat' first
    | assumption | apply bump_canon | apply count_canon | (refine vwrite_canon (by assumption) ?_) | split

theorem stashStore_canon (s : State) (c i : Nat) (hs : s.canon = true) : (State.stashStore s c i).canon = true := by
  unfold State.stashStore
  dsimp only
  with_reducible repeat' first | assumption | (refine vwrite_canon (by assumption) ?_) | split

theorem stashSet_canon (s : State) (c i : Nat) (f : StashEntry → StashEntry) (hs : s.canon = true) : (State.stashSet s c i
    f).canon = true := by
  unfold State.stashSet
  dsimp only
  with_reducible repeat' first | assumption | apply rush_canon | apply stashStore_canon | apply updEntry_canon | split

theorem stashDone_canon (s : State) (c : Nat) (ts : List Touch) (hs : s.canon = true) : (State.stashDone s c ts).canon = true
    := by
  unfold State.stashDone
  dsimp only
  with_reducible repeat' first | assumption | apply stashSet_canon | apply foldl_canon | intro _

theorem headerPost_canon (s : State) (x : Cmd) (hs : s.canon = true) : (State.headerPost s x).canon = true := by
  unfold State.headerPost
  dsimp only
  with_reducible repeat' first | assumption | apply faultCmd_canon | (refine post_canon (by assumption) ?_) | split

theorem complete_canon (s : State) (x : Cmd) (hs : s.canon = true) : (State.complete s x).canon = true := by
  unfold State.complete
  dsimp only
  repeat' first
    | with_reducible first
      | assumption | apply headerPost_canon | apply healthAdd_canon | apply msix_canon | apply rush_canon
      | apply stashDone_canon | apply updCx_canon | apply foldl_canon | intro _ | split
    | refine canon_mk rfl ?_

theorem addCmd_canon (s : State) (x : Cmd) (hs : s.canon = true) : (State.addCmd s x).canon = true := by
  unfold State.addCmd
  exact canon_mk rfl ‹_›

theorem copyPim_canon (s : State) (c : Nat) (hs : s.canon = true) : (State.copyPim s c).canon = true := by
  unfold State.copyPim
  with_reducible repeat' first | assumption | apply wr_canon

theorem clearDead_canon (s : State) (c : Nat) (hs : s.canon = true) : (State.clearDead s c).canon = true := by
  unfold State.clearDead
  with_reducible repeat' first | assumption | apply setFlag_canon | split

theorem endWait_canon (s : State) (sp : Nat) (hs : s.canon = true) : (State.endWait s sp).canon = true := by
  unfold State.endWait
  dsimp only
  with_reducible repeat' first
    | assumption | apply clearDead_canon | apply complete_canon | apply copyPim_canon | apply count_canon | apply rush_canon
    | apply setSem_canon | apply updSp_canon | split

theorem wakePass_canon (l : List (Nat × Wait)) (b : List (Nat × Nat)) (s : State) (m : Bool) (hs : s.canon = true) :
    (wakePass l b s m).1.canon = true := by
  induction l generalizing b s m with
  | nil => exact hs
  | cons p t ih =>
    unfold wakePass
    split
    · split
      · exact ih _ _ _ hs
      · split
        · exact ih _ _ _ (endWait_canon _ _ hs)
        · exact ih _ _ _ hs
    · split
      · exact ih _ _ _ (endWait_canon _ _ hs)
      · exact ih _ _ _ hs

theorem wakeLoop_canon (k : Nat) (s : State) (hs : s.canon = true) : (wakeLoop k s).canon = true := by
  induction k generalizing s with
  | zero => exact hs
  | succ k ih =>
    unfold wakeLoop
    dsimp only
    split
    · exact ih _ (wakePass_canon _ _ _ _ hs)
    · exact wakePass_canon _ _ _ _ hs

theorem wake_canon (s : State) (hs : s.canon = true) : (State.wake s).canon = true := by
  unfold State.wake
  with_reducible repeat' first | assumption | apply wakeLoop_canon

theorem pollVersion_canon (s : State) (n : Nat) (hs : s.canon = true) : (State.pollVersion s n).canon = true := by
  unfold State.pollVersion
  dsimp only
  with_reducible repeat' first | assumption | apply endWait_canon | apply faultCx_canon | split

theorem pollOwner_canon (s : State) (m : Nat) (hs : s.canon = true) : (State.pollOwner s m).canon = true := by
  unfold State.pollOwner
  with_reducible repeat' first | assumption | apply pollVersion_canon | apply foldl_canon | intro _ | split

-- Stashctl.lean

theorem grantSlot_canon (s : State) (c slot : Nat) (hs : s.canon = true) : (State.grantSlot s c slot).canon = true := by
  unfold State.grantSlot
  dsimp only
  with_reducible repeat' first | assumption | apply setSem_canon | apply updCx_canon | split

theorem openEntry_canon (s : State) (c : Nat) (t : Touch) (hs : s.canon = true) : (State.openEntry s c t).canon = true := by
  unfold State.openEntry
  dsimp only
  with_reducible repeat' first | assumption | apply grantSlot_canon | apply stashSet_canon | split

theorem countRead_canon (s : State) (c : Nat) (t : Touch) (hs : s.canon = true) : (State.countRead s c t).canon = true := by
  unfold State.countRead
  dsimp only
  with_reducible repeat' first | assumption | apply stashSet_canon | apply updCx_canon | split

theorem stashDispatch_canon (s : State) (c : Nat) (ts : List Touch) (hs : s.canon = true) : (State.stashDispatch s c
    ts).canon = true := by
  unfold State.stashDispatch
  with_reducible repeat' first | assumption | apply countRead_canon | apply openEntry_canon | apply foldl_canon | intro _

theorem stashReady_canon (s : State) (c : Nat) (ts : List Touch) (hs : s.canon = true) : (State.stashReady s c ts).1.canon =
    true := by
  unfold State.stashReady
  dsimp only
  with_reducible repeat' first | assumption | apply openEntry_canon | apply foldl_canon | intro _

theorem takePool_canon {s : State} {c : Nat} {t : (Nat × State)} (he : (State.takePool s c) = some t) (hs : s.canon = true) :
    t.2.canon = true := by
  unfold State.takePool at he
  dsimp only at he
  split at he
  · cases he
  · obtain ⟨_, _, rfl⟩ := Option.map_eq_some_iff.1 he
    exact pick_canon _ _ hs

theorem beginOffload_canon (s : State) (c i : Nat) (hs : s.canon = true) : (State.beginOffload s c i).canon = true := by
  unfold State.beginOffload
  with_reducible repeat' first | assumption | apply stashSet_canon

theorem beginRecall_canon (s : State) (c i : Nat) (hs : s.canon = true) : (State.beginRecall s c i).canon = true := by
  unfold State.beginRecall
  dsimp only
  with_reducible repeat' first
    | assumption | apply stashSet_canon | (refine takeNear_canon (by assumption) ?_) | apply updCx_canon
    | apply updEntry_canon | apply foldl_canon | intro _ | split

theorem demandTurn_canon (s : State) (c : Nat) (hs : s.canon = true) : (State.demandTurn s c).canon = true := by
  unfold State.demandTurn
  dsimp only
  with_reducible repeat' first
    | assumption | apply beginOffload_canon | apply beginRecall_canon | apply faultCmd_canon | apply faultCx_canon | split

theorem offloadTurn_canon (s : State) (c : Nat) (hs : s.canon = true) : (State.offloadTurn s c).canon = true := by
  unfold State.offloadTurn
  dsimp only
  with_reducible repeat' first | assumption | apply beginOffload_canon | split

theorem recallTurn_canon (s : State) (c : Nat) (hs : s.canon = true) : (State.recallTurn s c).canon = true := by
  unfold State.recallTurn
  dsimp only
  with_reducible repeat' first | assumption | apply beginRecall_canon | split

theorem stashTurn_canon (s : State) (c : Nat) (hs : s.canon = true) : (State.stashTurn s c).canon = true := by
  unfold State.stashTurn
  dsimp only
  with_reducible repeat' first | assumption | apply demandTurn_canon | apply offloadTurn_canon | apply recallTurn_canon | split

theorem stashTurns_canon (s : State) (hs : s.canon = true) : (State.stashTurns s).canon = true := by
  unfold State.stashTurns
  with_reducible repeat' first | assumption | apply stashTurn_canon | apply foldl_canon

-- Residency.lean

theorem parkNow_canon (s : State) (c : Nat) (hs : s.canon = true) : (State.parkNow s c).canon = true := by
  unfold State.parkNow
  dsimp only
  with_reducible repeat' first
    | assumption | apply pwrite_canon | apply updCx_canon | apply updSp_canon | apply wr_canon | apply foldl_canon | intro _

theorem parkByPriority_canon (s : State) (c : Nat) (hs : s.canon = true) : (State.parkByPriority s c).canon = true := by
  unfold State.parkByPriority
  with_reducible repeat' first | assumption | apply parkNow_canon | apply updCx_canon | split

theorem pointParks_canon (s : State) (hs : s.canon = true) : (State.pointParks s).canon = true := by
  unfold State.pointParks
  dsimp only
  with_reducible repeat' first | assumption | apply parkNow_canon | apply updSp_canon | apply foldl_canon | intro _ | split

theorem residency_canon (s : State) (hs : s.canon = true) : (State.residency s).canon = true := by
  unfold State.residency
  dsimp only
  with_reducible repeat' first
    | assumption | apply parkByPriority_canon | apply parkNow_canon | apply pointParks_canon | apply wr_canon
    | apply foldl_canon | intro _ | split

theorem reloadTile_canon (s : State) (c : Nat) (t : SavedTile) (k : Nat) (hs : s.canon = true) : (State.reloadTile s c t
    k).canon = true := by
  unfold State.reloadTile
  dsimp only
  repeat' first
    | with_reducible first
      | assumption | apply updArr_canon | apply updCx_canon | apply foldl_canon | intro _
    | refine canon_mk rfl ?_

theorem reload_canon (s : State) (hs : s.canon = true) : (State.reload s).canon = true := by
  unfold State.reload
  dsimp only
  with_reducible repeat' first
    | assumption | apply reloadTile_canon | apply updArr_canon | apply updCx_canon | apply foldl_canon | intro _ | split

theorem settle_canon (s : State) (hs : s.canon = true) : (State.settle s).canon = true := by
  unfold State.settle
  dsimp only
  with_reducible repeat' first
    | assumption | apply drainTx_canon | apply reload_canon | apply residency_canon | apply stashTurns_canon
    | apply wake_canon | split

-- Streams.lean

theorem setHeld_canon (s : State) (n : Nat) (b : Bool) (hs : s.canon = true) : (State.setHeld s n b).canon = true := by
  unfold State.setHeld
  with_reducible repeat' first | assumption | apply updSp_canon

theorem dispatched_canon (s : State) (x : Cmd) (hs : s.canon = true) : (State.dispatched s x).canon = true := by
  unfold State.dispatched
  dsimp only
  repeat' first
    | with_reducible first
      | assumption | apply cacheTables_canon | apply rush_canon | apply setHeld_canon | apply trigger_canon | apply wr_canon
      | split
    | refine canon_mk rfl ?_

theorem dispatch_canon (n : Nat) (want : Packet → Bool) (prep : State → Cmd → Res Cmd) (run : State → Cmd → State) (s :
    State) (hrun : ∀ (s : State) (c : Cmd), s.canon = true → (run s c).canon = true) (hs : s.canon = true) : (dispatch n want
    prep run s).canon = true := by
  unfold dispatch
  dsimp only
  with_reducible repeat' first
    | assumption | apply hrun | apply dispatched_canon | apply faultCx_canon | apply setHeld_canon | apply settle_canon
    | split

theorem completeNow_canon (s : State) (x : Cmd) (hs : s.canon = true) : (completeNow s x).canon = true := by
  unfold completeNow
  with_reducible repeat' first | assumption | apply complete_canon

theorem enqueue_canon (s : State) (x : Cmd) (hs : s.canon = true) : (enqueue s x).canon = true := by
  unfold enqueue
  with_reducible repeat' first | assumption | apply addCmd_canon | apply stashDispatch_canon

theorem beginWait_canon (s : State) (x : Cmd) (w : Wait) (hs : s.canon = true) : (beginWait s x w).canon = true := by
  unfold beginWait
  dsimp only
  with_reducible repeat' first | assumption | apply addCmd_canon | apply pollVersion_canon | apply updSp_canon | split

end Sys2Proof.Machine
end

