-- ==== Sys2Proof/Laws/CanonEngines.lean ====
section
/-! SUPPORT. Arrays, CAST, links, movers, collectives and finishing engines keep the canonical form. -/

namespace Sys2Proof.Machine

theorem foldl_castRun {α : Type} {f : CastRun → α → CastRun} {l : List α} {s : CastRun} (hf : ∀ (s : CastRun) (x : α),
    s.s.canon = true → (f s x).s.canon = true)
    (h : s.s.canon = true) : (l.foldl f s).s.canon = true := by
  induction l generalizing s with
  | nil => exact h
  | cons x t ih => exact ih (hf s x h)

-- Arrays.lean

theorem assignSlot_canon (s : State) (c id : Nat) (members : List Nat) (k : Nat) (hs : s.canon = true) : (State.assignSlot s
    c id members k).canon = true := by
  unfold State.assignSlot
  dsimp only
  repeat' (first | (with_reducible first | assumption | apply updCx_canon) | refine canon_mk rfl ?_)

theorem satisfyReuse_canon (s : State) (x : Cmd) (members : List Nat) (k : Nat) (hs : s.canon = true) : (State.satisfyReuse s
    x members k).canon = true := by
  unfold State.satisfyReuse
  dsimp only
  with_reducible repeat' first
    | assumption | apply assignSlot_canon | apply count_canon | apply updCmd_canon | apply foldl_canon | intro _

theorem runWload_canon (s : State) (x : Cmd) (hs : s.canon = true) : (runWload s x).canon = true := by
  unfold runWload
  dsimp only
  with_reducible repeat' first | assumption | apply enqueue_canon | apply satisfyReuse_canon | apply updCx_canon | split

theorem placeWload_canon (s : State) (id : Nat) (hs : s.canon = true) : (placeWload s id).canon = true := by
  unfold placeWload
  dsimp only
  with_reducible repeat' first
    | assumption | apply assignSlot_canon | apply satisfyReuse_canon | apply settle_canon | apply updCmd_canon | split

theorem beginLoad_canon (s : State) (x : Cmd) (k : Nat) (hs : s.canon = true) : (State.beginLoad s x k).canon = true := by
  unfold State.beginLoad
  dsimp only
  with_reducible repeat' first
    | assumption | apply assignSlot_canon | apply updArr_canon | apply updCmd_canon | apply foldl_canon | intro _

theorem beginWload_canon (s : State) (id : Nat) (hs : s.canon = true) : (beginWload s id).canon = true := by
  unfold beginWload
  with_reducible repeat' first
    | assumption | apply beginLoad_canon | apply satisfyReuse_canon | apply settle_canon
    | (refine fst_of (by assumption) ?_; apply stashReady_canon) | split

theorem commitSlot_canon (s : State) (id : Nat) (hs : s.canon = true) : (commitSlot s id).canon = true := by
  unfold commitSlot
  dsimp only
  with_reducible repeat' first
    | assumption | apply count_canon | apply countFor_canon | apply faultCmd_canon | apply settle_canon | apply updArr_canon
    | apply updCmd_canon | apply foldl_canon | intro _ | split

theorem runConvgen_canon (s : State) (x : Cmd) (hs : s.canon = true) : (runConvgen s x).canon = true := by
  unfold runConvgen
  with_reducible repeat' first | assumption | apply completeNow_canon | apply updSp_canon

theorem leaveSlot_canon (s : State) (a k : Nat) (hs : s.canon = true) : (State.leaveSlot s a k).canon = true := by
  unfold State.leaveSlot
  dsimp only
  with_reducible repeat' first | assumption | apply updArr_canon | split

theorem finishRows_canon (s : State) (id : Nat) (hs : s.canon = true) : (State.finishRows s id).canon = true := by
  unfold State.finishRows
  with_reducible repeat' first | assumption | apply updCmd_canon | split

theorem beginRamp_canon (s : State) (a : Nat) (hs : s.canon = true) : (State.beginRamp s a).canon = true := by
  unfold State.beginRamp
  dsimp only
  repeat' (first | (with_reducible first | assumption | apply updArr_canon | split) | refine canon_mk rfl ?_)

theorem rowEntry_canon (s : State) (a : Nat) (hs : s.canon = true) : (rowEntry s a).canon = true := by
  unfold rowEntry
  dsimp only
  with_reducible repeat' first
    | assumption | apply beginRamp_canon | apply count_canon | apply countFor_canon
    | apply faultCmd_canon | apply finishRows_canon | apply settle_canon
    | apply updArr_canon | apply updCmd_canon | split

theorem ringArrival_canon (s : State) (a : Nat) (hs : s.canon = true) : (ringArrival s a).canon = true := by
  unfold ringArrival
  dsimp only
  with_reducible repeat' first
    | assumption | apply countFor_canon | apply finishRows_canon | apply leaveSlot_canon | apply settle_canon
    | apply updArr_canon | split

-- Cast.lean

theorem setEntry_canon (s : State) (e : CastEntry) (hs : s.canon = true) : (State.setEntry s e).canon = true := by
  unfold State.setEntry
  exact canon_mk rfl ‹_›

theorem dropHolds_canon (s : State) (c : Nat) (old : List Nat) (hs : s.canon = true) : (State.dropHolds s c old).canon = true
    := by
  unfold State.dropHolds
  with_reducible repeat' first | assumption | apply releaseHold_canon | apply foldl_canon | intro _

theorem takeKv_canon (s : State) (n : Nat) (hs : s.canon = true) : (State.takeKv s n).2.canon = true := by
  unfold State.takeKv
  dsimp only
  with_reducible repeat' first | assumption | apply pick_canon

theorem makeHold_canon {s : State} {c p : Nat} {t : State} (he : (State.makeHold s c p) = .ok t) (hs : s.canon = true) :
    t.canon = true := by
  refine Holds.out (P := fun r => r.canon = true) ?_ he
  unfold State.makeHold
  dsimp only
  with_reducible repeat' first
    | assumption | (refine post_canon (by assumption) ?_) | (apply Holds.ok; try dsimp only) | apply Holds.fault | split

theorem admitOne_canon (c a : Nat) (r : CastRun) (i : Nat) (hr : r.s.canon = true) : (admitOne c a r i).s.canon = true := by
  unfold admitOne
  dsimp only
  repeat' first
    | with_reducible first
      | assumption | (refine makeHold_canon (by assumption) ?_) | apply pick_canon | dsimp only | split
    | refine canon_mk rfl ?_

theorem castAdmitRun_canon (s : State) (c a n : Nat) (hs : s.canon = true) : (castAdmitRun s c a n).s.canon = true := by
  unfold castAdmitRun
  with_reducible repeat' first | assumption | apply admitOne_canon | apply foldl_castRun

theorem allocKv_canon {s : State} {e : CastEntry} {t : (State × CastEntry)} (he : (State.allocKv s e) = .ok t) (hs : s.canon
    = true) : t.1.canon = true := by
  refine Holds.out (P := fun r => r.1.canon = true) ?_ he
  unfold State.allocKv
  dsimp only
  with_reducible repeat' first
    | assumption | apply setEntry_canon | apply takeKv_canon | (refine vwriteNat_canon (by assumption) ?_)
    | apply Holds.bind | (apply Holds.ok; try dsimp only) | intro _

theorem rowsOf_canon {s : State} {b : Nat} {e : CastEntry} {t : (State × List SheetRow)} (he : (State.rowsOf s b e) = .ok t)
    (hs : s.canon = true) : t.1.canon = true := by
  refine Holds.out (P := fun r => r.1.canon = true) ?_ he
  unfold State.rowsOf
  dsimp only
  with_reducible repeat' first
    | assumption | (refine allocKv_canon (by assumption) ?_) | apply setEntry_canon | apply Holds.bind
    | (apply Holds.ok; try dsimp only) | intro _ | (refine Holds.of ?_)
    | (refine Holds.out (P := fun r : State × _ => r.1.canon = true) ?_ (by assumption); first | apply Holds.fold | apply Holds.bind | split)

theorem castBuild_canon (s : State) (c a budget : Nat) (hs : s.canon = true) : (castBuild s c a budget).s.canon = true := by
  unfold castBuild
  dsimp only
  repeat' first
    | with_reducible first
      | assumption | apply bump_canon | (refine rowsOf_canon (by assumption) ?_) | (refine vwrite_canon (by assumption) ?_)
      | apply Holds.bind | intro _ | dsimp only | split
      | (refine Holds.out (P := fun r : State => r.canon = true) ?_ (by assumption); first | apply Holds.fold | apply Holds.bind | split)
      | (refine Holds.out (P := fun r : State × _ => r.1.canon = true) ?_ (by assumption); first | apply Holds.fold | apply Holds.bind | split)
      | (apply Holds.ok; try dsimp only)
    | refine canon_mk rfl ?_

theorem takeToken_canon {s : State} {e : CastEntry} {tok : Nat} {t : (State × CastEntry)} (he : (State.takeToken s e tok) =
    .ok t) (hs : s.canon = true) : t.1.canon = true := by
  refine Holds.out (P := fun r => r.1.canon = true) ?_ he
  unfold State.takeToken
  dsimp only
  with_reducible repeat' first
    | assumption | (refine vwriteNat_canon (by assumption) ?_) | apply Holds.bind | (apply Holds.ok; try dsimp only)
    | intro _ | (refine Holds.of ?_)
    | (refine Holds.out (P := fun r : State => r.canon = true) ?_ (by assumption); first | apply Holds.fold | apply Holds.bind | split)

theorem sheetToken_canon {s : State} {c a n : Nat} {infos : List Nat} {e : CastEntry} {t : (State × Nat)} (he :
    (State.sheetToken s c a n infos e) = .ok t) (hs : s.canon = true) : t.1.canon = true := by
  refine Holds.out (P := fun r => r.1.canon = true) ?_ he
  unfold State.sheetToken
  repeat' first
    | with_reducible first
      | assumption | apply Holds.bind | (apply Holds.ok; try dsimp only) | intro _ | split
    | refine canon_mk rfl ?_

theorem advanceOne_canon {s : State} {c a n : Nat} {infos : List Nat} {e : CastEntry} {t : State} (he : (State.advanceOne s c
    a n infos e) = .ok t) (hs : s.canon = true) : t.canon = true := by
  refine Holds.out (P := fun r => r.canon = true) ?_ he
  unfold State.advanceOne
  dsimp only
  with_reducible repeat' first
    | assumption | apply dropHolds_canon | apply setEntry_canon | (refine sheetToken_canon (by assumption) ?_)
    | (refine takeToken_canon (by assumption) ?_) | apply Holds.bind | (apply Holds.ok; try dsimp only) | intro _ | split
    | (refine Holds.of ?_)
    | (refine Holds.out (P := fun r : State × _ => r.1.canon = true) ?_ (by assumption); first | apply Holds.fold | apply Holds.bind | split)

theorem castAdvance_canon (s : State) (c a : Nat) (hs : s.canon = true) : (castAdvance s c a).s.canon = true := by
  unfold castAdvance
  dsimp only
  with_reducible repeat' first
    | assumption | (refine advanceOne_canon (by assumption) ?_) | apply Holds.bind | intro _ | dsimp only | split
    | (refine Holds.out (P := fun r : State => r.canon = true) ?_ (by assumption); first | apply Holds.fold | apply Holds.bind | split)
    | (refine Holds.out (P := fun r : State × _ => r.1.canon = true) ?_ (by assumption); first | apply Holds.fold | apply Holds.bind | split)
    | (apply Holds.ok; try dsimp only) | (refine Holds.of ?_)

theorem copyEntries_canon {s : State} {c a : Nat} {es : List CastEntry} {t : State} (he : (State.copyEntries s c a es) = .ok
    t) (hs : s.canon = true) : t.canon = true := by
  refine Holds.out (P := fun r => r.canon = true) ?_ he
  unfold State.copyEntries
  with_reducible repeat' first | assumption | (refine vwrite_canon (by assumption) ?_) | intro _ | (refine Holds.of ?_)

theorem castRetire_canon (s : State) (c a n : Nat) (hs : s.canon = true) : (castRetire s c a n).s.canon = true := by
  unfold castRetire
  dsimp only
  repeat' first
    | with_reducible first
      | assumption | (refine copyEntries_canon (by assumption) ?_) | dsimp only | split
    | refine canon_mk rfl ?_

theorem castSnapshot_canon (s : State) (c a n : Nat) (hs : s.canon = true) : (castSnapshot s c a n).s.canon = true := by
  unfold castSnapshot
  dsimp only
  with_reducible repeat' first | assumption | (refine copyEntries_canon (by assumption) ?_) | split

theorem parkOne_canon (c : Nat) (park : Bool) (r : CastRun) (sid : Nat) (hr : r.s.canon = true) : (parkOne c park r
    sid).s.canon = true := by
  unfold parkOne
  with_reducible repeat' first | assumption | apply setEntry_canon | split

theorem castPark_canon (s : State) (c a n : Nat) (park : Bool) (hs : s.canon = true) : (castPark s c a n park).s.canon = true
    := by
  unfold castPark
  with_reducible repeat' first | assumption | apply parkOne_canon | apply foldl_castRun | split

theorem castRun_canon (s : State) (x : Cmd) (hs : s.canon = true) : (castRun s x).s.canon = true := by
  unfold castRun
  dsimp only
  with_reducible repeat' first
    | assumption | apply castAdmitRun_canon | apply castAdvance_canon | apply castBuild_canon | apply castPark_canon
    | apply castRetire_canon | apply castSnapshot_canon | split

theorem tryCast_canon (s : State) (x : Cmd) (hs : s.canon = true) : (tryCast s x).canon = true := by
  unfold tryCast
  dsimp only
  split
  · exact hs
  · split
    · exact fst_of (by assumption) (stashReady_canon _ _ _ hs)
    · have hr := castRun_canon _ x (fst_of (by assumption) (stashReady_canon _ _ _ hs))
      split
      · exact faultCmd_canon _ _ _ hr
      · exact fst_of (by assumption) (stashReady_canon _ _ _ hs)
      · split
        · exact faultCmd_canon _ _ _ hr
        · exact fst_of (by assumption) (stashReady_canon _ _ _ hs)
        · refine rush_canon _ _ _ _ _ _ _ _ (updCmd_canon _ _ _ ?_)
          refine Holds.out (P := fun r : State => r.canon = true) ?_ (by assumption)
          split
          · exact Holds.ok hr
          · exact fun t e => vwrite_canon e hr

theorem runCast_canon (s : State) (x : Cmd) (hs : s.canon = true) : (runCast s x).canon = true := by
  unfold runCast
  dsimp only
  with_reducible repeat' first | assumption | apply enqueue_canon | apply tryCast_canon | split

-- Operands.lean

theorem put_canon (s : State) (w : HW) (f : Fld) (n : Nat) (i : Nat) (hs : s.canon = true) : (State.put s w f n i).canon =
    true := by
  unfold State.put
  with_reducible repeat' first | assumption | apply wr_canon | split

theorem puts_canon (s : State) (w : HW) (fs : List Fld) (n : Nat) (i : Nat) (hs : s.canon = true) : (State.puts s w fs n
    i).canon = true := by
  unfold State.puts
  with_reducible repeat' first | assumption | apply put_canon | apply foldl_canon | intro _

theorem act_canon (s : State) (obj : Nat) (hs : s.canon = true) : (State.act s obj).canon = true := by
  unfold State.act
  dsimp only
  exact canon_mk rfl ‹_›

theorem supCount_canon (s : State) (hs : s.canon = true) : (State.supCount s).canon = true := by
  unfold State.supCount
  with_reducible repeat' first | assumption | apply bump_canon

theorem supHost_canon (s : State) (b : Blk) (n o : Nat) (hs : s.canon = true) : (State.supHost s b n o).canon = true := by
  unfold State.supHost
  dsimp only
  with_reducible repeat' first | assumption | apply setFlag_canon | apply supCount_canon | apply wr_canon

theorem hostGate_canon (s : State) (b : Blk) (n o : Nat) (f : State → State) (hs : s.canon = true) (hf : ∀ s : State, s.canon
    = true → (f s).canon = true) : (State.hostGate s b n o f).canon = true := by
  unfold State.hostGate
  with_reducible repeat' first | assumption | apply hf | apply supHost_canon | split

theorem setStart_canon (s : State) (st : Nat) (hs : s.canon = true) : (State.setStart s st).canon = true := by
  unfold State.setStart
  with_reducible repeat' first | assumption | apply emit_canon | apply wr_canon | split

-- Links.lean

theorem failMsg_canon (s : State) (m : Msg) (k : Cause) (hs : s.canon = true) : (State.failMsg s m k).canon = true := by
  unfold State.failMsg
  with_reducible repeat' first | assumption | apply faultCx_canon

theorem failColl_canon (s : State) (k : Coll) (c : Cause) (hs : s.canon = true) : (State.failColl s k c).canon = true := by
  unfold State.failColl
  with_reducible repeat' first | assumption | apply faultCx_canon

theorem loseFrame_canon (s : State) (f : Frame) (hs : s.canon = true) : (State.loseFrame s f).canon = true := by
  unfold State.loseFrame
  with_reducible repeat' first | assumption | apply failColl_canon | apply failMsg_canon | split

theorem setPort_canon (s : State) (p st : Nat) (hs : s.canon = true) : (State.setPort s p st).canon = true := by
  unfold State.setPort
  with_reducible repeat' first | assumption | apply updPort_canon | apply wr_canon

theorem reseat_canon (s : State) (hs : s.canon = true) : (State.reseat s).canon = true := by
  unfold State.reseat
  with_reducible repeat' first | assumption | apply setFlag_canon

theorem portDown_canon (s : State) (p : Nat) (record : Bool) (hs : s.canon = true) : (State.portDown s p record).canon = true
    := by
  unfold State.portDown
  dsimp only
  with_reducible repeat' first
    | assumption | apply loseFrame_canon | apply reelEvent_canon | apply reseat_canon | apply updPort_canon | apply wr_canon
    | apply foldl_canon | split

theorem train_canon (s : State) (p : Nat) (hs : s.canon = true) : (State.train s p).canon = true := by
  unfold State.train
  dsimp only
  with_reducible repeat' first
    | assumption | apply setFlag_canon | apply setPort_canon | apply updPort_canon | apply wr_canon | split

theorem updTsu_canon (s : State) (f : Tsu → Tsu) (hs : s.canon = true) : (State.updTsu s f).canon = true := by
  unfold State.updTsu
  exact canon_mk rfl ‹_›

theorem clapAsk_canon (s : State) (hs : s.canon = true) : (State.clapAsk s).canon = true := by
  unfold State.clapAsk
  dsimp only
  with_reducible repeat' first | assumption | apply sendFrames_canon | apply updTsu_canon

theorem clapEnd_canon (s : State) (ok : Bool) (hs : s.canon = true) : (State.clapEnd s ok).canon = true := by
  unfold State.clapEnd
  dsimp only
  with_reducible repeat' first | assumption | apply setFlag_canon | apply updTsu_canon | split

theorem clapStart_canon (s : State) (hs : s.canon = true) : (State.clapStart s).canon = true := by
  unfold State.clapStart
  with_reducible repeat' first | assumption | apply clapAsk_canon | apply clapEnd_canon | apply setFlag_canon | split

theorem rollEnd_canon (s : State) (hs : s.canon = true) : (State.rollEnd s).canon = true := by
  unfold State.rollEnd
  with_reducible repeat' first | assumption | apply clapStart_canon | split

theorem sendRoll_canon (s : State) (p : Nat) (hs : s.canon = true) : (State.sendRoll s p).canon = true := by
  unfold State.sendRoll
  with_reducible repeat' first | assumption | apply sendOn_canon | apply updPort_canon

theorem portLock_canon (s : State) (p : Nat) (hs : s.canon = true) : (portLock s p).canon = true := by
  unfold portLock
  with_reducible repeat' first | assumption | apply sendRoll_canon | apply setPort_canon | apply wr_canon | split

theorem trainTimeout_canon (s : State) (p : Nat) (hs : s.canon = true) : (trainTimeout s p).canon = true := by
  unfold trainTimeout
  with_reducible repeat' first | assumption | apply portDown_canon | apply rollEnd_canon | apply settle_canon | split

theorem laneLoss_canon (s : State) (p lane : Nat) (hs : s.canon = true) : (laneLoss s p lane).canon = true := by
  unfold laneLoss
  dsimp only
  with_reducible repeat' first
    | assumption | apply portDown_canon | apply rollEnd_canon | apply settle_canon | apply wr_canon | split

theorem rollAgain_canon (s : State) (p : Nat) (hs : s.canon = true) : (rollAgain s p).canon = true := by
  unfold rollAgain
  with_reducible repeat' first | assumption | apply sendRoll_canon | split

theorem ackTimeout_canon (s : State) (p : Nat) (hs : s.canon = true) : (ackTimeout s p).canon = true := by
  unfold ackTimeout
  dsimp only
  with_reducible repeat' first | assumption | apply portDown_canon | apply settle_canon | split

theorem fecLimit_canon (s : State) (p : Nat) (hs : s.canon = true) : (fecLimit s p).canon = true := by
  unfold fecLimit
  with_reducible repeat' first
    | assumption | apply bump_canon | apply portDown_canon | apply rollEnd_canon | apply settle_canon | split

theorem lkCtlWrite_canon (s : State) (p : Nat) (w : HW) (hs : s.canon = true) : (lkCtlWrite s p w).canon = true := by
  unfold lkCtlWrite
  dsimp only
  with_reducible repeat' first | assumption | apply put_canon | apply train_canon | split

theorem lkCreditWrite_canon (s : State) (p : Nat) (w : HW) (hs : s.canon = true) : (lkCreditWrite s p w).canon = true := by
  unfold lkCreditWrite
  with_reducible repeat' first | assumption | apply puts_canon | split

theorem sendLink_canon (s : State) (p : Nat) (nak : Bool) (hs : s.canon = true) : (State.sendLink s p nak).canon = true := by
  unfold State.sendLink
  dsimp only
  with_reducible repeat' first | assumption | apply emit_canon | apply updPort_canon

theorem resend_canon (s : State) (p : Nat) (hs : s.canon = true) : (State.resend s p).canon = true := by
  unfold State.resend
  dsimp only
  with_reducible repeat' first
    | assumption | apply bump_canon | apply count_canon | apply emit_canon | apply portDown_canon | apply updPort_canon
    | apply foldl_canon | intro _ | split

theorem linkFields_canon (s : State) (p : Nat) (f : Frame) (hs : s.canon = true) : (State.linkFields s p f).canon = true :=
    by
  unfold State.linkFields
  dsimp only
  with_reducible repeat' first | assumption | apply resend_canon | apply updPort_canon | split

theorem discardFrame_canon (s : State) (p : Nat) (hs : s.canon = true) : (State.discardFrame s p).canon = true := by
  unfold State.discardFrame
  with_reducible repeat' first | assumption | apply sendLink_canon | apply updPort_canon | split

theorem takeFrame_canon (s : State) (p : Nat) (f : Frame) (hs : s.canon = true) : (State.takeFrame s p f).canon = true := by
  unfold State.takeFrame
  dsimp only
  with_reducible repeat' first | assumption | apply count_canon | apply linkFields_canon | apply updPort_canon

theorem dropFrame_canon (s : State) (p : Nat) (hs : s.canon = true) : (State.dropFrame s p).canon = true := by
  unfold State.dropFrame
  with_reducible repeat' first | assumption | apply bump_canon

theorem receive_canon (p : Nat) (f : Frame) (typ : Nat) (h : Frame → State → State) (s : State) (hh : ∀ (f : Frame) (s :
    State), s.canon = true → (h f s).canon = true) (hs : s.canon = true) : (receive p f typ h s).canon = true := by
  unfold receive
  dsimp only
  with_reducible repeat' first
    | assumption | apply hh | apply discardFrame_canon | apply dropFrame_canon | apply reelEvent_canon | apply settle_canon
    | apply takeFrame_canon | split

theorem linkRx_canon (s : State) (p : Nat) (f : Frame) (hs : s.canon = true) : (linkRx s p f).canon = true := by
  unfold linkRx
  with_reducible repeat' first | assumption | apply linkFields_canon | apply settle_canon | split

theorem linkAck_canon (s : State) (p : Nat) (hs : s.canon = true) : (linkAck s p).canon = true := by
  unfold linkAck
  with_reducible repeat' first | assumption | apply sendLink_canon | split

theorem frameDiscard_canon (s : State) (p : Nat) (why : Discard) (f : Frame) (hs : s.canon = true) : (frameDiscard s p why
    f).canon = true := by
  unfold frameDiscard
  dsimp only
  with_reducible repeat' first
    | assumption | apply bump_canon | apply discardFrame_canon | apply dropFrame_canon | apply settle_canon
    | apply takeFrame_canon | split

theorem writeSeat_canon (s : State) (d : Nat) (hs : s.canon = true) : (State.writeSeat s d).canon = true := by
  unfold State.writeSeat
  dsimp only
  with_reducible repeat' first | assumption | apply wr_canon

theorem rollReply_canon (s : State) (p : Nat) (f : Frame) (r : Seat) (hs : s.canon = true) : (rollReply s p f r).canon = true
    := by
  unfold rollReply
  dsimp only
  repeat' first
    | with_reducible first
      | assumption | apply discardFrame_canon | apply portDown_canon | apply reelEvent_canon | apply reseat_canon
      | apply rollEnd_canon | apply setFlag_canon | apply setPort_canon | apply settle_canon | apply takeFrame_canon
      | apply updPort_canon | apply wr_canon | apply writeSeat_canon | split
    | refine canon_mk rfl ?_

theorem seatTimeout_canon (s : State) (hs : s.canon = true) : (seatTimeout s).canon = true := by
  unfold seatTimeout
  with_reducible repeat' first | assumption | apply reseat_canon | apply rollEnd_canon | split

-- Movers.lean

theorem copyAll_canon (s : State) (x : Cmd) (cs : List (Nat × Nat × Nat)) (hs : s.canon = true) : (State.copyAll s x
    cs).1.canon = true := by
  unfold State.copyAll
  with_reducible repeat' first | assumption | apply vcopyFrom_canon | apply foldl_fst | intro _ | split

theorem tryMover_canon (s : State) (x : Cmd) (hs : s.canon = true) : (tryMover s x).canon = true := by
  unfold tryMover
  with_reducible repeat' first
    | assumption | (refine fst_of (by assumption) ?_; apply copyAll_canon) | apply faultCmd_canon
    | (refine fst_of (by assumption) ?_; apply stashReady_canon) | apply updCmd_canon | split

theorem runMover_canon (s : State) (x : Cmd) (hs : s.canon = true) : (runMover s x).canon = true := by
  unfold runMover
  dsimp only
  with_reducible repeat' first | assumption | apply enqueue_canon | apply tryMover_canon | split

-- Outbox.lean

theorem startMsg_canon (s : State) (m : Msg) (fs : List Frame) (hs : s.canon = true) : (State.startMsg s m fs).canon = true
    := by
  unfold State.startMsg
  repeat' (first | (with_reducible first | assumption | apply sendFrames_canon) | refine canon_mk rfl ?_)

theorem startPut_canon (s : State) (cmd : Option Nat) (c dev rcx dst : Nat) (bs : List Byte) (rpost : Option Nat) (ckpt :
    Bool) (hs : s.canon = true) : (State.startPut s cmd c dev rcx dst bs rpost ckpt).canon = true := by
  unfold State.startPut
  dsimp only
  with_reducible repeat' first | assumption | apply startMsg_canon

theorem beginSend_canon (s : State) (c : Nat) (k : CkSend) (hs : s.canon = true) : (State.beginSend s c k).1.canon = true :=
    by
  unfold State.beginSend
  dsimp only
  with_reducible repeat' first | assumption | apply startPut_canon

theorem updCkpt_canon (s : State) (c : Nat) (f : Ckpt → Ckpt) (hs : s.canon = true) : (State.updCkpt s c f).canon = true :=
    by
  unfold State.updCkpt
  with_reducible repeat' first | assumption | apply updCx_canon

theorem sendStep_canon (s : State) (c : Nat) (hs : s.canon = true) : (State.sendStep s c).canon = true := by
  unfold State.sendStep
  dsimp only
  with_reducible repeat' first | assumption | apply beginSend_canon | apply updCkpt_canon | split

theorem sendDone_canon (s : State) (c msg : Nat) (hs : s.canon = true) : (State.sendDone s c msg).canon = true := by
  unfold State.sendDone
  dsimp only
  with_reducible repeat' first
    | assumption | apply sendStep_canon | apply setFlag_canon | apply updCkpt_canon | apply wr_canon | split

theorem kickSends_canon (s : State) (c : Nat) (hs : s.canon = true) : (State.kickSends s c).canon = true := by
  unfold State.kickSends
  with_reducible repeat' first | assumption | apply sendStep_canon | split

theorem gotParity_canon (s : State) (c a n : Nat) (hs : s.canon = true) : (State.gotParity s c a n).canon = true := by
  unfold State.gotParity
  dsimp only
  with_reducible repeat' first | assumption | apply bump_canon | apply updCkpt_canon | apply wr_canon | split

-- Seal.lean

theorem releaseHeld_canon (s : State) (c : Nat) (p : HeldFrame → Bool) (hs : s.canon = true) : (State.releaseHeld s c
    p).canon = true := by
  unfold State.releaseHeld
  dsimp only
  with_reducible repeat' first | assumption | apply returnFrame_canon | apply updCkpt_canon | apply foldl_canon | intro _

theorem sealed_canon (s : State) (c : Nat) (hs : s.canon = true) : (State.sealed s c).canon = true := by
  unfold State.sealed
  dsimp only
  with_reducible repeat' first | assumption | apply releaseHeld_canon | apply wr_canon

theorem sealBarrierDone_canon (s : State) (c : Nat) (hs : s.canon = true) : (State.sealBarrierDone s c).canon = true := by
  unfold State.sealBarrierDone
  with_reducible repeat' first | assumption | apply sealed_canon | apply updCkpt_canon

theorem readyBarrierDone_canon (s : State) (c : Nat) (hs : s.canon = true) : (State.readyBarrierDone s c).canon = true := by
  unfold State.readyBarrierDone
  dsimp only
  with_reducible repeat' first | assumption | apply setFlag_canon | apply updCkpt_canon | split

-- Accords.lean

theorem areaWrite_canon {s : State} {c : Nat} {a : Accord} {v : AreaView} {t : State} (he : (State.areaWrite s c a v) = .ok
    t) (hs : s.canon = true) : t.canon = true := by
  refine Holds.out (P := fun r => r.canon = true) ?_ he
  unfold State.areaWrite
  with_reducible repeat' first | assumption | (refine vwrite_canon (by assumption) ?_) | intro _ | split | (refine Holds.of ?_)

theorem setReady_canon {s : State} {c : Nat} {a : Accord} {seq r : Nat} {t : State} (he : (State.setReady s c a seq r) = .ok
    t) (hs : s.canon = true) : t.canon = true := by
  refine Holds.out (P := fun r => r.canon = true) ?_ he
  unfold State.setReady
  dsimp only
  with_reducible repeat' first
    | assumption | (refine vwriteNat_canon (by assumption) ?_) | apply Holds.bind | intro _ | split | (refine Holds.of ?_)

theorem clearReady_canon (s : State) (c : Nat) (a : Accord) (seq : Nat) (hs : s.canon = true) : (State.clearReady s c a
    seq).canon = true := by
  unfold State.clearReady
  with_reducible repeat' first | assumption | (refine vwrite_canon (by assumption) ?_) | split

-- Collunits.lean

theorem putElt_canon {s : State} {c : Nat} {d : Desc} {r col code : Nat} {t : State} (he : (State.putElt s c d r col code) =
    .ok t) (hs : s.canon = true) : t.canon = true := by
  refine Holds.out (P := fun r => r.canon = true) ?_ he
  unfold State.putElt
  dsimp only
  with_reducible repeat' first
    | assumption | (refine vwriteNat_canon (by assumption) ?_) | apply Holds.bind | intro _ | (refine Holds.of ?_)

theorem storedWrite_canon {s : State} {c : Nat} {d : Desc} {e : Nat} {bs : List Byte} {t : State} (he : (State.storedWrite s
    c d e bs) = .ok t) (hs : s.canon = true) : t.canon = true := by
  refine Holds.out (P := fun r => r.canon = true) ?_ he
  unfold State.storedWrite
  dsimp only
  with_reducible repeat' first
    | assumption | (refine putElt_canon (by assumption) ?_) | (refine vwriteNat_canon (by assumption) ?_) | apply Holds.fold
    | apply Holds.bind | (apply Holds.ok; try dsimp only) | intro _ | split | (refine Holds.of ?_)
    | (refine Holds.out (P := fun r : State => r.canon = true) ?_ (by assumption); first | apply Holds.fold | apply Holds.bind | split)

theorem unitsWrite_canon {s : State} {k : Coll} {u : Nat} {bs : List Byte} {t : State} (he : (State.unitsWrite s k u bs) =
    .ok t) (hs : s.canon = true) : t.canon = true := by
  refine Holds.out (P := fun r => r.canon = true) ?_ he
  unfold State.unitsWrite
  with_reducible repeat' first
    | assumption | (refine storedWrite_canon (by assumption) ?_) | (refine vwrite_canon (by assumption) ?_)
    | apply Holds.fold | (apply Holds.ok; try dsimp only) | intro _ | split | (refine Holds.of ?_)

-- Collectives.lean

theorem flush_canon (s : State) (k : Coll) (hs : s.canon = true) : (State.flush s k).1.canon = true := by
  unfold State.flush
  dsimp only
  with_reducible repeat' first | assumption | apply sendFrames_canon

theorem sendReady_canon (s : State) (k : Coll) (hs : s.canon = true) : (State.sendReady s k).1.canon = true := by
  unfold State.sendReady
  dsimp only
  with_reducible repeat' first | assumption | apply sendFrames_canon

theorem setColl_canon (s : State) (k : Coll) (hs : s.canon = true) : (State.setColl s k).canon = true := by
  unfold State.setColl
  exact canon_mk rfl ‹_›

theorem finalWrite_canon {s : State} {k : Coll} {us : List (Nat × List Byte)} {t : State} (he : (State.finalWrite s k us) =
    .ok t) (hs : s.canon = true) : t.canon = true := by
  refine Holds.out (P := fun r => r.canon = true) ?_ he
  unfold State.finalWrite
  dsimp only
  with_reducible repeat' first
    | assumption | (refine unitsWrite_canon (by assumption) ?_) | apply Holds.fold | intro _ | (refine Holds.of ?_)

theorem finals_canon {s : State} {k : Coll} {rs : List (Nat × Reduced)} {t : (State × Coll)} (he : (State.finals s k rs) =
    .ok t) (hs : s.canon = true) : t.1.canon = true := by
  refine Holds.out (P := fun r => r.1.canon = true) ?_ he
  unfold State.finals
  dsimp only
  with_reducible repeat' first
    | assumption | (refine finalWrite_canon (by assumption) ?_) | apply Holds.bind | (apply Holds.ok; try dsimp only)
    | intro _

theorem beginReduce_canon {s : State} {k : Coll} {t : (State × Coll)} (he : (State.beginReduce s k) = .ok t) (hs : s.canon =
    true) : t.1.canon = true := by
  refine Holds.out (P := fun r => r.1.canon = true) ?_ he
  unfold State.beginReduce
  dsimp only
  with_reducible repeat' first
    | assumption | (refine finals_canon (by assumption) ?_) | apply Holds.fold | apply Holds.bind
    | (apply Holds.ok; try dsimp only) | intro _ | split | (refine Holds.of ?_)

theorem takeReduce_canon {s : State} {k : Coll} {q : Nat} {us : List (Nat × List Byte)} {t : (State × Coll)} (he :
    (State.takeReduce s k q us) = .ok t) (hs : s.canon = true) : t.1.canon = true := by
  refine Holds.out (P := fun r => r.1.canon = true) ?_ he
  unfold State.takeReduce
  dsimp only
  with_reducible repeat' first
    | assumption | (refine finals_canon (by assumption) ?_) | apply Holds.bind | (apply Holds.ok; try dsimp only) | intro _
    | split | (refine Holds.of ?_)

theorem takeFinal_canon {s : State} {k : Coll} {us : List (Nat × List Byte)} {t : (State × Coll)} (he : (State.takeFinal s k
    us) = .ok t) (hs : s.canon = true) : t.1.canon = true := by
  refine Holds.out (P := fun r => r.1.canon = true) ?_ he
  unfold State.takeFinal
  dsimp only
  with_reducible repeat' first
    | assumption | (refine finalWrite_canon (by assumption) ?_) | apply Holds.bind | (apply Holds.ok; try dsimp only)
    | intro _

theorem beginGather_canon {s : State} {k : Coll} {t : (State × Coll)} (he : (State.beginGather s k) = .ok t) (hs : s.canon =
    true) : t.1.canon = true := by
  refine Holds.out (P := fun r => r.1.canon = true) ?_ he
  unfold State.beginGather
  dsimp only
  with_reducible repeat' first
    | assumption | (refine unitsWrite_canon (by assumption) ?_) | apply Holds.bind | (apply Holds.ok; try dsimp only)
    | intro _

theorem takeGather_canon {s : State} {k : Coll} {q : Nat} {us : List (Nat × List Byte)} {t : (State × Coll)} (he :
    (State.takeGather s k q us) = .ok t) (hs : s.canon = true) : t.1.canon = true := by
  refine Holds.out (P := fun r => r.1.canon = true) ?_ he
  unfold State.takeGather
  dsimp only
  with_reducible repeat' first
    | assumption | (refine unitsWrite_canon (by assumption) ?_) | apply Holds.bind | (apply Holds.ok; try dsimp only)
    | intro _ | (refine Holds.of ?_)
    | (refine Holds.out (P := fun r : State => r.canon = true) ?_ (by assumption); first | apply Holds.fold | apply Holds.bind | split)

theorem exchFull_canon {s : State} {k : Coll} {ts : List Nat} {t : (State × Coll)} (he : (State.exchFull s k ts) = .ok t) (hs
    : s.canon = true) : t.1.canon = true := by
  refine Holds.out (P := fun r => r.1.canon = true) ?_ he
  unfold State.exchFull
  dsimp only
  with_reducible repeat' first
    | assumption | (refine unitsWrite_canon (by assumption) ?_) | apply Holds.bind | (apply Holds.ok; try dsimp only)
    | intro _ | (refine Holds.of ?_)
    | (refine Holds.out (P := fun r : State => r.canon = true) ?_ (by assumption); first | apply Holds.fold | apply Holds.bind | split)

theorem beginExch_canon {s : State} {k : Coll} {t : (State × Coll)} (he : (State.beginExch s k) = .ok t) (hs : s.canon =
    true) : t.1.canon = true := by
  refine Holds.out (P := fun r => r.1.canon = true) ?_ he
  unfold State.beginExch
  dsimp only
  with_reducible repeat' first
    | assumption | (refine exchFull_canon (by assumption) ?_) | (refine unitsWrite_canon (by assumption) ?_)
    | apply Holds.bind | (apply Holds.ok; try dsimp only) | intro _ | split | (refine Holds.of ?_)
    | (refine Holds.out (P := fun r : State × _ => r.1.canon = true) ?_ (by assumption); first | apply Holds.fold | apply Holds.bind | split)

theorem takeExch_canon {s : State} {k : Coll} {q : Nat} {us : List (Nat × List Byte)} {t : (State × Coll)} (he :
    (State.takeExch s k q us) = .ok t) (hs : s.canon = true) : t.1.canon = true := by
  refine Holds.out (P := fun r => r.1.canon = true) ?_ he
  unfold State.takeExch
  with_reducible repeat' first
    | assumption | (refine exchFull_canon (by assumption) ?_) | (refine unitsWrite_canon (by assumption) ?_)
    | apply Holds.bind | (apply Holds.ok; try dsimp only) | intro _ | split | (refine Holds.of ?_)
    | (refine Holds.out (P := fun r : State => r.canon = true) ?_ (by assumption); first | apply Holds.fold | apply Holds.bind | split)

theorem collResult_canon (s : State) (k : Coll) (hs : s.canon = true) : (State.collResult s k).canon = true := by
  unfold State.collResult
  dsimp only
  with_reducible repeat' first
    | assumption | apply countFor_canon | apply readyBarrierDone_canon | apply sealBarrierDone_canon | apply updCmd_canon
    | split

theorem endColl_canon (s : State) (k : Coll) (hs : s.canon = true) : (State.endColl s k).canon = true := by
  unfold State.endColl
  dsimp only
  repeat' first
    | with_reducible first
      | assumption | apply clearReady_canon | apply collResult_canon | apply failColl_canon | apply rush_canon | split
    | refine canon_mk rfl ?_

theorem collStep_canon (s : State) (k : Coll) (r : Res (State × Coll)) (hs : s.canon = true) (hr : ∀ t, r = .ok t → t.1.canon
    = true) :
    (State.collStep s k r).canon = true := by
  unfold State.collStep
  split
  · exact endColl_canon _ _ (setColl_canon _ _ (flush_canon _ _ (hr _ rfl)))
  · exact failColl_canon _ _ _ hs
  · exact failColl_canon _ _ _ hs

theorem collStep_ok (s u : State) (k k' : Coll) (hs : s.canon = true) (hu : u.canon = true) : (State.collStep s k (.ok (u,
    k'))).canon = true :=
  collStep_canon s k _ hs fun t e => by cases e; exact hu

theorem takeNumber_canon {s : State} {c : Nat} {a : Accord} {t : (State × Nat × Bool)} (he : (State.takeNumber s c a) = .ok
    t) (hs : s.canon = true) : t.1.canon = true := by
  refine Holds.out (P := fun r => r.1.canon = true) ?_ he
  unfold State.takeNumber
  with_reducible repeat' first
    | assumption | (refine areaWrite_canon (by assumption) ?_) | apply Holds.bind | (apply Holds.ok; try dsimp only)
    | apply Holds.fault | intro _ | split

theorem openColl_canon (s : State) (k : Coll) (hs : s.canon = true) : (State.openColl s k).canon = true := by
  unfold State.openColl
  dsimp only
  repeat' first
    | with_reducible first
      | assumption | apply failColl_canon | apply faultCx_canon | (refine takeNumber_canon (by assumption) ?_) | split
    | refine canon_mk rfl ?_

theorem beginData_canon {s : State} {k : Coll} {t : (State × Coll)} (he : (State.beginData s k) = .ok t) (hs : s.canon =
    true) : t.1.canon = true := by
  refine Holds.out (P := fun r => r.1.canon = true) ?_ he
  unfold State.beginData
  with_reducible repeat' first
    | assumption | (refine beginExch_canon (by assumption) ?_) | (refine beginGather_canon (by assumption) ?_)
    | (refine beginReduce_canon (by assumption) ?_) | (apply Holds.ok; try dsimp only) | intro _ | split
    | (refine Holds.of ?_)

theorem enterColl_canon (s : State) (k : Coll) (hs : s.canon = true) : (State.enterColl s k).canon = true := by
  unfold State.enterColl
  dsimp only
  with_reducible repeat' first
    | assumption | (refine beginData_canon (by assumption) ?_) | apply collStep_canon | apply sendReady_canon
    | apply setColl_canon | intro _

theorem enterVote_canon (s : State) (id : Nat) (vote : List Byte) (hs : s.canon = true) : (State.enterVote s id vote).canon =
    true := by
  unfold State.enterVote
  with_reducible repeat' first | assumption | apply enterColl_canon | split

theorem readyAgain_canon (s : State) (id : Nat) (hs : s.canon = true) : (readyAgain s id).canon = true := by
  unfold readyAgain
  dsimp only
  with_reducible repeat' first | assumption | apply sendReady_canon | apply setColl_canon | apply settle_canon | split

theorem collLate_canon (s : State) (id : Nat) (hs : s.canon = true) : (collLate s id).canon = true := by
  unfold collLate
  dsimp only
  with_reducible repeat' first | assumption | apply failColl_canon | apply settle_canon | split

theorem readyLate_canon (s : State) (id : Nat) (hs : s.canon = true) : (readyLate s id).canon = true := by
  unfold readyLate
  dsimp only
  with_reducible repeat' first | assumption | apply failColl_canon | apply settle_canon | split

theorem stale_canon (s : State) (hs : s.canon = true) : (State.stale s).canon = true := by
  unfold State.stale
  with_reducible repeat' first | assumption | apply bump_canon

theorem abortEarly_canon (s : State) (c : Nat) (a : Accord) (f : Frame) (hs : s.canon = true) : (State.abortEarly s c a
    f).canon = true := by
  unfold State.abortEarly
  with_reducible repeat' first | assumption | apply sendFrames_canon

theorem recordReady_canon (s : State) (f : Frame) (a : Accord) (r : Nat) (hs : s.canon = true) : (State.recordReady s f a
    r).canon = true := by
  unfold State.recordReady
  dsimp only
  with_reducible repeat' first
    | assumption | apply collStep_ok | apply faultCx_canon | apply setColl_canon
    | (refine setReady_canon (by assumption) ?_) | split

theorem takeReady_canon (f : Frame) (s : State) (hs : s.canon = true) : (takeReady f s).canon = true := by
  unfold takeReady
  dsimp only
  with_reducible repeat' first
    | assumption | apply abortEarly_canon | apply faultCx_canon | apply recordReady_canon | apply stale_canon | split

theorem takeUnits_canon {s : State} {k : Coll} {q : Nat} {f : Frame} {t : (State × Coll)} (he : (State.takeUnits s k q f) =
    .ok t) (hs : s.canon = true) : t.1.canon = true := by
  refine Holds.out (P := fun r => r.1.canon = true) ?_ he
  unfold State.takeUnits
  dsimp only
  with_reducible repeat' first
    | assumption | (refine takeExch_canon (by assumption) ?_) | (refine takeFinal_canon (by assumption) ?_)
    | (refine takeGather_canon (by assumption) ?_) | (refine takeReduce_canon (by assumption) ?_)
    | (apply Holds.ok; try dsimp only) | intro _ | split | (refine Holds.of ?_)

theorem takeColl_canon (f : Frame) (s : State) (hs : s.canon = true) : (takeColl f s).canon = true := by
  unfold takeColl
  dsimp only
  with_reducible repeat' first
    | assumption | apply collStep_ok | apply collStep_canon | apply failColl_canon | apply stale_canon
    | (refine takeUnits_canon (by assumption) ?_) | intro _ | split

theorem keepAbort_canon (s : State) (c : Nat) (a : Accord) (v : AreaView) (n : Nat) (hs : s.canon = true) : (State.keepAbort
    s c a v n).canon = true := by
  unfold State.keepAbort
  with_reducible repeat' first | assumption | (refine areaWrite_canon (by assumption) ?_) | apply faultCx_canon | split

theorem takeAbort_canon (f : Frame) (s : State) (hs : s.canon = true) : (takeAbort f s).canon = true := by
  unfold takeAbort
  dsimp only
  with_reducible repeat' first | assumption | apply failColl_canon | apply keepAbort_canon | apply stale_canon | split

theorem tryColl_canon (s : State) (x : Cmd) (hs : s.canon = true) : (tryColl s x).canon = true := by
  unfold tryColl
  with_reducible repeat' first
    | assumption | apply enterColl_canon | apply faultCmd_canon | (refine fst_of (by assumption) ?_; apply stashReady_canon)
    | apply updCmd_canon | split

theorem runColl_canon (s : State) (x : Cmd) (hs : s.canon = true) : (runColl s x).canon = true := by
  unfold runColl
  dsimp only
  with_reducible repeat' first
    | assumption | apply enqueue_canon | apply faultCmd_canon | apply openColl_canon | apply tryColl_canon | split

theorem runBarrier_canon (s : State) (x : Cmd) (hs : s.canon = true) : (runBarrier s x).canon = true := by
  unfold runBarrier
  dsimp only
  with_reducible repeat' first
    | assumption | apply enqueue_canon | apply enterVote_canon | apply faultCmd_canon | apply openColl_canon | split

-- Fe.lean

theorem FRun_put_canon (r : FRun) (i : Nat) (v : List FV) (hr : r.s.canon = true) : (FRun.put r i v).s.canon = true := by
  unfold FRun.put
  dsimp only
  with_reducible repeat' assumption

theorem runOp_canon {e : FRow} {o : FOp} {r : FRun} {t : FRun} (he : (runOp e o r) = .ok t) (hr : r.s.canon = true) :
    t.s.canon = true := by
  have hp : ∀ i v, (r.put i v).s.canon = true := fun _ _ => hr
  refine Holds.out (P := fun r : FRun => r.s.canon = true) ?_ he
  clear he
  unfold runOp
  dsimp only
  split
  all_goals first
    | exact Holds.fault
    | exact Holds.ok (hp _ _)
    | exact Holds.ok hr
    | exact Holds.bind fun _ _ => Holds.ok (hp _ _)
    | exact Holds.bind fun _ _ => Holds.bind fun _ _ => Holds.ok (hp _ _)
    | exact Holds.bind fun _ e => Holds.ok (vwrite_canon e hr)
    | exact Holds.bind fun _ _ => Holds.bind fun _ _ => Holds.bind fun _ e => Holds.ok (vwriteNat_canon e hr)
    | (split <;> first | exact Holds.fault | exact Holds.bind fun _ _ => Holds.ok hr)

theorem runProgram_canon {e : FRow} {ops : List FOp} {s : State} {v0 : List FV} {t : FRun} (he : (runProgram e ops s v0) =
    .ok t) (hs : s.canon = true) : t.s.canon = true := by
  refine Holds.out (P := fun r => r.s.canon = true) ?_ he
  unfold runProgram
  with_reducible repeat' first
    | assumption | (refine runOp_canon (by assumption) ?_) | apply Holds.fold | intro _ | (refine Holds.of ?_)

theorem writeConverted_canon (st : Writing) (cx : Nat) (d : Desc) (c0 : Nat) (v : Converted) (blocks : List Nat) (k : WKind)
    (hst : st.1.canon = true) : (writeConverted st cx d c0 v blocks k).1.canon = true := by
  unfold writeConverted
  dsimp only
  with_reducible repeat' first | assumption | apply putRow_canon | apply putScale_canon | apply foldl_fst | intro _ | split

theorem Writing_res_canon {w : Writing} {t : State} (he : (Writing.res w) = .ok t) (hw : w.1.canon = true) : t.canon = true
    := by
  refine Holds.out (P := fun r => r.canon = true) ?_ he
  unfold Writing.res
  with_reducible repeat' first | assumption | (apply Holds.ok; try dsimp only) | apply Holds.fault | apply Holds.wait | split

theorem finRun_canon {x : Cmd} {f : FinDescs} {ops : List FOp} {sx : Option Int} {s : State} {j : Nat} {t : (List FV ×
    FinCounts × State)} (he : (finRun x f ops sx s j) = .ok t) (hs : s.canon = true) : t.2.2.canon = true := by
  refine Holds.out (P := fun r => r.2.2.canon = true) ?_ he
  unfold finRun
  dsimp only
  with_reducible repeat' first
    | assumption | (refine runProgram_canon (by assumption) ?_) | apply Holds.bind | (apply Holds.ok; try dsimp only)
    | intro _

theorem finGroup_canon {x : Cmd} {f : FinDescs} {ops : List FOp} {sx : Option Int} {s : State} {js : List Nat} {t :
    (FinCounts × State)} (he : (finGroup x f ops sx s js) = .ok t) (hs : s.canon = true) : t.2.canon = true := by
  refine Holds.out (P := fun r => r.2.canon = true) ?_ he
  unfold finGroup
  dsimp only
  with_reducible repeat' first
    | assumption | (refine finRun_canon (by assumption) ?_) | apply putBytes_canon
    | (refine Writing_res_canon (by assumption) ?_) | apply writeConverted_canon | apply foldl_fst | apply Holds.bind
    | (apply Holds.ok; try dsimp only) | intro _ | dsimp only | split
    | (refine Holds.out (P := fun r : _ × _ × State => r.2.2.canon = true) ?_ (by assumption); first | apply Holds.fold | apply Holds.bind | split)

theorem finAll_canon {s : State} {x : Cmd} {f : FinDescs} {t : (FinCounts × List (Nat × Nat) × State)} (he : (finAll s x f) =
    .ok t) (hs : s.canon = true) : t.2.2.canon = true := by
  refine Holds.out (P := fun r => r.2.2.canon = true) ?_ he
  unfold finAll
  dsimp only
  with_reducible repeat' first
    | assumption | (refine finGroup_canon (by assumption) ?_) | apply Holds.bind | (apply Holds.ok; try dsimp only)
    | intro _
    | (refine Holds.out (P := fun r : _ × State => r.2.canon = true) ?_ (by assumption); first | apply Holds.fold | apply Holds.bind | split)

theorem finCount_canon (s : State) (x : Cmd) (f : FinDescs) (k : FinCounts) (hs : s.canon = true) : (State.finCount s x f
    k).canon = true := by
  unfold State.finCount
  dsimp only
  with_reducible repeat' first | assumption | apply countFor_canon | split

theorem tryFinish_canon (s : State) (x : Cmd) (hs : s.canon = true) : (tryFinish s x).canon = true := by
  unfold tryFinish
  dsimp only
  split
  · exact fst_of (by assumption) (stashReady_canon _ _ _ hs)
  · have h := fst_of ‹_› (stashReady_canon s x.cx x.stash hs)
    split
    · exact h
    · exact faultCmd_canon _ _ _ h
    · refine count_canon _ _ _ _ _ (finCount_canon _ _ _ _ (updCmd_canon _ _ _ ?_))
      refine Holds.out (P := fun r : _ × _ × _ × State => r.2.2.2.canon = true) ?_ (by assumption)
      exact Holds.bind fun _ _ => Holds.bind fun _ e => Holds.ok (finAll_canon e h)

theorem runFinish_canon (s : State) (x : Cmd) (hs : s.canon = true) : (runFinish s x).canon = true := by
  unfold runFinish
  dsimp only
  with_reducible repeat' first | assumption | apply enqueue_canon | apply tryFinish_canon | split

theorem tryHcount_canon (s : State) (x : Cmd) (hs : s.canon = true) : (tryHcount s x).canon = true := by
  unfold tryHcount
  dsimp only
  with_reducible repeat' first
    | assumption | apply countFor_canon | apply faultCmd_canon | (refine fst_of (by assumption) ?_; apply stashReady_canon)
    | apply updCmd_canon | split

theorem runHcount_canon (s : State) (x : Cmd) (hs : s.canon = true) : (runHcount s x).canon = true := by
  unfold runHcount
  dsimp only
  with_reducible repeat' first | assumption | apply enqueue_canon | apply tryHcount_canon | split

end Sys2Proof.Machine
end

