-- ==== Sys2Proof/Laws/CanonTraining.lean ====
section
/-! SUPPORT. Updates, commits, contexts, checkpoints, messages and drains keep the canonical form. -/

namespace Sys2Proof.Machine

-- Update.lean

theorem putMoment_canon (st : Writing) (c step : Nat) (d : Desc) (row c0 : Nat) (b : Nat × List Nat × Counts) (hst :
    st.1.canon = true) : (putMoment st c step d row c0 b).1.canon = true := by
  unfold putMoment
  with_reducible repeat' first | assumption | apply putRow_canon | apply putScale_canon

theorem pass1Block_canon {k : UdK} {c step : Nat} {r : LayerRec} {row : Nat} {x : UdRow} {gs : List FV} {u : UdRun} {c0 :
    Nat} {t : UdRun} (he : (pass1Block k c step r row x gs u c0) = .ok t) (hu : u.s.canon = true) : t.s.canon = true := by
  refine Holds.out (P := fun r => r.s.canon = true) ?_ he
  unfold pass1Block
  dsimp only
  with_reducible repeat' first
    | assumption | apply putMoment_canon | (refine Writing_res_canon (by assumption) ?_) | apply Holds.bind
    | (apply Holds.ok; try dsimp only) | intro _

theorem pass1_canon {k : UdK} {c step : Nat} {r : LayerRec} {s : State} {t : UdRun} (he : (pass1 k c step r s) = .ok t) (hs :
    s.canon = true) : t.s.canon = true := by
  refine Holds.out (P := fun r => r.s.canon = true) ?_ he
  unfold pass1
  with_reducible repeat' first
    | assumption | (refine pass1Block_canon (by assumption) ?_) | apply Holds.fold | apply Holds.bind
    | (apply Holds.ok; try dsimp only) | intro _ | split | (refine Holds.of ?_)

theorem pass2Block_canon {k : UdK} {c step : Nat} {r : LayerRec} {row : Nat} {x : UdRow} {u : UdRun} {c0 : Nat} {t : UdRun}
    (he : (pass2Block k c step r row x u c0) = .ok t) (hu : u.s.canon = true) : t.s.canon = true := by
  refine Holds.out (P := fun r => r.s.canon = true) ?_ he
  unfold pass2Block
  dsimp only
  with_reducible repeat' first
    | assumption | apply putRow_canon | (refine Writing_res_canon (by assumption) ?_) | apply Holds.bind
    | (apply Holds.ok; try dsimp only) | intro _

theorem pass2Group_canon {k : UdK} {c step p : Nat} {r : LayerRec} {u : UdRun} {rows : List Nat} {t : UdRun} (he :
    (pass2Group k c step p r u rows) = .ok t) (hu : u.s.canon = true) : t.s.canon = true := by
  refine Holds.out (P := fun r => r.s.canon = true) ?_ he
  unfold pass2Group
  dsimp only
  with_reducible repeat' first
    | assumption | (refine pass2Block_canon (by assumption) ?_) | (refine Writing_res_canon (by assumption) ?_)
    | apply writeConverted_canon | apply Holds.fold | apply Holds.bind | (apply Holds.ok; try dsimp only) | intro _
    | dsimp only | split | (refine Holds.of ?_)
    | (refine Holds.out (P := fun r : UdRun => r.s.canon = true) ?_ (by assumption); first | apply Holds.fold | apply Holds.bind | split)

theorem pass2_canon {k : UdK} {c step p : Nat} {r : LayerRec} {s : State} {t : UdRun} (he : (pass2 k c step p r s) = .ok t)
    (hs : s.canon = true) : t.s.canon = true := by
  refine Holds.out (P := fun r => r.s.canon = true) ?_ he
  unfold pass2
  with_reducible repeat' first
    | assumption | (refine pass2Group_canon (by assumption) ?_) | apply Holds.fold | intro _ | (refine Holds.of ?_)

theorem runUpdate_canon (s : State) (x : Cmd) (hs : s.canon = true) : (runUpdate s x).canon = true := by
  unfold runUpdate
  dsimp only
  with_reducible repeat' first | assumption | apply enqueue_canon | apply faultCmd_canon | apply openColl_canon | split

theorem udExchange_canon (s : State) (x : Cmd) (w g u : Nat) (a : Int) (hs : s.canon = true) : (udExchange s x w g u a).canon
    = true := by
  unfold udExchange
  dsimp only
  with_reducible repeat' first | assumption | apply enterVote_canon | apply updCmd_canon | split

theorem udSkip_canon (s : State) (x : Cmd) (hs : s.canon = true) : (udSkip s x).canon = true := by
  unfold udSkip
  dsimp only
  with_reducible repeat' first | assumption | apply udExchange_canon | apply updCmd_canon | split

theorem udBegin_canon (s : State) (x : Cmd) (hs : s.canon = true) : (udBegin s x).canon = true := by
  unfold udBegin
  dsimp only
  with_reducible repeat' first | assumption | apply faultCmd_canon | apply udSkip_canon | apply updCmd_canon | split

theorem updateBeginNow_canon (s : State) (id : Nat) (hs : s.canon = true) : (updateBeginNow s id).canon = true := by
  unfold updateBeginNow
  with_reducible repeat' first | assumption | apply settle_canon | apply udBegin_canon | split

theorem udPass1_canon (s : State) (x : Cmd) (hs : s.canon = true) : (udPass1 s x).canon = true := by
  unfold udPass1
  dsimp only
  with_reducible repeat' first
    | assumption | apply countFor_canon | apply faultCmd_canon | (refine pass1_canon (by assumption) ?_)
    | apply udExchange_canon | apply updCmd_canon | split

theorem pass1EndNow_canon (s : State) (id : Nat) (hs : s.canon = true) : (pass1EndNow s id).canon = true := by
  unfold pass1EndNow
  with_reducible repeat' first | assumption | apply settle_canon | apply udPass1_canon | split

theorem writeNorms_canon {s : State} {x : Cmd} {u : Upd} {phi : FV} {t : State} (he : (State.writeNorms s x u phi) = .ok t)
    (hs : s.canon = true) : t.canon = true := by
  refine Holds.out (P := fun r => r.canon = true) ?_ he
  unfold State.writeNorms
  with_reducible repeat' first
    | assumption | (refine vwrite_canon (by assumption) ?_) | (apply Holds.ok; try dsimp only) | intro _ | split
    | (refine Holds.of ?_)

theorem udDone_canon (s : State) (x : Cmd) (hs : s.canon = true) : (udDone s x).canon = true := by
  unfold udDone
  with_reducible repeat' first | assumption | apply bump_canon | apply updCmd_canon

theorem udPass2_canon (s : State) (x : Cmd) (hs : s.canon = true) : (udPass2 s x).canon = true := by
  unfold udPass2
  dsimp only
  with_reducible repeat' first
    | assumption | apply countFor_canon | apply faultCmd_canon | (refine pass2_canon (by assumption) ?_)
    | apply udDone_canon | (refine vwriteNat_canon (by assumption) ?_) | (refine writeNorms_canon (by assumption) ?_)
    | apply Holds.bind | intro _ | split
    | (refine Holds.out (P := fun r : UdRun => r.s.canon = true) ?_ (by assumption); first | apply Holds.fold | apply Holds.bind | split)
    | (apply Holds.ok; try dsimp only)

theorem udSkipped_canon (s : State) (x : Cmd) (hs : s.canon = true) : (udSkipped s x).canon = true := by
  unfold udSkipped
  with_reducible repeat' first
    | assumption | apply faultCmd_canon | apply udDone_canon | (refine writeNorms_canon (by assumption) ?_) | split

theorem pass2EndNow_canon (s : State) (id : Nat) (hs : s.canon = true) : (pass2EndNow s id).canon = true := by
  unfold pass2EndNow
  with_reducible repeat' first | assumption | apply settle_canon | apply udPass2_canon | apply udSkipped_canon | split

-- Commit.lean

theorem replaced_canon (s : State) (c frame : Nat) (hs : s.canon = true) : (State.replaced s c frame).canon = true := by
  unfold State.replaced
  with_reducible repeat' first | assumption | apply returnFrame_canon | apply updCkpt_canon | split

theorem appendPage_canon (s : State) (c page frame gen st : Nat) (hs : s.canon = true) : (State.appendPage s c page frame gen
    st).canon = true := by
  unfold State.appendPage
  dsimp only
  with_reducible repeat' first | assumption | apply pick_canon | apply updCkpt_canon | split

theorem setPrtFrame_canon (s : State) (i frame : Nat) (hs : s.canon = true) : (State.setPrtFrame s i frame).canon = true :=
    by
  unfold State.setPrtFrame
  dsimp only
  with_reducible repeat' first | assumption | apply pwriteNat_canon

theorem setPrtShared_canon (s : State) (i : Nat) (b : Bool) (hs : s.canon = true) : (State.setPrtShared s i b).canon = true
    := by
  unfold State.setPrtShared
  dsimp only
  with_reducible repeat' first | assumption | apply pwriteNat_canon

theorem setL2Frame_canon (s : State) (c va frame : Nat) (hs : s.canon = true) : (State.setL2Frame s c va frame).canon = true
    := by
  unfold State.setL2Frame
  dsimp only
  with_reducible repeat' first | assumption | apply setL2_canon | split

theorem commitPage_canon {s : State} {c st : Nat} {h : Shadow} {t : (State × List Nat)} (he : (State.commitPage s c st h) =
    .ok t) (hs : s.canon = true) : t.1.canon = true := by
  refine Holds.out (P := fun r => r.1.canon = true) ?_ he
  unfold State.commitPage
  dsimp only
  with_reducible repeat' first
    | assumption | apply appendPage_canon | apply kickSends_canon | apply replaced_canon | apply setL2Frame_canon
    | apply setPrtFrame_canon | apply updCkpt_canon | apply updCx_canon | apply Holds.bind
    | (apply Holds.ok; try dsimp only) | intro _ | split

theorem commitShadows_canon {s : State} {c st : Nat} {hs : List Shadow} {t : (State × List Nat)} (he : (State.commitShadows s
    c st hs) = .ok t) (hs : s.canon = true) : t.1.canon = true := by
  refine Holds.out (P := fun r => r.1.canon = true) ?_ he
  unfold State.commitShadows
  with_reducible repeat' first
    | assumption | (refine commitPage_canon (by assumption) ?_) | apply Holds.fold | apply Holds.bind
    | (apply Holds.ok; try dsimp only) | intro _

theorem markShared_canon (s : State) (c : Nat) (r : LayerRec) (va0 : Nat) (hs : s.canon = true) : (State.markShared s c r
    va0).canon = true := by
  unfold State.markShared
  dsimp only
  with_reducible repeat' first | assumption | apply setPrtShared_canon | apply foldl_canon | intro _

theorem aliasPage_canon (s : State) (c p : Nat) (r : LayerRec) (va0 : Nat) (hs : s.canon = true) : (State.aliasPage s c p r
    va0).1.canon = true := by
  unfold State.aliasPage
  with_reducible repeat' first | assumption | apply setPrtFrame_canon | split

theorem aliasSlot_canon (s : State) (c p : Nat) (r : LayerRec) (done : List Nat) (hs : s.canon = true) : (State.aliasSlot s c
    p r done).1.canon = true := by
  unfold State.aliasSlot
  dsimp only
  with_reducible repeat' first | assumption | apply aliasPage_canon | apply foldl_fst | intro _ | split

theorem freePrints_canon (s : State) (c : Nat) (r : LayerRec) (fs : List Nat) (hs : s.canon = true) : (State.freePrints s c r
    fs).canon = true := by
  unfold State.freePrints
  dsimp only
  with_reducible repeat' first | assumption | apply returnFrame_canon | apply foldl_canon | intro _

theorem cmActs_canon {s : State} {x : Cmd} {r : LayerRec} {hs : List Shadow} {t : State} (he : (State.cmActs s x r hs) = .ok
    t) (hs : s.canon = true) : t.canon = true := by
  refine Holds.out (P := fun r => r.canon = true) ?_ he
  unfold State.cmActs
  dsimp only
  with_reducible repeat' first
    | assumption | apply aliasSlot_canon | (refine commitShadows_canon (by assumption) ?_) | apply freePrints_canon
    | apply markShared_canon | (refine vwriteNat_canon (by assumption) ?_) | apply foldl_canon | apply Holds.bind | intro _
    | (refine Holds.of ?_)

theorem cmDone_canon (s : State) (x : Cmd) (hs : s.canon = true) : (cmDone s x).canon = true := by
  unfold cmDone
  with_reducible repeat' first | assumption | apply rush_canon | apply updCmd_canon

theorem tryCommit_canon (s : State) (x : Cmd) (hs : s.canon = true) : (tryCommit s x).canon = true := by
  unfold tryCommit
  dsimp only
  with_reducible repeat' first
    | assumption | (refine cmActs_canon (by assumption) ?_) | apply cmDone_canon | apply faultCmd_canon
    | apply pollOwner_canon | split

theorem tryDataCommit_canon (s : State) (x : Cmd) (hs : s.canon = true) : (tryDataCommit s x).canon = true := by
  unfold tryDataCommit
  dsimp only
  with_reducible repeat' first
    | assumption | apply cmDone_canon | (refine commitShadows_canon (by assumption) ?_) | apply faultCmd_canon | split

theorem tryAnyCommit_canon (s : State) (x : Cmd) (hs : s.canon = true) : (tryAnyCommit s x).canon = true := by
  unfold tryAnyCommit
  with_reducible repeat' first | assumption | apply tryCommit_canon | apply tryDataCommit_canon | split

theorem commitWaitsNow_canon (s : State) (id : Nat) (hs : s.canon = true) : (commitWaitsNow s id).canon = true := by
  unfold commitWaitsNow
  with_reducible repeat' first | assumption | apply settle_canon | apply tryAnyCommit_canon | split

-- Syncops.lean

theorem runTakePoint_canon (s : State) (x : Cmd) (hs : s.canon = true) : (runTakePoint s x).canon = true := by
  unfold runTakePoint
  dsimp only
  with_reducible repeat' first | assumption | apply completeNow_canon | apply updSp_canon | split

theorem runSemWait_canon (s : State) (x : Cmd) (hs : s.canon = true) : (runSemWait s x).canon = true := by
  unfold runSemWait
  dsimp only
  with_reducible repeat' first | assumption | apply beginWait_canon

theorem runSemPost_canon (s : State) (x : Cmd) (hs : s.canon = true) : (runSemPost s x).canon = true := by
  unfold runSemPost
  dsimp only
  with_reducible repeat' first | assumption | apply completeNow_canon | (refine post_canon (by assumption) ?_) | split

theorem hostSemWrite_canon (s : State) (c i : Nat) (w : HW) (hs : s.canon = true) : (hostSemWrite s c i w).canon = true := by
  unfold hostSemWrite
  with_reducible repeat' first | assumption | apply setSem_canon | apply settle_canon | split

theorem runWaitVersion_canon (s : State) (x : Cmd) (hs : s.canon = true) : (runWaitVersion s x).canon = true := by
  unfold runWaitVersion
  with_reducible repeat' first | assumption | apply beginWait_canon

theorem runFence_canon (s : State) (x : Cmd) (hs : s.canon = true) : (runFence s x).canon = true := by
  unfold runFence
  with_reducible repeat' first | assumption | apply beginWait_canon

theorem firstStep_canon (s : State) (c n : Nat) (hs : s.canon = true) : (State.firstStep s c n).canon = true := by
  unfold State.firstStep
  dsimp only
  with_reducible repeat' first | assumption | apply updCx_canon | apply wr_canon

theorem runStepBegin_canon (s : State) (x : Cmd) (hs : s.canon = true) : (runStepBegin s x).canon = true := by
  unfold runStepBegin
  dsimp only
  with_reducible repeat' first
    | assumption | apply beginWait_canon | apply completeNow_canon | apply copyPim_canon | apply firstStep_canon
    | apply updSp_canon | split

theorem ringBell_canon (s : State) (n v : Nat) (hs : s.canon = true) : (ringBell s n v).canon = true := by
  unfold ringBell
  with_reducible repeat' first | assumption | apply setFlag_canon | apply settle_canon | apply wr_canon | split

theorem ringStart_canon (s : State) (n : Nat) (hs : s.canon = true) : (State.ringStart s n).canon = true := by
  unfold State.ringStart
  dsimp only
  with_reducible repeat' first | assumption | apply setFlag_canon | apply setHeld_canon | apply wr_canon

theorem ringBind_canon (s : State) (n : Nat) (w : HW) (hs : s.canon = true) : (State.ringBind s n w).canon = true := by
  unfold State.ringBind
  dsimp only
  with_reducible repeat' first | assumption | apply puts_canon | apply updSp_canon | split

theorem ringCtlWrite_canon (s : State) (n : Nat) (w : HW) (hs : s.canon = true) : (ringCtlWrite s n w).canon = true := by
  unfold ringCtlWrite
  dsimp only
  with_reducible repeat' first
    | assumption | apply ringBind_canon | apply ringStart_canon | apply setFlag_canon | apply settle_canon | split

theorem ringBaseWrite_canon (s : State) (n : Nat) (w : HW) (hs : s.canon = true) : (ringBaseWrite s n w).canon = true := by
  unfold ringBaseWrite
  with_reducible repeat' first | assumption | apply put_canon | split

-- Stash.lean

theorem offloadPages_canon (s : State) (c i : Nat) (ps : List (Nat × Nat)) (hs : s.canon = true) : (State.offloadPages s c i
    ps).canon = true := by
  unfold State.offloadPages
  with_reducible repeat' first
    | assumption | apply pcopy_canon | (refine takePool_canon (by assumption) ?_) | apply updEntry_canon | apply foldl_canon
    | intro _ | split

theorem offloadEnd_canon (s : State) (c : Nat) (hs : s.canon = true) : (offloadEnd s c).canon = true := by
  unfold offloadEnd
  dsimp only
  with_reducible repeat' first
    | assumption | apply bump_canon | apply count_canon | apply faultCx_canon | apply offloadPages_canon
    | apply settle_canon | apply stashSet_canon | split

theorem recallEnd_canon (s : State) (c : Nat) (hs : s.canon = true) : (recallEnd s c).canon = true := by
  unfold recallEnd
  dsimp only
  with_reducible repeat' first
    | assumption | apply bump_canon | apply count_canon | apply faultCx_canon | apply pcopy_canon | apply settle_canon
    | apply stashSet_canon | apply foldl_canon | intro _ | split

theorem admitNext_canon (s : State) (c : Nat) (hs : s.canon = true) : (admitNext s c).canon = true := by
  unfold admitNext
  with_reducible repeat' first | assumption | apply grantSlot_canon | apply settle_canon | split

theorem stashOn_canon (s : State) (c : Nat) (hs : s.canon = true) : (stashOn s c).canon = true := by
  unfold stashOn
  dsimp only
  with_reducible repeat' first
    | assumption | apply setFlag_canon | apply stashStore_canon | apply updCx_canon | apply wr_canon | apply foldl_canon
    | intro _ | split

theorem stashCtlWrite_canon (s : State) (c : Nat) (w : HW) (hs : s.canon = true) : (stashCtlWrite s c w).canon = true := by
  unfold stashCtlWrite
  dsimp only
  with_reducible repeat' first
    | assumption | apply puts_canon | apply setFlag_canon | apply settle_canon | apply stashOn_canon | split

-- Contexts.lean

theorem makeCx_canon (s : State) (c : Nat) (hs : s.canon = true) : (makeCx s c).canon = true := by
  unfold makeCx
  dsimp only
  with_reducible repeat' first
    | assumption | apply dropTranslations_canon | apply pwrite_canon | apply updCx_canon | apply updSp_canon
    | apply wr_canon | apply foldl_canon | intro _

theorem createCx_canon (s : State) (c : Nat) (hs : s.canon = true) : (createCx s c).canon = true := by
  unfold createCx
  dsimp only
  with_reducible repeat' first | assumption | apply makeCx_canon | apply wr_canon | split

theorem freeCast_canon (s : State) (c : Nat) (hs : s.canon = true) : (State.freeCast s c).canon = true := by
  unfold State.freeCast
  exact canon_mk rfl ‹_›

theorem markDead_canon (s : State) (c : Nat) (hs : s.canon = true) : (State.markDead s c).canon = true := by
  unfold State.markDead
  with_reducible repeat' first | assumption | apply setFlag_canon | apply foldl_canon | intro _ | split

theorem destroyCx_canon (s : State) (c : Nat) (hs : s.canon = true) : (destroyCx s c).canon = true := by
  unfold destroyCx
  dsimp only
  with_reducible repeat' first
    | assumption | apply faultCx_canon | apply freeCast_canon | apply markDead_canon | apply updCx_canon | apply wr_canon
    | apply foldl_canon | intro _ | split

theorem cxCtlWrite_canon (s : State) (c : Nat) (w : HW) (hs : s.canon = true) : (cxCtlWrite s c w).canon = true := by
  unfold cxCtlWrite
  dsimp only
  with_reducible repeat' first
    | assumption | apply createCx_canon | apply destroyCx_canon | apply puts_canon | apply setFlag_canon
    | apply settle_canon | split

theorem ctlCommand_canon (cx : Fin 16) (v : Word) (f : Fld) (s : State) (hs : s.canon = true) : (ctlCommand cx v f s).canon =
    true := by
  unfold ctlCommand
  with_reducible repeat' first | assumption | apply cxCtlWrite_canon | apply hostGate_canon | intro _ | split

theorem invDone_canon (s : State) (c : Nat) (hs : s.canon = true) : (invDone s c).canon = true := by
  unfold invDone
  with_reducible repeat' first | assumption | apply dropTranslations_canon | apply setFlag_canon | split

theorem abandonLoad_canon (s : State) (x : Cmd) (hs : s.canon = true) : (State.abandonLoad s x).canon = true := by
  unfold State.abandonLoad
  dsimp only
  repeat' first
    | with_reducible first
      | assumption | apply updArr_canon | apply updCx_canon | apply foldl_canon | intro _
    | refine canon_mk rfl ?_

theorem writeTake_canon (s : State) (c : Nat) (hs : s.canon = true) : (writeTake s c).canon = true := by
  unfold writeTake
  dsimp only
  repeat' first
    | with_reducible first
      | assumption | apply abandonLoad_canon | apply leaveSlot_canon | apply pcopy_canon | apply updArr_canon
      | apply updCx_canon | apply foldl_canon | intro _
    | refine canon_mk rfl ?_

theorem takeDone_canon (s : State) (c : Nat) (hs : s.canon = true) : (takeDone s c).canon = true := by
  unfold takeDone
  dsimp only
  with_reducible repeat' first
    | assumption | apply bump_canon | apply count_canon | apply rush_canon | apply settle_canon | apply wr_canon
    | apply writeTake_canon | split

theorem readTake_canon (s : State) (c : Nat) (hs : s.canon = true) : (readTake s c).canon = true := by
  unfold readTake
  dsimp only
  repeat' first
    | with_reducible first
      | assumption | apply pcopy_canon | apply pzero_canon | apply semLoad_canon | apply updCx_canon | split
    | refine canon_mk rfl ?_

theorem controlDone_canon (s : State) (c : Nat) (hs : s.canon = true) : (controlDone s c).canon = true := by
  unfold controlDone
  dsimp only
  with_reducible repeat' first
    | assumption | apply count_canon | apply faultCx_canon | apply pollVersion_canon | apply readTake_canon
    | apply rush_canon | apply settle_canon | apply wr_canon | apply foldl_canon | split

-- Ckpt.lean

theorem zeroSlot_canon {s : State} {c k : Nat} {t : State} (he : (State.zeroSlot s c k) = .ok t) (hs : s.canon = true) :
    t.canon = true := by
  refine Holds.out (P := fun r => r.canon = true) ?_ he
  unfold State.zeroSlot
  with_reducible repeat' first
    | assumption | apply pzero_canon | apply updCkpt_canon | (refine writeAt_canon (by assumption) ?_) | apply Holds.bind
    | (apply Holds.ok; try dsimp only) | intro _
    | (refine Holds.out (P := fun r : State => r.canon = true) ?_ (by assumption); first | apply Holds.fold | apply Holds.bind | split)

theorem ckptBarrier_canon (s : State) (c : Nat) (ready : Bool) (hs : s.canon = true) : (State.ckptBarrier s c ready).canon =
    true := by
  unfold State.ckptBarrier
  dsimp only
  with_reducible repeat' first
    | assumption | apply enterColl_canon | apply faultCx_canon | apply openColl_canon | apply updCkpt_canon | split

theorem readySlots_canon (s : State) (c : Nat) (ks : List Nat) (hs : s.canon = true) : (State.readySlots s c ks).canon = true
    := by
  unfold State.readySlots
  with_reducible repeat' first
    | assumption | apply ckptBarrier_canon | apply faultCx_canon | apply readyBarrierDone_canon | apply updCkpt_canon
    | (refine zeroSlot_canon (by assumption) ?_) | intro _ | split
    | (refine Holds.out (P := fun r : State => r.canon = true) ?_ (by assumption); first | apply Holds.fold | apply Holds.bind | split)
    | (refine Holds.of ?_)

theorem listRefused_canon (s : State) (c i : Nat) (hs : s.canon = true) : (State.listRefused s c i).canon = true := by
  unfold State.listRefused
  with_reducible repeat' first | assumption | apply setFlag_canon | apply wr_canon

theorem appendAll_canon (s : State) (c : Nat) (hs : s.canon = true) : (State.appendAll s c).canon = true := by
  unfold State.appendAll
  dsimp only
  with_reducible repeat' first | assumption | apply appendPage_canon | apply foldl_canon | intro _ | split

theorem ckptStart_canon (s : State) (c : Nat) (rs : List (Nat × Nat × Bool)) (a : Option Accord) (hs : s.canon = true) :
    (State.ckptStart s c rs a).canon = true := by
  unfold State.ckptStart
  dsimp only
  with_reducible repeat' first
    | assumption | apply appendAll_canon | apply kickSends_canon | apply readySlots_canon | apply setFlag_canon
    | apply updCkpt_canon | apply wr_canon

theorem ckptOn_canon (s : State) (c : Nat) (hs : s.canon = true) : (ckptOn s c).canon = true := by
  unfold ckptOn
  with_reducible repeat' first | assumption | apply ckptStart_canon | apply faultCx_canon | apply listRefused_canon | split

theorem ckptCtlWrite_canon (s : State) (c : Nat) (w : HW) (hs : s.canon = true) : (ckptCtlWrite s c w).canon = true := by
  unfold ckptCtlWrite
  dsimp only
  with_reducible repeat' first
    | assumption | apply ckptOn_canon | apply puts_canon | apply setFlag_canon | apply settle_canon | split

theorem snapshotTaken_canon (s : State) (c : Nat) (rec : List Byte) (fail : Bool) (img : List (Option Nat)) (hs : s.canon =
    true) : (State.snapshotTaken s c rec fail img).canon = true := by
  unfold State.snapshotTaken
  dsimp only
  with_reducible repeat' first
    | assumption | apply kickSends_canon | apply pwrite_canon | apply setFlag_canon | apply setSem_canon
    | apply updCkpt_canon | apply wr_canon | split

theorem snapshotNow_canon (s : State) (c : Nat) (hs : s.canon = true) : (snapshotNow s c).canon = true := by
  unfold snapshotNow
  with_reducible repeat' first | assumption | apply faultCx_canon | apply settle_canon | apply snapshotTaken_canon | split

theorem localNow_canon (s : State) (c : Nat) (hs : s.canon = true) : (localNow s c).canon = true := by
  unfold localNow
  with_reducible repeat' first
    | assumption | apply ckptBarrier_canon | apply sealed_canon | apply settle_canon | apply updCkpt_canon | split

theorem zeroedNow_canon (s : State) (c : Nat) (hs : s.canon = true) : (zeroedNow s c).canon = true := by
  unfold zeroedNow
  with_reducible repeat' first | assumption | apply readySlots_canon | apply settle_canon | split

theorem opResult_canon (s : State) (c r : Nat) (hs : s.canon = true) : (State.opResult s c r).canon = true := by
  unfold State.opResult
  with_reducible repeat' first | assumption | apply wr_canon

theorem ckptExport_canon (s : State) (c v : Nat) (hs : s.canon = true) : (State.ckptExport s c v).canon = true := by
  unfold State.ckptExport
  dsimp only
  with_reducible repeat' first | assumption | apply opResult_canon | (refine vwrite_canon (by assumption) ?_) | split

theorem ckptSend_canon (s : State) (c v : Nat) (hs : s.canon = true) : (State.ckptSend s c v).canon = true := by
  unfold State.ckptSend
  dsimp only
  with_reducible repeat' first
    | assumption | apply kickSends_canon | apply opResult_canon | apply setFlag_canon | apply updCkpt_canon | split

theorem restoreSps_canon (s : State) (c : Nat) (r : List Byte) (hs : s.canon = true) : (State.restoreSps s c r).canon = true
    := by
  unfold State.restoreSps
  dsimp only
  with_reducible repeat' first | assumption | apply updSp_canon | apply wr_canon | apply foldl_canon | intro _

theorem restoreLearn_canon (s : State) (c : Nat) (r : List Byte) (hs : s.canon = true) : (State.restoreLearn s c r).canon =
    true := by
  unfold State.restoreLearn
  dsimp only
  with_reducible repeat' first | assumption | apply updCx_canon | apply wr_canon

theorem restoreMemory_canon {s : State} {c pos : Nat} {r : List Byte} {bs : List (Nat × Nat × Nat)} {t : State} (he :
    (State.restoreMemory s c pos r bs) = .ok t) (hs : s.canon = true) : t.canon = true := by
  refine Holds.out (P := fun r => r.canon = true) ?_ he
  unfold State.restoreMemory
  dsimp only
  with_reducible repeat' first
    | assumption | (refine vwriteNat_canon (by assumption) ?_) | apply Holds.bind | intro _ | (refine Holds.of ?_)
    | (refine Holds.out (P := fun r : State => r.canon = true) ?_ (by assumption); first | apply Holds.fold | apply Holds.bind | split)

theorem restoreActs_canon (s : State) (c g : Nat) (r : List Byte) (hs : s.canon = true) : (State.restoreActs s c g r).canon =
    true := by
  unfold State.restoreActs
  dsimp only
  with_reducible repeat' first
    | assumption | apply opResult_canon | apply readySlots_canon | apply restoreLearn_canon | apply restoreSps_canon
    | apply setFlag_canon | apply setSem_canon | apply updCx_canon | apply wr_canon | apply foldl_canon | intro _ | split

theorem ckptRestore_canon (s : State) (c v : Nat) (hs : s.canon = true) : (State.ckptRestore s c v).canon = true := by
  unfold State.ckptRestore
  dsimp only
  with_reducible repeat' first
    | assumption | apply opResult_canon | apply restoreActs_canon | (refine restoreMemory_canon (by assumption) ?_) | split

theorem ckptOpWrite_canon (s : State) (c : Nat) (w : HW) (hs : s.canon = true) : (ckptOpWrite s c w).canon = true := by
  unfold ckptOpWrite
  dsimp only
  with_reducible repeat' first
    | assumption | apply ckptExport_canon | apply ckptRestore_canon | apply ckptSend_canon | apply opResult_canon
    | apply settle_canon | split

theorem opCommand_canon (cx : Fin 16) (v : Word) (op : Nat) (s : State) (hs : s.canon = true) : (opCommand cx v op s).canon =
    true := by
  unfold opCommand
  with_reducible repeat' first | assumption | apply ckptOpWrite_canon | apply hostGate_canon | intro _ | split

-- Messages.lean

theorem tryPut_canon (s : State) (x : Cmd) (hs : s.canon = true) : (tryPut s x).canon = true := by
  unfold tryPut
  dsimp only
  with_reducible repeat' first
    | assumption | apply faultCmd_canon | apply startPut_canon | (refine fst_of (by assumption) ?_; apply stashReady_canon)
    | apply updCmd_canon | split

theorem tryGet_canon (s : State) (x : Cmd) (hs : s.canon = true) : (tryGet s x).canon = true := by
  unfold tryGet
  dsimp only
  with_reducible repeat' first
    | assumption | apply startMsg_canon | (refine fst_of (by assumption) ?_; apply stashReady_canon) | apply updCmd_canon
    | split

theorem runPut_canon (s : State) (x : Cmd) (hs : s.canon = true) : (runPut s x).canon = true := by
  unfold runPut
  dsimp only
  with_reducible repeat' first | assumption | apply enqueue_canon | apply tryPut_canon | split

theorem runGet_canon (s : State) (x : Cmd) (hs : s.canon = true) : (runGet s x).canon = true := by
  unfold runGet
  dsimp only
  with_reducible repeat' first | assumption | apply enqueue_canon | apply tryGet_canon | split

theorem respond_canon (s : State) (f : Frame) (typ addr : Nat) (pl : List Byte) (hs : s.canon = true) : (State.respond s f
    typ addr pl).canon = true := by
  unfold State.respond
  with_reducible repeat' first | assumption | apply sendFrames_canon

theorem ack_canon (s : State) (f : Frame) (hs : s.canon = true) : (State.ack s f).canon = true := by
  unfold State.ack
  with_reducible repeat' first | assumption | apply respond_canon

theorem refuseFrame_canon (s : State) (f : Frame) (reason : Nat) (hs : s.canon = true) : (State.refuseFrame s f reason).canon
    = true := by
  unfold State.refuseFrame
  dsimp only
  with_reducible repeat' first | assumption | apply bump_canon | apply count_canon | apply respond_canon | split

theorem takeParity_canon (s : State) (f : Frame) (hs : s.canon = true) : (State.takeParity s f).canon = true := by
  unfold State.takeParity
  with_reducible repeat' first
    | assumption | apply ack_canon | apply faultCx_canon | apply gotParity_canon | apply refuseFrame_canon
    | (refine vwrite_canon (by assumption) ?_) | split

theorem takePut_canon (f : Frame) (s : State) (hs : s.canon = true) : (takePut f s).canon = true := by
  unfold takePut
  with_reducible repeat' first
    | assumption | apply ack_canon | apply faultCx_canon | apply refuseFrame_canon | apply takeParity_canon
    | (refine fst_of (by assumption) ?_; apply vwriteFrom_canon) | split

theorem takeGet_canon (f : Frame) (s : State) (hs : s.canon = true) : (takeGet f s).canon = true := by
  unfold takeGet
  with_reducible repeat' first | assumption | apply refuseFrame_canon | apply respond_canon | apply uncorrEvent_canon | split

theorem takePost_canon (f : Frame) (s : State) (hs : s.canon = true) : (takePost f s).canon = true := by
  unfold takePost
  with_reducible repeat' first
    | assumption | apply ack_canon | apply faultCx_canon | (refine post_canon (by assumption) ?_) | apply refuseFrame_canon
    | split

theorem updMsg_canon (s : State) (id : Nat) (g : Msg → Msg) (hs : s.canon = true) : (State.updMsg s id g).canon = true := by
  unfold State.updMsg
  exact canon_mk rfl ‹_›

theorem msgDone_canon (s : State) (m : Msg) (hs : s.canon = true) : (State.msgDone s m).canon = true := by
  unfold State.msgDone
  dsimp only
  repeat' (first | (with_reducible first | assumption | apply sendDone_canon | apply updCmd_canon | split) | refine canon_mk rfl ?_)

theorem answered_canon (s : State) (m : Msg) (o : Nat) (hs : s.canon = true) : (State.answered s m o).1.canon = true := by
  unfold State.answered
  dsimp only
  with_reducible repeat' first | assumption | apply updMsg_canon

theorem sendPost_canon (s : State) (m : Msg) (sem : Nat) (hs : s.canon = true) : (State.sendPost s m sem).canon = true := by
  unfold State.sendPost
  dsimp only
  with_reducible repeat' first | assumption | apply sendFrames_canon | apply updMsg_canon

theorem dropAnswer_canon (p : Nat) (s : State) (hs : s.canon = true) : (dropAnswer p s).canon = true := by
  unfold dropAnswer
  with_reducible repeat' first | assumption | apply dropFrame_canon

theorem takeAck_canon (p : Nat) (f : Frame) (s : State) (hs : s.canon = true) : (takeAck p f s).canon = true := by
  unfold takeAck
  dsimp only
  with_reducible repeat' first
    | assumption | apply answered_canon | apply dropAnswer_canon | apply msgDone_canon | apply sendPost_canon | split

theorem takeData_canon (p : Nat) (f : Frame) (s : State) (hs : s.canon = true) : (takeData p f s).canon = true := by
  unfold takeData
  dsimp only
  with_reducible repeat' first
    | assumption | apply answered_canon | apply dropAnswer_canon | apply failMsg_canon | apply msgDone_canon
    | (refine fst_of (by assumption) ?_; apply vwriteFrom_canon) | split

theorem takeRefuse_canon (p : Nat) (f : Frame) (s : State) (hs : s.canon = true) : (takeRefuse p f s).canon = true := by
  unfold takeRefuse
  with_reducible repeat' first | assumption | apply dropAnswer_canon | apply failMsg_canon | split

theorem takeLoss_canon (f : Frame) (s : State) (hs : s.canon = true) : (takeLoss f s).canon = true := by
  unfold takeLoss
  with_reducible repeat' first | assumption | apply failColl_canon | apply failMsg_canon | split

theorem msgTimeout_canon (s : State) (id : Nat) (hs : s.canon = true) : (msgTimeout s id).canon = true := by
  unfold msgTimeout
  with_reducible repeat' first | assumption | apply failMsg_canon | apply settle_canon | split

-- Verdict.lean

theorem runVerdict_canon (s : State) (x : Cmd) (hs : s.canon = true) : (runVerdict s x).canon = true := by
  unfold runVerdict
  dsimp only
  with_reducible repeat' first | assumption | apply enqueue_canon | apply faultCmd_canon | apply openColl_canon | split

theorem stepCloseNow_canon (s : State) (c : Nat) (hs : s.canon = true) : (stepCloseNow s c).canon = true := by
  unfold stepCloseNow
  dsimp only
  with_reducible repeat' first | assumption | apply enterVote_canon | apply settle_canon | apply updCx_canon | split

theorem setScale_canon (s : State) (c : Nat) (k : Int) (hs : s.canon = true) : (State.setScale s c k).canon = true := by
  unfold State.setScale
  with_reducible repeat' first | assumption | apply wr_canon

theorem skipped_canon (s : State) (c : Nat) (hs : s.canon = true) : (State.skipped s c).canon = true := by
  unfold State.skipped
  with_reducible repeat' first | assumption | apply bump_canon | apply setScale_canon | apply wr_canon

theorem cleaned_canon (s : State) (c : Nat) (hs : s.canon = true) : (State.cleaned s c).canon = true := by
  unfold State.cleaned
  dsimp only
  with_reducible repeat' first | assumption | apply setScale_canon | apply wr_canon | split

theorem stopUpdates_canon (s : State) (c st : Nat) (hs : s.canon = true) : (State.stopUpdates s c st).canon = true := by
  unfold State.stopUpdates
  with_reducible repeat' first | assumption | apply udSkip_canon | apply foldl_canon

theorem applyVerdict_canon (s : State) (x : Cmd) (hs : s.canon = true) : (State.applyVerdict s x).canon = true := by
  unfold State.applyVerdict
  dsimp only
  with_reducible repeat' first
    | assumption | apply cleaned_canon | apply discardShadows_canon | apply faultCmd_canon | apply rush_canon
    | apply setFlag_canon | apply skipped_canon | apply stopUpdates_canon | apply updCx_canon | apply wr_canon | split

-- Complete.lean

theorem tryAgain_canon (s : State) (x : Cmd) (hs : s.canon = true) : (tryAgain s x).canon = true := by
  unfold tryAgain
  with_reducible repeat' first
    | assumption | apply tryCast_canon | apply tryColl_canon | apply tryFinish_canon | apply tryGet_canon
    | apply tryHcount_canon | apply tryMover_canon | apply tryPut_canon | split

theorem writeAfter_canon {s : State} {c : Nat} {ws : List (Nat × Nat)} {t : State} (he : (State.writeAfter s c ws) = .ok t)
    (hs : s.canon = true) : t.canon = true := by
  refine Holds.out (P := fun r => r.canon = true) ?_ he
  unfold State.writeAfter
  with_reducible repeat' first
    | assumption | (refine vwriteNat_canon (by assumption) ?_) | apply Holds.fold | intro _ | (refine Holds.of ?_)

theorem finishCmd_canon (s : State) (x : Cmd) (hs : s.canon = true) : (finishCmd s x).canon = true := by
  unfold finishCmd
  dsimp only
  with_reducible repeat' first
    | assumption | apply applyVerdict_canon | apply complete_canon | apply faultCmd_canon
    | (refine writeAfter_canon (by assumption) ?_) | split

theorem completionNow_canon (s : State) (id : Nat) (hs : s.canon = true) : (completionNow s id).canon = true := by
  unfold completionNow
  dsimp only
  with_reducible repeat' first | assumption | apply finishCmd_canon | apply settle_canon | apply tryAgain_canon | split

-- Drain.lean

theorem dispatchDrain_canon (mode sp : Nat) (s : State) (hs : s.canon = true) : (dispatchDrain mode sp s).canon = true := by
  unfold dispatchDrain
  with_reducible repeat' first | assumption | apply dispatch_canon | apply enqueue_canon

theorem writeBlocks_canon (st : Writing) (cx : Nat) (d : Desc) (col0 : Nat) (r : RingRow) (hst : st.1.canon = true) :
    (writeBlocks st cx d col0 r).1.1.canon = true := by
  unfold writeBlocks
  dsimp only
  with_reducible repeat' first | assumption | apply putBytes_canon | apply foldl_fst | intro _ | split

theorem writeKept_canon (st : Writing) (cx : Nat) (d : Desc) (col0 n : Nat) (q : Nat × Nat) (hst : st.1.canon = true) :
    (writeKept st cx d col0 n q).1.canon = true := by
  unfold writeKept
  with_reducible repeat' first | assumption | apply writeConverted_canon

theorem drainConvert_canon (s : State) (x : Cmd) (rows : List RingRow) (hs : s.canon = true) : (drainConvert s x
    rows).1.1.canon = true := by
  unfold drainConvert
  dsimp only
  with_reducible repeat' first
    | assumption | apply writeBlocks_canon | apply writeConverted_canon | apply writeKept_canon | apply foldl_fst
    | apply foldl_fst_fst | intro _ | split

theorem freeRows_canon (s : State) (x : Cmd) (a : Nat) (rows : List RingRow) (hs : s.canon = true) : (State.freeRows s x a
    rows).canon = true := by
  unfold State.freeRows
  with_reducible repeat' first | assumption | apply count_canon | apply updArr_canon

theorem drainedGroup_canon (s : State) (x : Cmd) (n : Nat) (hs : s.canon = true) : (State.drainedGroup s x n).canon = true :=
    by
  unfold State.drainedGroup
  with_reducible repeat' first | assumption | apply updCmd_canon

theorem spillRow_canon (s : State) (x : Cmd) (a : Nat) (r : RingRow) (hs : s.canon = true) : (spillRow s x a r).canon = true
    := by
  unfold spillRow
  dsimp only
  with_reducible repeat' first
    | assumption | apply drainedGroup_canon | apply faultCmd_canon | apply freeRows_canon
    | (refine vwrite_canon (by assumption) ?_) | intro _ | split
    | (refine Holds.out (P := fun r : State => r.canon = true) ?_ (by assumption); first | apply Holds.fold | apply Holds.bind | split)
    | (refine Holds.of ?_)

theorem convertStep_canon (s : State) (x : Cmd) (a : Nat) (rows : List RingRow) (hs : s.canon = true) : (convertStep s x a
    rows).canon = true := by
  have hd := drainConvert_canon s x rows hs
  unfold convertStep
  split
  · rename_i e
    rw [e] at hd
    refine count_canon _ _ _ _ _ (countFor_canon _ _ _ _ _ (drainedGroup_canon _ _ _ ?_))
    split
    · exact freeRows_canon _ _ _ _ hd
    · exact hd
  · exact hs
  · rename_i e
    rw [e] at hd
    exact faultCmd_canon _ _ _ hd

theorem imageStep_canon (s : State) (x : Cmd) (a : Nat) (hs : s.canon = true) : (imageStep s x a).canon = true := by
  unfold imageStep
  dsimp only
  with_reducible repeat' first | assumption | apply convertStep_canon | apply faultCmd_canon | split

theorem ringStep_canon (s : State) (x : Cmd) (a : Nat) (hs : s.canon = true) : (ringStep s x a).canon = true := by
  unfold ringStep
  dsimp only
  with_reducible repeat' first | assumption | apply convertStep_canon | apply faultCmd_canon | apply spillRow_canon | split

theorem drainRow_canon (s : State) (a : Nat) (hs : s.canon = true) : (drainRow s a).canon = true := by
  unfold drainRow
  dsimp only
  with_reducible repeat' first
    | assumption | apply faultCmd_canon | apply imageStep_canon | apply ringStep_canon | apply settle_canon
    | (refine fst_of (by assumption) ?_; apply stashReady_canon) | apply updCmd_canon | split

end Sys2Proof.Machine
end

