-- ==== Sys2Proof/Laws/CanonDevice.lean ====
section
/-! SUPPORT. Memory tiers, observation, starts, self-test, power, the host port and the board controller keep the canonical form. -/

namespace Sys2Proof.Machine

-- Memtier.lean

theorem setRole_canon (s : State) (ph v : Nat) (hs : s.canon = true) : (State.setRole s ph v).canon = true := by
  unfold State.setRole
  dsimp only
  with_reducible repeat' first | assumption | apply wr_canon

theorem updNt_canon (s : State) (f : Tiers → Tiers) (hs : s.canon = true) : (State.updNt s f).canon = true := by
  unfold State.updNt
  exact canon_mk rfl ‹_›

theorem repairRecord_canon (s : State) (j : Nat) (hs : s.canon = true) : (State.repairRecord s j).canon = true := by
  unfold State.repairRecord
  with_reducible repeat' first | assumption | apply reelEvent_canon

theorem recordRemoval_canon (s : State) (ph : Nat) (hs : s.canon = true) : (State.recordRemoval s ph).canon = true := by
  unfold State.recordRemoval
  with_reducible repeat' first | assumption | apply bump_canon | apply repairRecord_canon | apply updNt_canon | split

theorem goOffline_canon (s : State) (ph : Nat) (hs : s.canon = true) : (State.goOffline s ph).canon = true := by
  unfold State.goOffline
  with_reducible repeat' first | assumption | apply bump_canon | apply setRole_canon | apply updNt_canon | split

theorem nextMigration_canon (s : State) (hs : s.canon = true) : (State.nextMigration s).canon = true := by
  unfold State.nextMigration
  dsimp only
  with_reducible repeat' first | assumption | apply setFlag_canon | apply updNt_canon | apply wr_canon | split

theorem nearFailing_canon (s : State) (ph : Nat) (hs : s.canon = true) : (State.nearFailing s ph).canon = true := by
  unfold State.nearFailing
  dsimp only
  with_reducible repeat' first
    | assumption | apply nextMigration_canon | apply recordRemoval_canon | apply setRole_canon | apply updNt_canon | split

theorem slowFailing_canon (s : State) (ch : Nat) (why : FailCause) (hs : s.canon = true) : (State.slowFailing s ch why).canon
    = true := by
  unfold State.slowFailing
  with_reducible repeat' first | assumption | apply reelEvent_canon

theorem channelFailingNow_canon (s : State) (ch : Nat) (why : FailCause) (hs : s.canon = true) : (channelFailingNow s ch
    why).canon = true := by
  unfold channelFailingNow
  with_reducible repeat' first | assumption | apply nearFailing_canon | apply slowFailing_canon | split

theorem thirdMiss_canon (s : State) (ph : Nat) (hs : s.canon = true) : (State.thirdMiss s ph).canon = true := by
  unfold State.thirdMiss
  dsimp only
  with_reducible repeat' first | assumption | apply goOffline_canon | apply nearFailing_canon | split

theorem retrainEndNow_canon (s : State) (ph : Nat) (ok : Bool) (hs : s.canon = true) : (retrainEndNow s ph ok).canon = true
    := by
  unfold retrainEndNow
  dsimp only
  with_reducible repeat' first | assumption | apply setFlag_canon | apply thirdMiss_canon | apply updNt_canon | split

theorem slowRetrainEndNow_canon (s : State) (ch : Nat) (ok : Bool) (hs : s.canon = true) : (slowRetrainEndNow s ch ok).canon
    = true := by
  unfold slowRetrainEndNow
  dsimp only
  with_reducible repeat' first | assumption | apply slowFailing_canon | apply updNt_canon | split

theorem scrubNow_canon (s : State) (a : Nat) (r : ScrubResult) (hs : s.canon = true) : (scrubNow s a r).canon = true := by
  unfold scrubNow
  repeat' (first | (with_reducible first | assumption | apply uncorrEvent_canon | split) | refine canon_mk rfl ?_)

theorem migrationRecord_canon (s : State) (ph : Nat) (ok : Bool) (hs : s.canon = true) : (State.migrationRecord s ph
    ok).canon = true := by
  unfold State.migrationRecord
  with_reducible repeat' first | assumption | apply reelEvent_canon

theorem abandonMigration_canon (s : State) (ph : Nat) (hs : s.canon = true) : (State.abandonMigration s ph).canon = true :=
    by
  unfold State.abandonMigration
  dsimp only
  with_reducible repeat' first
    | assumption | apply bump_canon | apply migrationRecord_canon | apply nextMigration_canon | apply repairRecord_canon
    | apply setFlag_canon | apply setRole_canon | apply updNt_canon

theorem spareTrainedNow_canon (s : State) (ok : Bool) (hs : s.canon = true) : (spareTrainedNow s ok).canon = true := by
  unfold spareTrainedNow
  with_reducible repeat' first | assumption | apply abandonMigration_canon | apply updNt_canon | apply wr_canon | split

theorem migrationEndNow_canon (s : State) (hs : s.canon = true) : (migrationEndNow s).canon = true := by
  unfold migrationEndNow
  dsimp only
  with_reducible repeat' first
    | assumption | apply bump_canon | apply migrationRecord_canon | apply nextMigration_canon | apply repairRecord_canon
    | apply setFlag_canon | apply setRole_canon | apply updNt_canon | apply wr_canon | split

-- Umdin.lean

theorem updBoot_canon (s : State) (f : Boot → Boot) (hs : s.canon = true) : (State.updBoot s f).canon = true := by
  unfold State.updBoot
  exact canon_mk rfl ‹_›

theorem setFuse_canon (s : State) (k v : Nat) (hs : s.canon = true) : (State.setFuse s k v).canon = true := by
  unfold State.setFuse
  with_reducible repeat' first | assumption | apply updBoot_canon

theorem firstOwner_canon (s : State) (im : List Byte) (hs : s.canon = true) : (State.firstOwner s im).canon = true := by
  unfold State.firstOwner
  with_reducible repeat' first | assumption | apply setFuse_canon | split

theorem checkImage_canon (s : State) (src : Option (List Byte)) (hs : s.canon = true) : (State.checkImage s src).2.canon =
    true := by
  unfold State.checkImage
  dsimp only
  with_reducible repeat' first | assumption | apply firstOwner_canon | split

theorem takeNonce_canon (s : State) (hs : s.canon = true) : (State.takeNonce s).2.canon = true := by
  unfold State.takeNonce
  dsimp only
  exact canon_mk rfl ‹_›

-- Observe.lean

theorem updDbg_canon (s : State) (f : Dbg → Dbg) (hs : s.canon = true) (hf : ∀ d, (f d).rush = d.rush) : (State.updDbg s
    f).canon = true :=
  canon_mk (hf _) hs

theorem settleCounters_canon (s : State) (is : List Nat) (hs : s.canon = true) : (State.settleCounters s is).canon = true :=
    by
  unfold State.settleCounters
  dsimp only
  with_reducible repeat' first | assumption | apply takeFree_canon | apply wr_canon | apply foldl_canon | intro _

theorem pmcCtlWrite_canon (s : State) (w : HW) (hs : s.canon = true) : (pmcCtlWrite s w).canon = true := by
  unfold pmcCtlWrite
  dsimp only
  with_reducible repeat' first
    | assumption | apply puts_canon | apply settleCounters_canon | apply updDbg_canon | intro _ | dsimp only | split

theorem pmcSelWrite_canon (s : State) (i : Nat) (w : HW) (hs : s.canon = true) : (pmcSelWrite s i w).canon = true := by
  unfold pmcSelWrite
  with_reducible repeat' first | assumption | apply puts_canon | apply settleCounters_canon

theorem clapWrite_canon (s : State) (w : HW) (hs : s.canon = true) : (clapWrite s w).canon = true := by
  unfold clapWrite
  dsimp only
  with_reducible repeat' first | assumption | apply clapStart_canon | apply put_canon | apply settle_canon | split

theorem clapTimeout_canon (s : State) (hs : s.canon = true) : (clapTimeout s).canon = true := by
  unfold clapTimeout
  with_reducible repeat' first | assumption | apply clapEnd_canon | split

theorem clapDone_canon (s : State) (hs : s.canon = true) : (State.clapDone s).canon = true := by
  unfold State.clapDone
  dsimp only
  with_reducible repeat' first | assumption | apply clapEnd_canon | apply updTsu_canon | apply wr_canon | split

theorem clapReply_canon (s : State) (f : Frame) (hs : s.canon = true) : (State.clapReply s f).canon = true := by
  unfold State.clapReply
  dsimp only
  with_reducible repeat' first | assumption | apply clapAsk_canon | apply clapDone_canon | apply updTsu_canon | split

theorem clapTake_canon (f : Frame) (s : State) (hs : s.canon = true) : (clapTake f s).canon = true := by
  unfold clapTake
  dsimp only
  with_reducible repeat' first | assumption | apply clapReply_canon | apply sendFrames_canon | split

theorem rushOn_canon (s : State) (hs : s.canon = true) : (State.rushOn s).canon = true := by
  unfold State.rushOn
  dsimp only
  with_reducible repeat' first
    | assumption | apply setFlag_canon | apply updDbg_canon | apply wr_canon | intro _ | dsimp only | split

theorem rushOff_canon (s : State) (hs : s.canon = true) : (State.rushOff s).canon = true := by
  unfold State.rushOff
  with_reducible repeat' first | assumption | apply wr_canon | split

theorem rearmNow_canon (s : State) (hs : s.canon = true) : (State.rearmNow s).canon = true := by
  unfold State.rearmNow
  dsimp only
  with_reducible repeat' first
    | assumption | apply setFlag_canon | apply updDbg_canon | apply wr_canon | intro _ | dsimp only | split

theorem rushCtlWrite_canon (s : State) (w : HW) (hs : s.canon = true) : (rushCtlWrite s w).canon = true := by
  unfold rushCtlWrite
  dsimp only
  with_reducible repeat' first
    | assumption | apply puts_canon | apply rearmNow_canon | apply rushOff_canon | apply rushOn_canon | split

theorem rushTrigWrite_canon (s : State) (w : HW) (hs : s.canon = true) : (rushTrigWrite s w).canon = true := by
  unfold rushTrigWrite
  dsimp only
  with_reducible repeat' first | assumption | apply puts_canon | apply settle_canon | apply trigger_canon | split

theorem cutCtlWrite_canon (s : State) (w : HW) (hs : s.canon = true) : (cutCtlWrite s w).canon = true := by
  unfold cutCtlWrite
  dsimp only
  with_reducible repeat' first
    | assumption | apply act_canon | apply orderCut_canon | apply puts_canon | apply settle_canon | apply supHost_canon
    | split

theorem cutAtWrite_canon (s : State) (w : HW) (hs : s.canon = true) : (cutAtWrite s w).canon = true := by
  unfold cutAtWrite
  dsimp only
  with_reducible repeat' first
    | assumption | apply armTimed_canon | apply sendCuts_canon | apply settle_canon | apply updDbg_canon | apply wr_canon
    | intro _ | dsimp only | split

theorem cutTake_canon (f : Frame) (s : State) (hs : s.canon = true) : (cutTake f s).canon = true := by
  unfold cutTake
  dsimp only
  with_reducible repeat' first | assumption | apply armTimed_canon | split

theorem updRec_canon (s : State) (f : Rec → Rec) (hs : s.canon = true) : (State.updRec s f).canon = true := by
  unfold State.updRec
  exact canon_mk rfl ‹_›

theorem clearLog_canon (s : State) (hs : s.canon = true) : (State.clearLog s).canon = true := by
  have h : State.canon { s with reel := s.reel.filter fun r => decide (r.1 < 16) } = true := by
    rw [canon_iff] at hs ⊢
    exact ⟨hs.1, hs.2.1, smWfFrom_filter hs.2.2.1 _, hs.2.2.2⟩
  unfold State.clearLog
  dsimp only
  generalize ({ s with reel := s.reel.filter fun r => decide (r.1 < 16) } : State) = u at h ⊢
  repeat' (first | (with_reducible first | assumption | apply recWrite_canon | apply setFlag_canon | apply updRec_canon | apply wr_canon | split))

theorem clearNow_canon (s : State) (a : Nat) (hs : s.canon = true) : (State.clearNow s a).canon = true := by
  unfold State.clearNow
  dsimp only
  with_reducible repeat' first
    | assumption | apply clearLog_canon | apply reelEvent_canon | apply takeNonce_canon | apply wr_canon | split

theorem unfreeze_canon (s : State) (hs : s.canon = true) : (State.unfreeze s).canon = true := by
  unfold State.unfreeze
  dsimp only
  with_reducible repeat' first
    | assumption | apply clearNow_canon | apply setFlag_canon | apply thaw_canon | apply updRec_canon | split

theorem freezeNow_canon (s : State) (hs : s.canon = true) : (State.freezeNow s).canon = true := by
  unfold State.freezeNow
  dsimp only
  with_reducible repeat' first
    | assumption | apply flushRepeat_canon | apply setFlag_canon | apply updRec_canon | apply wr_canon

theorem recCtlWrite_canon (s : State) (w : HW) (hs : s.canon = true) : (recCtlWrite s w).canon = true := by
  unfold recCtlWrite
  with_reducible repeat' first | assumption | apply freezeNow_canon | apply unfreeze_canon | split

theorem freezeExpiryNow_canon (s : State) (hs : s.canon = true) : (freezeExpiryNow s).canon = true := by
  unfold freezeExpiryNow
  with_reducible repeat' first | assumption | apply setFlag_canon | apply unfreeze_canon | split

theorem repeatFlushNow_canon (s : State) (hs : s.canon = true) : (repeatFlushNow s).canon = true := by
  unfold repeatFlushNow
  with_reducible repeat' first | assumption | apply flushRepeat_canon | split

theorem clearWrite_canon (s : State) (w : HW) (hs : s.canon = true) : (clearWrite s w).canon = true := by
  unfold clearWrite
  dsimp only
  with_reducible repeat' first | assumption | apply clearNow_canon | apply updRec_canon | split

-- Start.lean

theorem enterSafe_canon (s : State) (unit test : Nat) (hs : s.canon = true) : (State.enterSafe s unit test).canon = true :=
    by
  unfold State.enterSafe
  dsimp only
  repeat' first
    | with_reducible first
      | assumption | apply act_canon | apply faultCx_canon | apply setFlag_canon | apply setStart_canon | apply settle_canon
      | apply updBoot_canon | apply wr_canon | apply foldl_canon | intro _ | split
    | refine canon_mk rfl ?_

theorem portShutdown_canon (s : State) (hs : s.canon = true) : (portShutdown s).canon = true := by
  unfold portShutdown
  dsimp only
  repeat' first
    | with_reducible first
      | assumption | apply msix_canon | apply portDown_canon | apply reelEvent_canon | apply updBoot_canon
      | apply foldl_canon | intro _ | split
    | refine canon_mk rfl ?_

theorem reset_regsWf : State.reset.regsWf = true := by decide

theorem beginStart_canon (s : State) (hs : s.canon = true) : (State.beginStart s).canon = true := by
  unfold State.beginStart
  dsimp only
  have h : State.canon { State.reset with
    pending := s.pending, reel := s.reel, outs := s.outs, free := s.free, nonces := s.nonces,
    recd := { n := s.recd.n },
    boot := { fuses := s.boot.fuses, acted := [(objDevice, 0)] } } = true := by
    rw [canon_iff] at hs ⊢
    exact ⟨reset_regsWf, rfl, hs.2.2.1, rfl⟩
  dsimp only at h
  revert h
  generalize (State.mk _ _ _ _ _ _ _ _ _ _ _ _ _ _ _ _ _ _ _ _ _ _ _ _ _ _ _ _ _) = u
  intro h
  repeat' (first | (with_reducible first | assumption | apply wr_canon | apply emit_canon | apply takeNonce_canon | (refine snd_of (by assumption) ?_; apply takeNonce_canon) | dsimp only | split))

theorem pwrfailFallNow_canon (s : State) (hs : s.canon = true) : (pwrfailFallNow s).canon = true := by
  unfold pwrfailFallNow
  dsimp only
  with_reducible repeat' first
    | assumption | apply flushRepeat_canon | apply recWrite_canon | apply updBoot_canon | apply updRec_canon | split

theorem scanReel_canon (s : State) (hs : s.canon = true) : (State.scanReel s).canon = true := by
  unfold State.scanReel
  dsimp only
  with_reducible repeat' first
    | assumption | apply reelEvent_canon | apply updRec_canon | apply wr_canon | apply foldl_canon | intro _

theorem fuseEnd_canon (s : State) (hs : s.canon = true) : (fuseEnd s).canon = true := by
  unfold fuseEnd
  dsimp only
  with_reducible repeat' first | assumption | apply scanReel_canon | apply setStart_canon | apply wr_canon | split

theorem recovery_canon (s : State) (cause : Nat) (hs : s.canon = true) : (State.recovery s cause).canon = true := by
  unfold State.recovery
  with_reducible repeat' first | assumption | apply reelEvent_canon | apply setStart_canon | apply wr_canon

theorem useImage_canon (s : State) (im : List Byte) (hs : s.canon = true) : (State.useImage s im).canon = true := by
  unfold State.useImage
  dsimp only
  with_reducible repeat' first
    | assumption | apply setFlag_canon | apply updBoot_canon | apply updRec_canon | apply wr_canon | apply foldl_canon
    | intro _

theorem tryImage_canon (s : State) (src : Option (List Byte)) (pushed : Bool) (hs : s.canon = true) : (State.tryImage s src
    pushed).canon = true := by
  unfold State.tryImage
  dsimp only
  with_reducible repeat' first
    | assumption | apply checkImage_canon | apply recovery_canon | apply setFlag_canon | apply setStart_canon
    | apply useImage_canon | apply wr_canon | split

theorem pushWrite_canon (s : State) (w : HW) (hs : s.canon = true) : (pushWrite s w).canon = true := by
  unfold pushWrite
  dsimp only
  with_reducible repeat' first | assumption | apply act_canon | apply tryImage_canon | split

theorem selfTestEnd_canon (s : State) (failed : Option Nat) (hs : s.canon = true) : (selfTestEnd s failed).canon = true := by
  unfold selfTestEnd
  dsimp only
  with_reducible repeat' first
    | assumption | apply enterSafe_canon | apply rollEnd_canon | apply setPort_canon | apply train_canon | apply wr_canon
    | apply foldl_canon | intro _ | split

theorem layDomains_canon (s : State) (hs : s.canon = true) : (State.layDomains s).canon = true := by
  unfold State.layDomains
  dsimp only
  with_reducible repeat' first | assumption | apply wr_canon | apply foldl_fst | intro _

theorem mapNear_canon (s : State) (bad : List Nat) (hs : s.canon = true) : (State.mapNear s bad).canon = true := by
  unfold State.mapNear
  dsimp only
  with_reducible repeat' first
    | assumption | apply bump_canon | apply updNt_canon | apply wr_canon | apply foldl_canon | intro _ | split

theorem memoryEnd_canon (s : State) (bad : List Nat) (slow : List (Option Bool)) (hs : s.canon = true) : (memoryEnd s bad
    slow).canon = true := by
  unfold memoryEnd
  dsimp only
  with_reducible repeat' first
    | assumption | apply enterSafe_canon | apply layDomains_canon | apply mapNear_canon | apply reelEvent_canon
    | apply repairRecord_canon | apply updBoot_canon | apply wr_canon | apply foldl_canon | intro _ | split

theorem fabricEnd_canon (s : State) (hs : s.canon = true) : (fabricEnd s).canon = true := by
  unfold fabricEnd
  with_reducible repeat' first | assumption | apply updBoot_canon | apply wr_canon | split

theorem afterRelease_canon (s : State) (hs : s.canon = true) : (State.afterRelease s).canon = true := by
  unfold State.afterRelease
  dsimp only
  with_reducible repeat' first | assumption | apply setFuse_canon | split

theorem releaseNow_canon (s : State) (hs : s.canon = true) : (releaseNow s).canon = true := by
  unfold releaseNow
  dsimp only
  with_reducible repeat' first
    | assumption | apply afterRelease_canon | apply reelEvent_canon | apply setStart_canon | apply wr_canon | split

theorem attCtlWrite_canon (s : State) (w : HW) (hs : s.canon = true) : (attCtlWrite s w).canon = true := by
  unfold attCtlWrite
  with_reducible repeat' first | assumption | apply setFlag_canon | apply wr_canon | split

theorem reportDone_canon (s : State) (hs : s.canon = true) : (reportDone s).canon = true := by
  unfold reportDone
  dsimp only
  with_reducible repeat' first | assumption | apply setFlag_canon | apply updBoot_canon | apply wr_canon | split

theorem eraseSecrets_canon (s : State) (hs : s.canon = true) : (State.eraseSecrets s).canon = true := by
  unfold State.eraseSecrets
  dsimp only
  with_reducible repeat' first | assumption | apply setFuse_canon | apply updBoot_canon | apply foldl_canon | intro _

theorem lcMove_canon (s : State) (target : Nat) (hs : s.canon = true) : (State.lcMove s target).canon = true := by
  unfold State.lcMove
  dsimp only
  with_reducible repeat' first
    | assumption | apply beginStart_canon | apply eraseSecrets_canon | apply reelEvent_canon | apply setFuse_canon | split

theorem lcTokenWrite_canon (s : State) (w : HW) (hs : s.canon = true) : (lcTokenWrite s w).canon = true := by
  unfold lcTokenWrite
  dsimp only
  with_reducible repeat' first
    | assumption | apply act_canon | apply lcMove_canon | apply takeNonce_canon | apply wr_canon | split

theorem tapOrder_canon (s : State) (hs : s.canon = true) : (State.tapOrder s).canon = true := by
  unfold State.tapOrder
  with_reducible repeat' first | assumption | apply enterSafe_canon | split

theorem tapLoad_canon (s : State) (t : TapCode) (hs : s.canon = true) : (tapLoad s t).canon = true := by
  unfold tapLoad
  dsimp only
  with_reducible repeat' first
    | assumption | apply emit_canon | apply setFuse_canon | apply tapOrder_canon | apply updBoot_canon | split

-- Selftest.lean

theorem updSlice_canon (s : State) (f : Slice → Slice) (hs : s.canon = true) : (State.updSlice s f).canon = true := by
  unfold State.updSlice
  exact canon_mk rfl ‹_›

theorem openRound_canon (s : State) (hs : s.canon = true) : (State.openRound s).canon = true := by
  unfold State.openRound
  with_reducible repeat' first | assumption | apply updSlice_canon | apply wr_canon | split

theorem sliceDueNow_canon (s : State) (hs : s.canon = true) : (sliceDueNow s).canon = true := by
  unfold sliceDueNow
  dsimp only
  with_reducible repeat' first | assumption | apply openRound_canon | apply updSlice_canon | apply wr_canon | split

theorem sliceDiscards_canon (s : State) (b : Nat) (hs : s.canon = true) : (State.sliceDiscards s b).canon = true := by
  unfold State.sliceDiscards
  with_reducible repeat' first | assumption | apply dropTranslations_canon | apply foldl_canon | split

theorem quietNow_canon (s : State) (hs : s.canon = true) : (quietNow s).canon = true := by
  unfold quietNow
  dsimp only
  with_reducible repeat' first | assumption | apply setFlag_canon | apply sliceDiscards_canon | apply updSlice_canon | split

theorem quietLate_canon (s : State) (hs : s.canon = true) : (quietLate s).canon = true := by
  unfold quietLate
  with_reducible repeat' first | assumption | apply updSlice_canon | split

theorem sliceEndNow_canon (s : State) (ok : Bool) (hs : s.canon = true) : (sliceEndNow s ok).canon = true := by
  unfold sliceEndNow
  dsimp only
  with_reducible repeat' first
    | assumption | apply bump_canon | apply enterSafe_canon | apply setFlag_canon | apply settle_canon
    | apply updSlice_canon | apply wr_canon | split

theorem bstSaveWrite_canon (s : State) (w : HW) (hs : s.canon = true) : (bstSaveWrite s w).canon = true := by
  unfold bstSaveWrite
  with_reducible repeat' first | assumption | apply puts_canon | split

-- Image.lean

theorem keepRegs_canon (s : State) (hs : s.canon = true) : (State.keepRegs s).canon = true := by
  unfold State.keepRegs
  with_reducible repeat' first | assumption | apply updDbg_canon | intro _ | dsimp only

theorem cutFreezeNow_canon (s : State) (hs : s.canon = true) : (cutFreezeNow s).canon = true := by
  unfold cutFreezeNow
  dsimp only
  with_reducible repeat' first
    | assumption | apply keepRegs_canon | apply msix_canon | apply reelEvent_canon | apply setFlag_canon
    | apply setStart_canon | apply trigger_canon | split

theorem imageEvent_canon (s : State) (k o : Nat) (hs : s.canon = true) : (State.imageEvent s k o).canon = true := by
  unfold State.imageEvent
  with_reducible repeat' first | assumption | apply uncorrEvent_canon | apply updDbg_canon | intro _ | dsimp only | split

theorem orFree_canon (s : State) (v : Option Nat) (hs : s.canon = true) : (State.orFree s v).2.canon = true := by
  unfold State.orFree
  with_reducible repeat' first | assumption | apply takeFree_canon | split

theorem imageRead_canon (s : State) (o : Nat) (hs : s.canon = true) : (State.imageRead s o).2.canon = true := by
  unfold State.imageRead
  dsimp only
  with_reducible repeat' first | assumption | apply imageEvent_canon | apply orFree_canon | split

theorem readWord_canon (s : State) (a : Nat) (hs : s.canon = true) : (State.readWord s a).2.canon = true := by
  unfold State.readWord
  dsimp only
  with_reducible repeat' first | assumption | apply imageRead_canon | apply takeFree_canon | split

theorem clearRead_canon (s : State) (a lo n : Nat) (hs : s.canon = true) : (State.clearRead s a lo n).canon = true := by
  unfold State.clearRead
  with_reducible repeat' first | assumption | apply setWord_canon | apply foldl_canon | intro _ | split

theorem hostRead_canon (s : State) (off size : Nat) (hs : s.canon = true) : (hostRead s off size).canon = true := by
  unfold hostRead
  dsimp only
  with_reducible repeat' first | assumption | apply clearRead_canon | apply emit_canon | apply readWord_canon | split

theorem scanRead_canon (s : State) (off : Nat) (hs : s.canon = true) : (scanRead s off).canon = true := by
  unfold scanRead
  with_reducible repeat' first | assumption | apply hostRead_canon | split

-- Power.lean

theorem updPwr_canon (s : State) (f : Pwr → Pwr) (hs : s.canon = true) : (State.updPwr s f).canon = true := by
  unfold State.updPwr
  exact canon_mk rfl ‹_›

theorem setOpmax_canon (s : State) (v : Nat) (hs : s.canon = true) : (State.setOpmax s v).canon = true := by
  unfold State.setOpmax
  dsimp only
  with_reducible repeat' first | assumption | apply updPwr_canon | apply wr_canon

theorem pwrCfgWrite_canon (s : State) (w : HW) (hs : s.canon = true) : (pwrCfgWrite s w).canon = true := by
  unfold pwrCfgWrite
  dsimp only
  with_reducible repeat' first | assumption | apply act_canon | apply put_canon | apply setOpmax_canon | split

theorem capClamp_canon (s : State) (asked applied : Nat) (hs : s.canon = true) : (State.capClamp s asked applied).canon =
    true := by
  unfold State.capClamp
  with_reducible repeat' first | assumption | apply reelEvent_canon

theorem setLimit_canon (s : State) (f : Fld) (v : Nat) (hs : s.canon = true) : (State.setLimit s f v).canon = true := by
  unfold State.setLimit
  dsimp only
  with_reducible repeat' first | assumption | apply capClamp_canon | apply wr_canon | split

theorem capHostWrite_canon (s : State) (w : HW) (hs : s.canon = true) : (capHostWrite s w).canon = true := by
  unfold capHostWrite
  with_reducible repeat' first | assumption | apply setLimit_canon | split

theorem clampTest_canon (s : State) (sum n l : Nat) (hs : s.canon = true) : (State.clampTest s sum n l).canon = true := by
  unfold State.clampTest
  with_reducible repeat' first | assumption | apply capClamp_canon | apply updPwr_canon | split

theorem powerSampleNow_canon (s : State) (mw : Nat) (hs : s.canon = true) : (powerSampleNow s mw).canon = true := by
  unfold powerSampleNow
  dsimp only
  with_reducible repeat' first | assumption | apply clampTest_canon | apply updPwr_canon

theorem takeCue_canon (s : State) (arrays load lead : Nat) (hs : s.canon = true) : (State.takeCue s arrays load lead).canon =
    true := by
  unfold State.takeCue
  dsimp only
  with_reducible repeat' first
    | assumption | apply beginRamp_canon | apply supCount_canon | apply takeFree_canon | apply updPwr_canon
    | apply foldl_canon | intro _ | split

theorem runCue_canon (s : State) (x : Cmd) (hs : s.canon = true) : (runCue s x).canon = true := by
  unfold runCue
  with_reducible repeat' first | assumption | apply completeNow_canon | apply takeCue_canon

theorem cueLeadEndNow_canon (s : State) (hs : s.canon = true) : (cueLeadEndNow s).canon = true := by
  unfold cueLeadEndNow
  dsimp only
  with_reducible repeat' first | assumption | apply updArr_canon | apply updPwr_canon | apply foldl_canon | intro _ | split

-- Host.lean

theorem writeField_canon (w : HW) (n i : Nat) (s : State) (f : Fld) (hs : s.canon = true) : (writeField w n i s f).canon =
    true := by
  unfold writeField
  with_reducible repeat' first | assumption | apply wr_canon | split

theorem writeFields_canon (s : State) (b : Blk) (n o : Nat) (w : HW) (but : List Fld) (hs : s.canon = true) : (writeFields s
    b n o w but).canon = true := by
  unfold writeFields
  with_reducible repeat' first | assumption | apply writeField_canon | apply foldl_canon | intro _

theorem printsWrite_canon (s : State) (c : Nat) (w : HW) (hs : s.canon = true) : (printsWrite s c w).canon = true := by
  unfold printsWrite
  with_reducible repeat' first | assumption | apply wr_canon | split

theorem formPools_canon (s : State) (c : Nat) (hs : s.canon = true) : (State.formPools s c).canon = true := by
  unfold State.formPools
  dsimp only
  with_reducible repeat' first | assumption | apply updCx_canon | split

theorem cxWrite_canon (s : State) (c o : Nat) (w : HW) (hs : s.canon = true) : (cxWrite s c o w).canon = true := by
  unfold cxWrite
  dsimp only
  with_reducible repeat' first
    | assumption | apply ckptCtlWrite_canon | apply ckptOpWrite_canon | apply cxCtlWrite_canon | apply formPools_canon
    | apply hostSemWrite_canon | apply printsWrite_canon | apply settle_canon | apply stashCtlWrite_canon
    | apply writeFields_canon | split

theorem dmaPtrsWrite_canon (s : State) (w : HW) (hs : s.canon = true) : (dmaPtrsWrite s w).canon = true := by
  unfold dmaPtrsWrite
  with_reducible repeat' first | assumption | apply setFlag_canon | apply wr_canon | split

theorem dmaStart_canon (s : State) (hs : s.canon = true) : (State.dmaStart s).canon = true := by
  unfold State.dmaStart
  with_reducible repeat' first | assumption | apply wr_canon | apply foldl_canon | intro _

theorem dmaRingWrite_canon (s : State) (w : HW) (hs : s.canon = true) : (dmaRingWrite s w).canon = true := by
  unfold dmaRingWrite
  dsimp only
  with_reducible repeat' first | assumption | apply dmaStart_canon | apply put_canon | apply puts_canon | split

theorem pxWrite_canon (s : State) (o : Nat) (w : HW) (hs : s.canon = true) : (pxWrite s o w).canon = true := by
  unfold pxWrite
  with_reducible repeat' first
    | assumption | apply dmaPtrsWrite_canon | apply dmaRingWrite_canon | apply writeFields_canon | split

theorem clearPending_canon (s : State) (v : Nat) (hs : s.canon = true) : (State.clearPending s v).canon = true := by
  unfold State.clearPending
  dsimp only
  with_reducible repeat' first | assumption | apply setWord_canon

theorem sendPending_canon (s : State) (v : Nat) (hs : s.canon = true) : (State.sendPending s v).canon = true := by
  unfold State.sendPending
  with_reducible repeat' first | assumption | apply clearPending_canon | apply emit_canon | split

theorem msixCtrlWrite_canon (s : State) (v : Nat) (w : HW) (hs : s.canon = true) : (msixCtrlWrite s v w).canon = true := by
  unfold msixCtrlWrite
  with_reducible repeat' first | assumption | apply sendPending_canon | apply writeFields_canon

theorem msixWrite_canon (s : State) (o : Nat) (w : HW) (hs : s.canon = true) : (msixWrite s o w).canon = true := by
  unfold msixWrite
  with_reducible repeat' first | assumption | apply msixCtrlWrite_canon | apply writeFields_canon | split

theorem mgtWrite_canon (s : State) (o : Nat) (w : HW) (hs : s.canon = true) : (mgtWrite s o w).canon = true := by
  unfold mgtWrite
  with_reducible repeat' first
    | assumption | apply lcTokenWrite_canon | apply pushWrite_canon | apply writeFields_canon | split

theorem dbgWrite_canon (s : State) (o : Nat) (w : HW) (hs : s.canon = true) : (dbgWrite s o w).canon = true := by
  unfold dbgWrite
  with_reducible repeat' first
    | assumption | apply cutAtWrite_canon | apply cutCtlWrite_canon | apply rushCtlWrite_canon | apply rushTrigWrite_canon
    | apply writeFields_canon | split

theorem recBlockWrite_canon (s : State) (o : Nat) (w : HW) (hs : s.canon = true) : (recBlockWrite s o w).canon = true := by
  unfold recBlockWrite
  with_reducible repeat' first
    | assumption | apply clearWrite_canon | apply recCtlWrite_canon | apply writeFields_canon | split

theorem pmcWrite_canon (s : State) (o : Nat) (w : HW) (hs : s.canon = true) : (pmcWrite s o w).canon = true := by
  unfold pmcWrite
  with_reducible repeat' first
    | assumption | apply pmcCtlWrite_canon | apply pmcSelWrite_canon | apply writeFields_canon | split

theorem castWrite_canon (s : State) (o : Nat) (w : HW) (hs : s.canon = true) : (castWrite s o w).canon = true := by
  unfold castWrite
  with_reducible repeat' first | assumption | apply writeFields_canon | split

theorem blockWrite_canon (s : State) (b : Blk) (n o : Nat) (w : HW) (hs : s.canon = true) : (blockWrite s b n o w).canon =
    true := by
  unfold blockWrite
  dsimp only
  with_reducible repeat' first
    | assumption | apply attCtlWrite_canon | apply bstSaveWrite_canon | apply capHostWrite_canon | apply castWrite_canon
    | apply clapWrite_canon | apply cxWrite_canon | apply dbgWrite_canon | apply lkCreditWrite_canon
    | apply lkCtlWrite_canon | apply mgtWrite_canon | apply msixWrite_canon | apply nextMigration_canon
    | apply pmcWrite_canon | apply pwrCfgWrite_canon | apply pxWrite_canon | apply recBlockWrite_canon
    | apply ringBaseWrite_canon | apply ringCtlWrite_canon | apply settle_canon | apply writeFields_canon | split

theorem hostWrite_canon (s : State) (off size v : Nat) (hs : s.canon = true) : (hostWrite s off size v).canon = true := by
  unfold hostWrite
  dsimp only
  with_reducible repeat' first | assumption | apply blockWrite_canon | apply hostGate_canon | intro _ | split

theorem dmaStop_canon (s : State) (cause : Nat) (hs : s.canon = true) : (State.dmaStop s cause).canon = true := by
  unfold State.dmaStop
  dsimp only
  with_reducible repeat' first | assumption | apply setFlag_canon | apply wr_canon

theorem dmaPass_canon (s : State) (irq : Bool) (hs : s.canon = true) : (State.dmaPass s irq).canon = true := by
  unfold State.dmaPass
  dsimp only
  with_reducible repeat' first | assumption | apply msix_canon | apply wr_canon | split

theorem dmaOut_canon (s : State) (host dev n : Nat) (irq : Bool) (hs : s.canon = true) : (State.dmaOut s host dev n
    irq).canon = true := by
  unfold State.dmaOut
  dsimp only
  with_reducible repeat' first
    | assumption | apply dmaPass_canon | apply dmaStop_canon | apply emit_canon | apply uncorrEvent_canon | split

theorem dmaIn_canon (s : State) (dev : Nat) (bs : List Byte) (hs : s.canon = true) : (State.dmaIn s dev bs).1.canon = true :=
    by
  unfold State.dmaIn
  with_reducible repeat' first | assumption | apply dmaStop_canon | apply pwrite_canon | apply uncorrEvent_canon | split

theorem dmaTake_canon (s : State) (dev n : Nat) (irq : Bool) (r : HostReply) (hs : s.canon = true) : (State.dmaTake s dev n
    irq r).canon = true := by
  unfold State.dmaTake
  dsimp only
  with_reducible repeat' first | assumption | apply dmaIn_canon | apply dmaPass_canon | apply dmaStop_canon | split

theorem dmaStep_canon (s : State) (r : HostReply) (hs : s.canon = true) : (dmaStep s r).canon = true := by
  unfold dmaStep
  dsimp only
  with_reducible repeat' first
    | assumption | apply dmaOut_canon | apply dmaStop_canon | apply dmaTake_canon | apply uncorrEvent_canon | split

theorem bar4ReadNow_canon (s : State) (off n : Nat) (hs : s.canon = true) : (bar4ReadNow s off n).canon = true := by
  unfold bar4ReadNow
  dsimp only
  with_reducible repeat' first | assumption | apply emit_canon | apply uncorrEvent_canon | split

theorem bar4WriteNow_canon (s : State) (off : Nat) (bs : List Byte) (hs : s.canon = true) : (bar4WriteNow s off bs).canon =
    true := by
  unfold bar4WriteNow
  dsimp only
  with_reducible repeat' first | assumption | apply pwrite_canon | apply uncorrEvent_canon | split

theorem resetRange_canon (s : State) (a n : Nat) (hs : s.canon = true) : (State.resetRange s a n).canon = true := by
  rw [canon_iff] at hs ⊢
  exact ⟨smWfFrom_filter hs.1 _, hs.2⟩

theorem resetCxFields_canon (s : State) (hs : s.canon = true) : (State.resetCxFields s).canon = true := by
  unfold State.resetCxFields
  with_reducible repeat' first | assumption | apply setWord_canon | apply foldl_canon | intro _

theorem destroyAll_canon (s : State) (hs : s.canon = true) : (State.destroyAll s).canon = true := by
  unfold State.destroyAll
  with_reducible repeat' first | assumption | apply destroyCx_canon | apply updCx_canon | apply foldl_canon | intro _

theorem resetPx_canon (s : State) (hs : s.canon = true) : (State.resetPx s).canon = true := by
  unfold State.resetPx
  with_reducible repeat' first | assumption | apply resetRange_canon

theorem flrEffects_canon (s : State) (hs : s.canon = true) : (State.flrEffects s).canon = true := by
  unfold State.flrEffects
  dsimp only
  repeat' first
    | with_reducible first
      | assumption | apply destroyAll_canon | apply resetCxFields_canon | apply resetPx_canon | apply resetRange_canon
      | apply setOpmax_canon | apply updBoot_canon | apply wr_canon
    | refine canon_mk rfl ?_

theorem flrNow_canon (s : State) (hs : s.canon = true) : (flrNow s).canon = true := by
  unfold flrNow
  with_reducible repeat' first
    | assumption | apply act_canon | apply flrEffects_canon | apply settle_canon | apply supCount_canon | split

theorem d3hotNow_canon (s : State) (enter : Bool) (hs : s.canon = true) : (d3hotNow s enter).canon = true := by
  unfold d3hotNow
  dsimp only
  with_reducible repeat' first | assumption | apply sendPending_canon | apply updBoot_canon | apply foldl_canon | split

-- I3c.lean

theorem entdaaNow_canon (s : State) (addr : Nat) (hs : s.canon = true) : (entdaaNow s addr).canon = true := by
  unfold entdaaNow
  with_reducible repeat' first | assumption | apply emit_canon | apply setFlag_canon | apply wr_canon | split

theorem i3cCommand_canon (s : State) (byte : Nat) (f : State → State) (hs : s.canon = true) (hf : ∀ s : State, s.canon = true
    → (f s).canon = true) : (State.i3cCommand s byte f).canon = true := by
  unfold State.i3cCommand
  with_reducible repeat' first | assumption | apply hf | apply wr_canon | split

theorem reply_canon (s : State) (status : Nat) (bs : List Byte) (hs : s.canon = true) : (State.reply s status bs).canon =
    true := by
  unfold State.reply
  with_reducible repeat' first | assumption | apply emit_canon

theorem i3cSuperseded_canon (s : State) (hs : s.canon = true) : (State.i3cSuperseded s).canon = true := by
  unfold State.i3cSuperseded
  with_reducible repeat' first | assumption | apply reply_canon | apply supCount_canon

theorem readStatusNow_canon (s : State) (hs : s.canon = true) : (readStatusNow s).canon = true := by
  unfold readStatusNow
  with_reducible repeat' first | assumption | apply reply_canon

theorem setCapNow_canon (w : Nat) (s : State) (hs : s.canon = true) : (setCapNow w s).canon = true := by
  unfold setCapNow
  dsimp only
  with_reducible repeat' first | assumption | apply reply_canon | apply setLimit_canon

theorem readIdNow_canon (s : State) (hs : s.canon = true) : (readIdNow s).canon = true := by
  unfold readIdNow
  with_reducible repeat' first | assumption | apply reply_canon

theorem i3cCutNow_canon (s : State) (hs : s.canon = true) : (i3cCutNow s).canon = true := by
  unfold i3cCutNow
  dsimp only
  with_reducible repeat' first
    | assumption | apply act_canon | apply i3cSuperseded_canon | apply orderCut_canon | apply reply_canon
    | apply settle_canon | split

theorem enterSafeNow_canon (arg : Nat) (s : State) (hs : s.canon = true) : (enterSafeNow arg s).canon = true := by
  unfold enterSafeNow
  dsimp only
  with_reducible repeat' first | assumption | apply enterSafe_canon | apply i3cSuperseded_canon | apply reply_canon | split

theorem restartNow_canon (arg : Nat) (s : State) (hs : s.canon = true) : (restartNow arg s).canon = true := by
  unfold restartNow
  with_reducible repeat' first | assumption | apply beginStart_canon | apply reply_canon | split

theorem readReelNow_canon (slot : Nat) (s : State) (hs : s.canon = true) : (readReelNow slot s).canon = true := by
  unfold readReelNow
  with_reducible repeat' first | assumption | apply reply_canon

end Sys2Proof.Machine
end

