-- ==== Sys2Proof/Laws/Streams.lean ====
section
/-! SUPPORT. What a dispatch can do: one law for each way it can end, and what the command it dispatches is. -/

namespace Sys2Proof.Machine

/-- A dispatch whose checks pass runs the command. -/
theorem dispatch_runs {n : Nat} {want : Packet → Bool} {prep : State → Cmd → Res Cmd} {run : State → Cmd → State} {s : State}
    {w : Packet} {x : Cmd} (h : AtHead s n w) (hl : listedOpcs.contains (opc w) = true) (hw : want w = true)
    (hp : prep s (s.newCmd n w) = .ok x) : dispatch n want prep run s = (run (s.dispatched x) x).settle := by
  have ho : (opc w != 0x51 && (s.newCmd n w).step.any fun st => s.stepClosed (s.cxOf n) st) = false := by
    by_cases e : opc w = 0x51
    · simp [e]
    · have := h.opened e
      simp only [State.newCmd, this, Bool.and_false]
  unfold dispatch
  simp only [h.runs, h.entry, hl, hw, h.header, h.inOrder, ho, hp, Bool.not_true, Bool.false_eq_true, if_false]

/-- A dispatch whose checks fail faults the context before HEAD counts. -/
theorem dispatch_faults {n : Nat} {want : Packet → Bool} {prep : State → Cmd → Res Cmd} {run : State → Cmd → State} {s : State}
    {w : Packet} {k : Cause} (h : AtHead s n w) (hl : listedOpcs.contains (opc w) = true) (hw : want w = true)
    (hp : prep s (s.newCmd n w) = .fault k) :
    dispatch n want prep run s = (s.faultCx (s.cxOf n) k (some (n, s.rd R.SP_PTRS_HEAD n))).settle := by
  have ho : (opc w != 0x51 && (s.newCmd n w).step.any fun st => s.stepClosed (s.cxOf n) st) = false := by
    by_cases e : opc w = 0x51
    · simp [e]
    · have := h.opened e
      simp only [State.newCmd, this, Bool.and_false]
  unfold dispatch
  simp only [h.runs, h.entry, hl, hw, h.header, h.inOrder, ho, hp, Bool.not_true, Bool.false_eq_true, if_false]

/-- A dispatch whose checks cannot pass yet holds the command at HEAD. -/
theorem dispatch_waits {n : Nat} {want : Packet → Bool} {prep : State → Cmd → Res Cmd} {run : State → Cmd → State} {s : State}
    {w : Packet} (h : AtHead s n w) (hl : listedOpcs.contains (opc w) = true) (hw : want w = true)
    (hp : prep s (s.newCmd n w) = .wait) : dispatch n want prep run s = s.setHeld n true := by
  have ho : (opc w != 0x51 && (s.newCmd n w).step.any fun st => s.stepClosed (s.cxOf n) st) = false := by
    by_cases e : opc w = 0x51
    · simp [e]
    · have := h.opened e
      simp only [State.newCmd, this, Bool.and_false]
  unfold dispatch
  simp only [h.runs, h.entry, hl, hw, h.header, h.inOrder, ho, hp, Bool.not_true, Bool.false_eq_true, if_false]

/-- A stream processor that cannot dispatch does nothing. -/
theorem dispatch_idle {n : Nat} {want : Packet → Bool} {prep : State → Cmd → Res Cmd} {run : State → Cmd → State} {s : State}
    (h : s.canDispatch n = false) : dispatch n want prep run s = s := by
  unfold dispatch
  simp only [h, Bool.not_false, if_true]

/-- What a dispatch changes beside what reports. -/
def State.counted (s : State) (x : Cmd) : State :=
  { ((s.setHeld x.sp false).cacheTables x.cx).wr R.SP_PTRS_HEAD (x.index + 1) x.sp with nextCmd := s.nextCmd + 1 }

theorem State.cacheTables_keeps (s : State) (c : Nat) :
    (s.cacheTables c).regs = s.regs ∧ (s.cacheTables c).mem = s.mem ∧ (s.cacheTables c).cmds = s.cmds ∧
    (s.cacheTables c).nextCmd = s.nextCmd ∧ (s.cacheTables c).arrs = s.arrs ∧ (s.cacheTables c).msgs = s.msgs ∧
    (s.cacheTables c).colls = s.colls ∧ (s.cacheTables c).cast = s.cast ∧ (s.cacheTables c).pending = s.pending ∧
    (s.cacheTables c).sps = s.sps ∧ (s.cacheTables c).dbg = s.dbg ∧ (s.cacheTables c).bad = s.bad ∧
    (s.cacheTables c).ports = s.ports ∧ (s.cacheTables c).pwr = s.pwr ∧ (s.cacheTables c).tsu = s.tsu ∧
    (s.cacheTables c).boot = s.boot := by
  unfold State.cacheTables
  split <;> exact ⟨rfl, rfl, rfl, rfl, rfl, rfl, rfl, rfl, rfl, rfl, rfl, rfl, rfl, rfl, rfl, rfl⟩

theorem State.cacheTables_cxs (s : State) (c n : Nat) :
    { (s.cacheTables c).cx n with ptmem := none } = { s.cx n with ptmem := none } := by
  unfold State.cacheTables
  split
  · rw [State.updCx_cx]
    split
    · rename_i h
      have : s.cx n = s.cx c := by
        unfold State.cx
        congr 1
        exact Fin.ext (by simpa [Fin.ofNat] using h)
      rw [this]
    · rfl
  · rfl

/-- A dispatch counts, and reports. -/
theorem reports_dispatched (s : State) (x : Cmd) : Reports (s.counted x) (s.dispatched x) := by
  have hn : ((s.setHeld x.sp false).cacheTables x.cx).nextCmd = s.nextCmd := ((s.setHeld x.sp false).cacheTables_keeps x.cx).2.2.2.1
  have e : s.counted x = { ((s.setHeld x.sp false).cacheTables x.cx).wr R.SP_PTRS_HEAD (x.index + 1) x.sp with
      nextCmd := (((s.setHeld x.sp false).cacheTables x.cx).wr R.SP_PTRS_HEAD (x.index + 1) x.sp).nextCmd + 1 } := by
    unfold State.counted
    rw [show (((s.setHeld x.sp false).cacheTables x.cx).wr R.SP_PTRS_HEAD (x.index + 1) x.sp).nextCmd = s.nextCmd from hn]
  rw [e]
  unfold State.dispatched
  exact Reports.ite ((reports_rush _ _ _ _ _ _ _ _).trans (reports_trigger _ _ _)) (reports_rush _ _ _ _ _ _ _ _)

/-- A command of a stream processor keeps its place: its processor, its context, its number in the ring and its words. -/
structure SameCmd (x y : Cmd) : Prop where
  id : y.id = x.id
  sp : y.sp = x.sp
  cx : y.cx = x.cx
  index : y.index = x.index
  w : y.w = x.w

/-- HEAD is not a register that only reports. -/
theorem head_addr {sp : Nat} (h : sp < 32) : reportReg (R.SP_PTRS_HEAD.addr sp) = false := by
  simp only [reportReg, Fld.addr, R.SP_PTRS_HEAD, blkBase, blkStride, blkSize, Bool.or_eq_false_iff, Bool.and_eq_false_iff]
  exact ⟨Or.inr (decide_eq_false (by omega)), Or.inr (decide_eq_false (by omega))⟩

/-- A dispatch is what Dispatched says. -/
theorem dispatched_spec {s : State} {sp : Nat} {w : Packet} {x : Cmd} (hs : s.regsWf = true) (hsp : sp < 32)
    (hx : SameCmd (s.newCmd sp w) x) : Dispatched s (s.dispatched x) sp := by
  have hr := reports_dispatched s x
  have e1 : x.sp = sp := hx.sp
  have e2 : x.index = s.rd R.SP_PTRS_HEAD sp := hx.index
  obtain ⟨k1, k2, k3, k4, k5, k6, k7, k8, k9, k10, k11, _, k13, k14, k15, k16⟩ := (s.setHeld x.sp false).cacheTables_keeps x.cx
  have hv : ((s.setHeld x.sp false).cacheTables x.cx).regsWf = true := by
    unfold State.regsWf
    rw [k1]
    exact hs
  have hc : (s.counted x).regsWf = true := wr_regsWf hv _ _ _ _
  constructor
  · have h1 : (s.dispatched x).rd R.SP_PTRS_HEAD sp = (s.counted x).rd R.SP_PTRS_HEAD sp := by
      unfold State.rd
      rw [hr.word hc _ (head_addr hsp)]
    rw [h1]
    have h2 : (s.counted x).rd R.SP_PTRS_HEAD sp =
        (((s.setHeld x.sp false).cacheTables x.cx).wr R.SP_PTRS_HEAD (x.index + 1) x.sp).rd R.SP_PTRS_HEAD sp := rfl
    rw [h2, e1, wr_rd_same (by rw [← e1]; exact hv) (by decide), e2]
    rfl
  · exact hr.nextCmd
  · exact hr.cmds.trans k3
  · exact hr.arrs.trans k5
  · exact hr.msgs.trans k6
  · exact hr.colls.trans k7
  · exact hr.cast.trans k8
  · exact hr.pending.trans k9
  · have h1 : (s.dispatched x).sps = (s.setHeld x.sp false).sps := hr.sps.trans k10
    have h2 : (s.dispatched x).sp sp = (s.setHeld x.sp false).sp sp := by
      unfold State.sp
      rw [h1]
    rw [h2]
    unfold State.setHeld
    rw [State.updSp_sp, e1, if_pos rfl]
  · intro n hn hne
    have h1 : (s.dispatched x).sps = (s.setHeld x.sp false).sps := hr.sps.trans k10
    have h2 : (s.dispatched x).sp n = (s.setHeld x.sp false).sp n := by
      unfold State.sp
      rw [h1]
    rw [h2]
    unfold State.setHeld
    rw [State.updSp_sp, if_neg]
    rw [e1]
    omega
  · intro n
    have h1 : (s.dispatched x).cx n = ((s.setHeld x.sp false).cacheTables x.cx).cx n := by
      have : (s.dispatched x).cxs = ((s.setHeld x.sp false).cacheTables x.cx).cxs := hr.cxs
      unfold State.cx
      rw [this]
    rw [h1, State.cacheTables_cxs]
    rfl
  · exact hr.ports.trans k13
  · exact hr.pwr.trans k14
  · exact hr.tsu.trans k15
  · exact hr.boot.trans k16
  · intro a ha hne
    rw [hr.word hc a ha]
    have h2 : (s.counted x).word a =
        (((s.setHeld x.sp false).cacheTables x.cx).wr R.SP_PTRS_HEAD (x.index + 1) x.sp).word a := rfl
    rw [h2]
    unfold State.wr
    rw [setWord_word_ne hv _ (by rw [e1]; exact hne)]
    exact word_congr k1 a
  · intro hn
    have hcn : (s.counted x).noSpill := by
      refine ⟨?_, ?_⟩
      · have h2 : (s.counted x).rd R.DBG_RUSH_CTL_SPILL =
            (((s.setHeld x.sp false).cacheTables x.cx).wr R.SP_PTRS_HEAD (x.index + 1) x.sp).rd R.DBG_RUSH_CTL_SPILL := rfl
        rw [h2, wr_rd_blk hv (by decide) (by decide) (by decide) _ (by rw [e1]; exact ⟨hsp, by decide⟩) ⟨by decide, by decide⟩]
        rw [rd_congr k1]
        exact hn.1
      · exact (congrArg Dbg.spillOk k11).trans hn.2
    rw [(hr.memory hc hcn).1]
    exact k2

/-- A register of a block that does not report stands outside those that do. -/
theorem reportReg_blk {f : Fld} (hf : f.ok = true) {n i : Nat} (h : f.has n i)
    (hb : f.blk ≠ .PMC ∧ f.blk ≠ .DBG ∧ f.blk ≠ .REC ∧ f.blk ≠ .MSIX) : reportReg (f.addr n i) = false := by
  have h1 := addr_lower f n i
  have h2 := addr_upper hf h
  obtain ⟨a, b, c, d⟩ := hb
  generalize f.addr n i = x at h1 h2
  have h3 : ¬ ((0x200000 ≤ x ∧ x < 0x400000) ∨ (0x600000 ≤ x ∧ x < 0x1010000)) := by
    revert a b c d h1 h2
    cases f.blk <;> simp only [blkBase, blkEnd, blkStride, blkSize, blkCount, if_true] <;> intros <;> first | contradiction | omega
  cases hr : reportReg x with
  | false => rfl
  | true =>
    simp only [reportReg, blkBase, blkSize, Bool.or_eq_true, Bool.and_eq_true] at hr
    rcases hr with ⟨h4, h5⟩ | ⟨h4, h5⟩ <;> have := of_decide_eq_true h4 <;> have := of_decide_eq_true h5 <;> omega

/-- A dispatch leaves the registers of blocks other than SP and those that report. -/
theorem Dispatched.rd {s u : State} {sp : Nat} (h : Dispatched s u sp) (hsp : sp < 32) {f : Fld} (hf : f.ok = true) {n i : Nat}
    (hn : f.has n i) (hb : f.blk ≠ .PMC ∧ f.blk ≠ .DBG ∧ f.blk ≠ .REC ∧ f.blk ≠ .MSIX) (hsp' : f.blk ≠ .SP) :
    u.rd f n i = s.rd f n i := by
  unfold State.rd
  rw [h.word _ (reportReg_blk hf hn hb) (addr_ne_of_blk (Ne.symm hsp') (by decide) hf ⟨hsp, by decide⟩ hn)]

/-- A dispatch leaves every semaphore, where rushes do not spill. -/
theorem Dispatched.sem {s u : State} {sp : Nat} (h : Dispatched s u sp) (hsp : sp < 32) (hn : s.noSpill) {c i : Nat} (hc : c < 16)
    (hi : i < 256) : u.sem c i = s.sem c i := by
  have hr : ∀ {f : Fld} {j : Nat}, f.ok = true → j < f.cnt → f.blk = .CX → u.rd f c j = s.rd f c j := fun hf hj hb =>
    h.rd hsp hf ⟨by rw [hb]; exact hc, hj⟩ (by rw [hb]; decide) (by rw [hb]; decide)
  unfold State.sem State.semStored State.cxState State.semAddr State.rdAddr State.preadNat State.pread
  rw [hr (f := R.CX_STATUS_STATE) (by decide) (by decide) rfl, hr (f := R.CX_TAKE_BASE) (by decide) (by decide) rfl,
    hr (f := R.CX_SEM_VALUE) (j := i) (by decide) hi rfl, h.memory hn]

-- The commands that dispatches make of what stands at HEAD.

/-- A bind that succeeds. -/
theorem Res.bind_ok {α β : Type} {r : Res α} {f : α → Res β} {b : β} (h : r.bind f = .ok b) : ∃ a, r = .ok a ∧ f a = .ok b := by
  cases r with
  | ok a => exact ⟨a, rfl, h⟩
  | fault c => cases h
  | wait => cases h

/-- A check that succeeds. -/
theorem Res.check_ok {b : Bool} {c : Cause} {u : Unit} (h : Res.check b c = .ok u) : b = true := by
  unfold Res.check at h
  split at h
  · assumption
  · cases h

theorem prepPlain_same {s : State} {x y : Cmd} (h : prepPlain s x = .ok y) : y = x ∧ rsvZero x.w [(64, 448)] = true := by
  obtain ⟨_, h1, h2⟩ := Res.bind_ok h
  cases h2
  exact ⟨rfl, Res.check_ok h1⟩

theorem SameCmd.refl (x : Cmd) : SameCmd x x := ⟨rfl, rfl, rfl, rfl, rfl⟩

theorem prepWload_same {s : State} {x y : Cmd} (h : prepWload s x = .ok y) : SameCmd x y := by
  obtain ⟨_, _, h⟩ := Res.bind_ok h
  obtain ⟨_, _, h⟩ := Res.bind_ok h
  obtain ⟨_, _, h⟩ := Res.bind_ok h
  obtain ⟨_, _, h⟩ := Res.bind_ok h
  split at h
  · cases h
  · cases h
    exact ⟨rfl, rfl, rfl, rfl, rfl⟩

theorem prepConvgen_same {s : State} {x y : Cmd} (h : prepConvgen s x = .ok y) : y = x := by
  obtain ⟨_, _, h⟩ := Res.bind_ok h
  cases h
  rfl

theorem prepRows_same {f : Packet → Bool} {s : State} {x y : Cmd} (h : prepRows f s x = .ok y) : SameCmd x y := by
  obtain ⟨_, _, h⟩ := Res.bind_ok h
  obtain ⟨_, _, h⟩ := Res.bind_ok h
  obtain ⟨_, _, h⟩ := Res.bind_ok h
  obtain ⟨_, _, h⟩ := Res.bind_ok h
  obtain ⟨_, _, h⟩ := Res.bind_ok h
  obtain ⟨_, _, h⟩ := Res.bind_ok h
  split at h
  · cases h
  · cases h
    exact ⟨rfl, rfl, rfl, rfl, rfl⟩

theorem drainPlace_same {s : State} {x y : Cmd} (h : drainPlace s x = .ok y) : SameCmd x y := by
  unfold drainPlace at h
  split at h
  · split at h
    · cases h
      exact ⟨rfl, rfl, rfl, rfl, rfl⟩
    · cases h
  · obtain ⟨_, _, h⟩ := Res.bind_ok h
    obtain ⟨_, _, h⟩ := Res.bind_ok h
    cases h
    exact ⟨rfl, rfl, rfl, rfl, rfl⟩

theorem prepDrain_same {s : State} {x y : Cmd} (h : prepDrain s x = .ok y) : SameCmd x y := by
  obtain ⟨_, _, h⟩ := Res.bind_ok h
  obtain ⟨a, ha, h⟩ := Res.bind_ok h
  obtain ⟨b, hb, h⟩ := Res.bind_ok h
  obtain ⟨_, _, h⟩ := Res.bind_ok h
  have h1 := drainPlace_same ha
  have h2 : SameCmd a b := by
    split at hb
    · obtain ⟨_, _, hb⟩ := Res.bind_ok hb
      obtain ⟨_, _, hb⟩ := Res.bind_ok hb
      obtain ⟨_, _, hb⟩ := Res.bind_ok hb
      cases hb
      exact ⟨rfl, rfl, rfl, rfl, rfl⟩
    · cases hb
      exact .refl a
  split at h
  · cases h
  · cases h
    exact ⟨h2.id.trans h1.id, h2.sp.trans h1.sp, h2.cx.trans h1.cx, h2.index.trans h1.index, h2.w.trans h1.w⟩

theorem prepFinish_same {s : State} {x y : Cmd} (h : prepFinish s x = .ok y) : SameCmd x y := by
  obtain ⟨_, _, h⟩ := Res.bind_ok h
  obtain ⟨_, _, h⟩ := Res.bind_ok h
  obtain ⟨_, _, h⟩ := Res.bind_ok h
  obtain ⟨_, _, h⟩ := Res.bind_ok h
  cases h
  exact ⟨rfl, rfl, rfl, rfl, rfl⟩

theorem prepHcount_same {s : State} {x y : Cmd} (h : prepHcount s x = .ok y) : SameCmd x y := by
  obtain ⟨_, _, h⟩ := Res.bind_ok h
  obtain ⟨_, _, h⟩ := Res.bind_ok h
  obtain ⟨_, _, h⟩ := Res.bind_ok h
  cases h
  exact ⟨rfl, rfl, rfl, rfl, rfl⟩

theorem prepMove_same {s : State} {x y : Cmd} (h : prepMove s x = .ok y) : SameCmd x y := by
  obtain ⟨_, _, h⟩ := Res.bind_ok h
  obtain ⟨_, _, h⟩ := Res.bind_ok h
  split at h
  · cases h
  · cases h
    exact ⟨rfl, rfl, rfl, rfl, rfl⟩

theorem prepList_same {s : State} {x y : Cmd} (h : prepList s x = .ok y) : SameCmd x y := by
  obtain ⟨_, _, h⟩ := Res.bind_ok h
  obtain ⟨_, _, h⟩ := Res.bind_ok h
  split at h
  · cases h
  · cases h
    exact ⟨rfl, rfl, rfl, rfl, rfl⟩

theorem prepPut_same {s : State} {x y : Cmd} (h : prepPut s x = .ok y) : SameCmd x y := by
  obtain ⟨_, _, h⟩ := Res.bind_ok h
  obtain ⟨_, _, h⟩ := Res.bind_ok h
  split at h
  · cases h
  · cases h
    exact ⟨rfl, rfl, rfl, rfl, rfl⟩

theorem prepGet_same {s : State} {x y : Cmd} (h : prepGet s x = .ok y) : SameCmd x y := by
  obtain ⟨_, _, h⟩ := Res.bind_ok h
  obtain ⟨_, _, h⟩ := Res.bind_ok h
  split at h
  · cases h
  · cases h
    exact ⟨rfl, rfl, rfl, rfl, rfl⟩

theorem prepColl_same {s : State} {x y : Cmd} (h : prepColl s x = .ok y) : SameCmd x y := by
  obtain ⟨_, _, h⟩ := Res.bind_ok h
  obtain ⟨_, _, h⟩ := Res.bind_ok h
  obtain ⟨_, _, h⟩ := Res.bind_ok h
  obtain ⟨_, _, h⟩ := Res.bind_ok h
  cases h
  exact ⟨rfl, rfl, rfl, rfl, rfl⟩

theorem prepBarrier_same {s : State} {x y : Cmd} (h : prepBarrier s x = .ok y) : y = x := by
  obtain ⟨_, _, h⟩ := Res.bind_ok h
  obtain ⟨_, _, h⟩ := Res.bind_ok h
  cases h
  rfl

theorem prepSemWait_same {s : State} {x y : Cmd} (h : prepSemWait s x = .ok y) : y = x := by
  obtain ⟨_, _, h⟩ := Res.bind_ok h
  obtain ⟨_, _, h⟩ := Res.bind_ok h
  obtain ⟨_, _, h⟩ := Res.bind_ok h
  cases h
  rfl

theorem prepSemPost_same {s : State} {x y : Cmd} (h : prepSemPost s x = .ok y) : y = x := by
  obtain ⟨_, _, h⟩ := Res.bind_ok h
  obtain ⟨_, _, h⟩ := Res.bind_ok h
  obtain ⟨_, _, h⟩ := Res.bind_ok h
  cases h
  rfl

theorem prepWaitVersion_same {s : State} {x y : Cmd} (h : prepWaitVersion s x = .ok y) : y = x := by
  obtain ⟨_, _, h⟩ := Res.bind_ok h
  cases h
  rfl

theorem prepFence_same {s : State} {x y : Cmd} (h : prepFence s x = .ok y) : y = x := by
  obtain ⟨_, _, h⟩ := Res.bind_ok h
  cases h
  rfl

theorem prepStepBegin_same {s : State} {x y : Cmd} (h : prepStepBegin s x = .ok y) : y = x := by
  obtain ⟨_, _, h⟩ := Res.bind_ok h
  cases h
  rfl

theorem prepCue_same {s : State} {x y : Cmd} (h : prepCue s x = .ok y) : y = x := by
  obtain ⟨_, _, h⟩ := Res.bind_ok h
  cases h
  rfl

theorem prepVerdict_same {s : State} {x y : Cmd} (h : prepVerdict s x = .ok y) : y = x := by
  obtain ⟨_, _, h⟩ := Res.bind_ok h
  obtain ⟨_, _, h⟩ := Res.bind_ok h
  cases h
  rfl

theorem prepUpdate_same {s : State} {x y : Cmd} (h : prepUpdate s x = .ok y) : y = x := by
  obtain ⟨_, _, h⟩ := Res.bind_ok h
  obtain ⟨_, _, h⟩ := Res.bind_ok h
  split at h
  · cases h
  · cases h
    rfl

theorem prepCommit_same {s : State} {x y : Cmd} (h : prepCommit s x = .ok y) : y = x := by
  obtain ⟨_, _, h⟩ := Res.bind_ok h
  split at h
  · cases h
  · cases h
    rfl

theorem prepDataCommit_same {s : State} {x y : Cmd} (h : prepDataCommit s x = .ok y) : y = x := by
  obtain ⟨_, _, h⟩ := Res.bind_ok h
  split at h
  · cases h
  · cases h
    rfl

theorem prepCast_same {s : State} {x y : Cmd} (h : prepCast s x = .ok y) : SameCmd x y := by
  obtain ⟨_, _, h⟩ := Res.bind_ok h
  obtain ⟨_, _, h⟩ := Res.bind_ok h
  split at h
  · cases h
  · cases h
    exact ⟨rfl, rfl, rfl, rfl, rfl⟩

end Sys2Proof.Machine
end

