-- ==== Sys2Proof/Laws/Writes.lean ====
section
/-! SUPPORT. What a write to a context's memory can do: bytes of memory and blocks that become good, and in that context alone
the shadows, the pools and the stash pages that take the write. -/

namespace Sys2Proof.Machine

/-- `t` is `s` after writes to the memory of context `c`. -/
structure Wrote (c : Nat) (s t : State) : Prop where
  pending : t.pending = s.pending
  regs : t.regs = s.regs
  arrs : t.arrs = s.arrs
  sps : t.sps = s.sps
  cmds : t.cmds = s.cmds
  nextCmd : t.nextCmd = s.nextCmd
  msgs : t.msgs = s.msgs
  nextMsg : t.nextMsg = s.nextMsg
  colls : t.colls = s.colls
  nextColl : t.nextColl = s.nextColl
  cast : t.cast = s.cast
  admits : t.admits = s.admits
  builds : t.builds = s.builds
  ports : t.ports = s.ports
  txWait : t.txWait = s.txWait
  nt : t.nt = s.nt
  pwr : t.pwr = s.pwr
  dbg : t.dbg = s.dbg
  reel : t.reel = s.reel
  recd : t.recd = s.recd
  outs : t.outs = s.outs
  nonces : t.nonces = s.nonces
  tsu : t.tsu = s.tsu
  slice : t.slice = s.slice
  boot : t.boot = s.boot
  others : ∀ n, n % 16 ≠ c % 16 → t.cx n = s.cx n
  memWf : memWf s.mem = true → memWf t.mem = true

namespace Wrote

theorem refl (c : Nat) (s : State) : Wrote c s s := by
  constructor <;> intros <;> first | rfl | assumption

theorem trans {c : Nat} {s t u : State} (a : Wrote c s t) (b : Wrote c t u) : Wrote c s u where
  pending := b.pending.trans a.pending
  regs := b.regs.trans a.regs
  arrs := b.arrs.trans a.arrs
  sps := b.sps.trans a.sps
  cmds := b.cmds.trans a.cmds
  nextCmd := b.nextCmd.trans a.nextCmd
  msgs := b.msgs.trans a.msgs
  nextMsg := b.nextMsg.trans a.nextMsg
  colls := b.colls.trans a.colls
  nextColl := b.nextColl.trans a.nextColl
  cast := b.cast.trans a.cast
  admits := b.admits.trans a.admits
  builds := b.builds.trans a.builds
  ports := b.ports.trans a.ports
  txWait := b.txWait.trans a.txWait
  nt := b.nt.trans a.nt
  pwr := b.pwr.trans a.pwr
  dbg := b.dbg.trans a.dbg
  reel := b.reel.trans a.reel
  recd := b.recd.trans a.recd
  outs := b.outs.trans a.outs
  nonces := b.nonces.trans a.nonces
  tsu := b.tsu.trans a.tsu
  slice := b.slice.trans a.slice
  boot := b.boot.trans a.boot
  others := fun n hn => (b.others n hn).trans (a.others n hn)
  memWf := fun h => b.memWf (a.memWf h)

/-- A change of the context alone. -/
theorem updCx (c : Nat) (s : State) (g : Ctx → Ctx) : Wrote c s (s.updCx c g) := by
  constructor <;> intros <;> first | rfl | assumption | skip
  rw [State.updCx_cx, if_neg (by assumption)]

/-- A free choice has been taken. -/
theorem pick (c : Nat) (s : State) (n : Nat) : Wrote c s (s.pick n).2 := by
  unfold State.pick
  split
  · exact refl c s
  · constructor <;> intros <;> first | rfl | assumption

/-- A write to memory. -/
theorem pwrite (c : Nat) (s : State) (a : Nat) (bs : List Byte) : Wrote c s (s.pwrite a bs) := by
  have hm : Machine.memWf s.mem = true → Machine.memWf (s.pwrite a bs).mem = true := fun h => pwrite_memWf h a bs
  have hp : s.pwrite a bs = { s with mem := (s.pwrite a bs).mem, bad := (s.pwrite a bs).bad } := by
    unfold State.pwrite
    dsimp only
    split <;> rfl
  rw [hp] at hm ⊢
  constructor <;> intros <;> first | rfl | exact hm (by assumption)

/-- A copy of memory. -/
theorem pcopy (c : Nat) (s : State) (a n b : Nat) : Wrote c s (s.pcopy a n b) := by
  constructor <;> intros <;> first | rfl | exact pcopy_memWf (by assumption) a n b

/-- A loop of writes. -/
theorem foldl {α : Type} {c : Nat} (f : State × Res Unit → α → State × Res Unit) (h : ∀ r a, Wrote c r.1 (f r a).1) :
    ∀ (l : List α) (r : State × Res Unit), Wrote c r.1 (l.foldl f r).1
  | [], r => refl c r.1
  | a :: l, r => (h r a).trans (foldl f h l (f r a))

end Wrote

/-- Placing a stash page. -/
theorem wrote_takeNear {c : Nat} {s t : State} {f : Nat} (h : s.takeNear c = some (f, t)) : Wrote c s t := by
  unfold State.takeNear at h
  split at h
  · cases h
  · obtain ⟨g, _, hg⟩ := Option.map_eq_some_iff.1 h
    cases hg
    exact .pick c s _

/-- Allocating a shadow frame. -/
theorem wrote_takeShadowFrame {c : Nat} {s t : State} {near : Bool} {f : Nat} (h : s.takeShadowFrame c near = some (f, t)) :
    Wrote c s t := by
  unfold State.takeShadowFrame at h
  obtain ⟨g, _, hg⟩ := Option.map_eq_some_iff.1 h
  cases hg
  exact (Wrote.pick c s _).trans (.updCx c _ _)

/-- The filling of a shadow frame. -/
theorem wrote_fill (c : Nat) (s : State) (b : Prop) [Decidable b] (a n f : Nat) : Wrote c s (if b then s else s.pcopy a n f) := by
  split
  · exact .refl c s
  · exact .pcopy c s a n f

/-- A page under shadow already. -/
theorem wrote_shadowOld {c va step a : Nat} {s t : State} {p : Page} {b : Bool} {cv : List (Nat × Nat)} {x : Shadow}
    (hs : s.shadow? c va = some x) (h : s.shadowFor c va p step b cv = .ok (t, a)) : Wrote c s t := by
  rw [State.shadowFor, hs] at h
  change (if x.step = step then _ else _) = _ at h
  by_cases hx : x.step = step
  · rw [if_pos hx] at h
    rw [← (Prod.mk.inj (Res.ok.inj h)).1]
    exact .updCx c s _
  · rw [if_neg hx] at h
    cases h

/-- A pool without a free frame. -/
theorem wrote_shadowNone {c va step a : Nat} {s t : State} {p : Page} {b : Bool} {cv : List (Nat × Nat)}
    (hs : s.shadow? c va = none) (hf : s.takeShadowFrame c p.prt = none) (h : s.shadowFor c va p step b cv = .ok (t, a)) :
    Wrote c s t := by
  rw [State.shadowFor, hs] at h
  change (match s.takeShadowFrame c p.prt with | none => _ | some (f, s) => _) = _ at h
  rw [hf] at h
  change (if s.poolBusy c p.prt then _ else _) = _ at h
  exact absurd h (by split <;> simp)

/-- A new shadow. -/
theorem wrote_shadowNew {c va step a f : Nat} {s t s1 : State} {p : Page} {b : Bool} {cv : List (Nat × Nat)}
    (hs : s.shadow? c va = none) (hf : s.takeShadowFrame c p.prt = some (f, s1))
    (hb : (if coversPage cv va = true then none else s1.badIn p.frame pageBytes) = none)
    (h : s.shadowFor c va p step b cv = .ok (t, a)) : Wrote c s t := by
  rw [State.shadowFor, hs] at h
  change (match s.takeShadowFrame c p.prt with | none => _ | some (f, s) => _) = _ at h
  rw [hf] at h
  change (match (if coversPage cv va = true then none else s1.badIn p.frame pageBytes) with | some b => _ | none => _) = _ at h
  rw [hb] at h
  have e := (Prod.mk.inj (Res.ok.inj h)).1
  have w1 : Wrote c s (if coversPage cv va = true then s1 else s1.pcopy p.frame pageBytes f) :=
    (wrote_takeShadowFrame hf).trans (wrote_fill c s1 _ _ _ _)
  rw [← e]
  exact w1.trans (.updCx c _ _)

/-- A shadow that cannot be filled. -/
theorem wrote_shadowBad {c va step a f k : Nat} {s t s1 : State} {p : Page} {b : Bool} {cv : List (Nat × Nat)}
    (hs : s.shadow? c va = none) (hf : s.takeShadowFrame c p.prt = some (f, s1))
    (hb : (if coversPage cv va = true then none else s1.badIn p.frame pageBytes) = some k)
    (h : s.shadowFor c va p step b cv = .ok (t, a)) : Wrote c s t := by
  rw [State.shadowFor, hs] at h
  change (match s.takeShadowFrame c p.prt with | none => _ | some (f, s) => _) = _ at h
  rw [hf] at h
  change (match (if coversPage cv va = true then none else s1.badIn p.frame pageBytes) with | some b => _ | none => _) = _ at h
  rw [hb] at h
  exact absurd h (by simp)

/-- The frame of a page under shadow. -/
theorem wrote_shadowFor {c va step a : Nat} {s t : State} {p : Page} {b : Bool} {cv : List (Nat × Nat)}
    (h : s.shadowFor c va p step b cv = .ok (t, a)) : Wrote c s t := by
  rcases hs : s.shadow? c va with _ | x
  · rcases hf : s.takeShadowFrame c p.prt with _ | ⟨f, s1⟩
    · exact wrote_shadowNone hs hf h
    · rcases hb : (if coversPage cv va = true then none else s1.badIn p.frame pageBytes) with _ | k
      · exact wrote_shadowNew hs hf hb h
      · exact wrote_shadowBad hs hf hb h
  · exact wrote_shadowOld hs h

/-- The address that a write reaches. -/
theorem wrote_writeAt {c va a : Nat} {s t : State} {k : WKind} (h : s.writeAt c va k = .ok (t, a)) : Wrote c s t := by
  unfold State.writeAt at h
  split at h
  · split at h
    · cases h
    · split at h
      · cases h
        exact .refl c s
      · split at h
        · rename_i heq
          cases h
          exact (wrote_takeNear heq).trans (.updCx c _ _)
        · split at h <;> cases h
  · cases hw : s.walk c va with
    | fault e => rw [hw] at h; cases h
    | wait => rw [hw] at h; cases h
    | ok p =>
      rw [hw] at h
      dsimp only [Res.bind] at h
      split at h
      · cases h
      · split at h
        · split at h
          · cases h
          · split at h
            · cases h
            · cases hq : s.shadowFor c va p (by assumption) false (by assumption) with
              | ok r => rw [hq] at h; cases h; exact wrote_shadowFor hq
              | fault e => rw [hq] at h; cases h
              | wait => rw [hq] at h; cases h
            · cases hq : s.shadowFor c va p (by assumption) true (by assumption) with
              | ok r => rw [hq] at h; cases h; exact wrote_shadowFor hq
              | fault e => rw [hq] at h; cases h
              | wait => rw [hq] at h; cases h
        · cases h
          exact .refl c s

/-- A write of bytes, as far as it comes. -/
theorem wrote_vwriteFrom (s : State) (c va : Nat) (bs : List Byte) (k : WKind) : Wrote c s (s.vwriteFrom c va bs k).1 := by
  unfold State.vwriteFrom
  refine Wrote.foldl _ (fun r q => ?_) _ (s, .ok ())
  split
  · exact .refl c _
  · split
    · rename_i heq
      exact (wrote_writeAt heq).trans (.pwrite c _ _ _)
    · exact .refl c _
    · exact .refl c _

/-- A write of bytes. -/
theorem wrote_vwrite {s t : State} {c va : Nat} {bs : List Byte} {k : WKind} (h : s.vwrite c va bs k = .ok t) : Wrote c s t := by
  have h0 := wrote_vwriteFrom s c va bs k
  unfold State.vwrite at h
  generalize s.vwriteFrom c va bs k = r at h h0
  obtain ⟨r1, r2⟩ := r
  cases r2 with
  | ok _ => cases h; exact h0
  | fault e => cases h
  | wait => cases h

/-- A write of a number. -/
theorem wrote_vwriteNat {s t : State} {c va n v : Nat} {k : WKind} (h : s.vwriteNat c va n v k = .ok t) : Wrote c s t :=
  wrote_vwrite h

/-- A copy, as far as it comes. -/
theorem wrote_vcopyFrom (s : State) (c src dst n : Nat) (k : WKind) : Wrote c s (s.vcopyFrom c src dst n k).1 := by
  unfold State.vcopyFrom
  refine Wrote.foldl _ (fun r q => ?_) _ (s, .ok ())
  split
  · split
    · split
      · exact .refl c _
      · split
        · rename_i heq
          split
          · exact (wrote_writeAt heq).trans (.pwrite c _ _ _)
          · exact (wrote_writeAt heq).trans (.pcopy c _ _ _ _)
        · exact .refl c _
        · exact .refl c _
    · exact .refl c _
    · exact .refl c _
  · exact .refl c _

end Sys2Proof.Machine
end

