-- ==== Sys2Proof/Tests/Slice0.lean ====
section
/-! SUPPORT. Tests: terms that the well-formedness check refuses, for each statement a state and operands that meet its
hypotheses, and single steps whose results the manual gives. -/

namespace Sys2Proof.Tests

open Sys2Proof Sys2Proof.Machine

-- The theorems below are evaluated by the kernel, one after another.
set_option Elab.async false

-- Small states.

/-- The 64 bytes of a command, from its fields: first bit and value of each. -/
def word (l : List (Nat × Nat)) : Packet := BitVec.ofNat 512 ((l.map fun p => p.2 * 2 ^ p.1).sum)

/-- Context 0 RESIDENT, its pages 0 to 3 on the near tier's pages 1 to 4, and stream processor 0 with a ring at address 0 that
holds one command. -/
def ground : State :=
  let s := (State.reset.wr R.CX_STATUS_STATE 3).setFlag R.SP_RING_CTL_EN true
  let s := (s.wr R.SP_PTRS_TAIL 1).pwriteNat 0 8 0x1001
  (List.range 4).foldl (fun s i => s.pwriteNat (0x1000 + 8 * i) 8 (0x200003 + 0x200000 * i)) s

/-- The same with a context of class LEARN. -/
def learner : State := ground.setFlag R.CX_CTL_CLASS true

/-- A state with a command at HEAD. -/
def ready (l : List (Nat × Nat)) (s : State := ground) : State := s.pwriteNat 0x200000 64 (word l).toNat

/-- A state with a number in context 0's memory. -/
def poke (s : State) (va n v : Nat) : State := s.pwriteNat (0x200000 + va) n v

/-- A tensor descriptor: identifier, KIND, FMT, BASE, SBASE, rows, columns. -/
def descOf (tid kind fmt base sbase rows cols : Nat) : Nat :=
  tid + 2 ^ 24 * kind + 2 ^ 27 * fmt + 2 ^ 64 * base + 2 ^ 128 * sbase + 2 ^ 192 * rows + 2 ^ 224 * cols

/-- The command that stream processor 0 can start with these checks, if there is one: the entry at HEAD, and the command as
its dispatch makes it. -/
def starting (s : State) (op : Nat) (prep : State → Cmd → Res Cmd) : Option (Packet × Cmd) :=
  match s.fetch 0 with
  | .ok w =>
    if s.regsWf && s.canDispatch 0 && opc w == op && headerOk w && !(pktBit w 17 && !(s.earlier 0).isEmpty) &&
        (opc w == 0x51 || !((s.sp 0).step.any fun st => s.stepClosed (s.cxOf 0) st)) then
      match prep s (s.newCmd 0 w) with
      | .ok x => some (w, x)
      | _ => none
    else none
  | _ => none

theorem starting_starts {s : State} {op : Nat} {prep : State → Cmd → Res Cmd} {q : Packet × Cmd} (h : starting s op prep = some q) :
    opc q.1 = op ∧ Starts s 0 q.1 prep q.2 := by
  unfold starting at h
  split at h
  · next w hw =>
    split at h
    · next hc =>
      simp only [Bool.and_eq_true, beq_iff_eq, Bool.not_eq_true', Bool.or_eq_true] at hc
      obtain ⟨⟨⟨⟨⟨h1, h2⟩, h3⟩, h4⟩, h5⟩, h6⟩ := hc
      split at h
      · next y hy =>
        cases h
        exact ⟨h3, h1, ⟨h2, hw, h4, h5, fun hn => (h6.resolve_left hn)⟩, hy⟩
      · cases h
    · cases h
  · cases h

/-- A command starts, and a condition on it holds. -/
theorem starts_with {s : State} {op : Nat} {prep : State → Cmd → Res Cmd} (p : Packet → Cmd → Bool)
    (h : (starting s op prep).any (fun q => p q.1 q.2) = true) : ∃ w x, opc w = op ∧ Starts s 0 w prep x ∧ p w x = true := by
  cases hs : starting s op prep with
  | none => rw [hs] at h; cases h
  | some q =>
    rw [hs] at h
    exact ⟨q.1, q.2, (starting_starts hs).1, (starting_starts hs).2, h⟩

/-- A command starts. -/
theorem starts_of {s : State} {op : Nat} {prep : State → Cmd → Res Cmd} (h : (starting s op prep).isSome = true) :
    ∃ w x, opc w = op ∧ Starts s 0 w prep x := by
  obtain ⟨q, hq⟩ := Option.isSome_iff_exists.mp h
  exact ⟨q.1, q.2, starting_starts hq⟩

/-- An attempt comes to a result. -/
def isOk {α : Type} (r : Res α) : Bool := match r with
  | .ok _ => true
  | _ => false

/-- An attempt faults. -/
def isFault {α : Type} (r : Res α) : Bool := match r with
  | .fault _ => true
  | _ => false

/-- An attempt waits. -/
def isWait {α : Type} (r : Res α) : Bool := match r with
  | .wait => true
  | _ => false

theorem isOk_elim {α : Type} {r : Res α} (h : isOk r = true) : ∃ a, r = .ok a := by
  cases r with
  | ok a => exact ⟨a, rfl⟩
  | fault k => cases h
  | wait => cases h

theorem isFault_elim {α : Type} {r : Res α} (h : isFault r = true) : ∃ k, r = .fault k := by
  cases r with
  | ok a => cases h
  | fault k => exact ⟨k, rfl⟩
  | wait => cases h

theorem isWait_elim {α : Type} {r : Res α} (h : isWait r = true) : r = .wait := by
  cases r with
  | ok a => cases h
  | fault k => cases h
  | wait => rfl

/-- A result that is a number. -/
def okIs (r : Res Nat) (n : Nat) : Bool := match r with
  | .ok m => m == n
  | _ => false

-- Ill-formed terms, one for each check.

/-- A frame with every field zero. -/
def blank : Frame := { typ := 1 }

/-- A frame whose fields one by one lie beyond their widths. -/
def illFrames : List Frame :=
  [{ blank with typ := 16 }, { blank with vc := 4 }, { blank with lseq := 65536 }, { blank with ackSeq := 65536 },
   { blank with srcDev := 65536 }, { blank with dstDev := 65536 }, { blank with srcCx := 16 }, { blank with dstCx := 16 },
   { blank with job := 65536 }, { blank with crVc := 4 }, { blank with crUnits := 16384 }, { blank with addr := 2 ^ 48 },
   { blank with offset := 2 ^ 40 }, { blank with msgBytes := 2 ^ 40 }, { blank with msgId := 2 ^ 32 },
   { blank with accord := 65536 }, { blank with collSeq := 2 ^ 32 }, { blank with epoch := 2 ^ 32 }, { blank with phase := 8 },
   { blank with rpostSem := 256 }, { blank with payload := List.replicate 2049 0 }]

theorem test_ill_frames : (illFrames.all fun f => !f.wf) = true := by decide +kernel

theorem test_ill_frame_commands :
    ([Instr.putData, .getReq, .post, .putAck, .getData, .refuse, .collData, .collReady, .collAbort, .clapper, .cut, .loss,
      .link].all fun c => !(c 0 { blank with typ := 16 }).wf) = true ∧
    (Instr.frameDiscarded 0 .badCrc { blank with typ := 16 }).wf = false := by decide

/-- The seat of a switch with every field zero. -/
def seat0 : Seat := ⟨0, 0, 0, 0, 0, 0, 0, 0, 0⟩

theorem test_ill_seats :
    ([{ seat0 with rack := 1024 }, { seat0 with tray := 8 }, { seat0 with slot := 8 }, { seat0 with plane := 32 },
      { seat0 with port := 65536 }, { seat0 with credit0 := 8192 }, { seat0 with credit1 := 8192 },
      { seat0 with credit2 := 8192 }, { seat0 with credit3 := 8192 }].all fun r => !(Instr.rollReply 0 blank r).wf) = true ∧
    (Instr.rollReply 0 { blank with vc := 4 } seat0).wf = false ∧ (Instr.rollReply 0 blank seat0).wf = true := by decide +kernel

theorem test_ill_accesses :
    ([Instr.registerWrite 2 4 0, .registerWrite 4 8 0, .registerWrite 0 2 0, .registerWrite 0x4000000 4 0,
      .registerWrite 0 4 0x100000000, .readClear 2 4, .readClear 4 8, .readClear 0 1, .readClear 0x3FFFFFC 8,
      .scrub 1 .clean, .bar4Read 0 0, .bar4Read 0 4097, .bar4Read 0xFFFFFFFFF 2, .bar4Write 0 [], .bar4Write 0 (List.replicate 513 0),
      .bar4Write 0xFFFFFFFFF [0, 0], .scanChainRead 0x100000, .scanChainRead 4].all fun c => !c.wf) = true := by decide +kernel

theorem test_ill_lists :
    ([Instr.selfTest (some 151), .memory [204] [], .memory [3, 3] [], .memory [] (List.replicate 33 none)].all
      fun c => !c.wf) = true := by decide +kernel

-- The block as a whole.

theorem witness_StepRunsFrontCommand :
    step { State.reset with pending := [.nop 0] } = exec (.nop 0) { State.reset with pending := [] } := rfl

/-- A run of the clapper has set a goal ahead of OFFSET, and a microsecond ends. -/
def slewing (goal : Int) : State := { State.reset with tsu := { local_ := 999, goal := goal, ran := true } }

theorem witness_IdleStepsCountTime :
    ((slewing 5).regsWf = true ∧ signedOf 64 ((slewing 5).rd R.TSU_OFFSET) < (slewing 5).tsu.goal ∧
      ((slewing 5).tsu.local_ + 1) % 1000 = 0) ∧
    ((slewing (-5)).tsu.goal < signedOf 64 ((slewing (-5)).rd R.TSU_OFFSET) ∧ -2 ^ 63 ≤ (slewing (-5)).tsu.goal) ∧
    (State.reset.regsWf = true ∧ State.reset.tsu.ran = false) := by decide +kernel

theorem witness_ResetIsTheReleasedBlock : R.SP_PTRS_HEAD.addr ≠ R.NT_PART_SETS.addr := by decide

theorem witness_StoresReadAsWritten :
    (State.reset.canon = true ∧ State.reset.bad = []) ∧
    (R.CX_ACCORD_BASE ∈ fieldsOf R.CX_ACCORD_BASE.blk ∧ R.CX_ACCORD_ENTRIES ∈ fieldsOf R.CX_ACCORD_ENTRIES.blk ∧
      R.CX_ACCORD_BASE.has 15 0 ∧ R.CX_ACCORD_ENTRIES.has 15 0 ∧
      R.CX_ACCORD_ENTRIES.lo + R.CX_ACCORD_ENTRIES.wid ≤ R.CX_ACCORD_BASE.lo) ∧
    R.CX_ACCORD_BASE.blk ≠ R.SP_PTRS_HEAD.blk := by
  unfold Fld.has
  decide +kernel

/-- A row on its way to a bin of two columns. -/
def row2 (a b : Int) : Flight := ⟨1, 0, 1, 0, 0, 32, [a, b], 1, 0, 0⟩

/-- A bin of two columns. -/
def bin2 : RingRow := ⟨0, 1, 0, 0, false, 64, 0, [0, 0], [0, 0], 0, false⟩

theorem witness_SumsDoNotDependOnOrder :
    [row2 1 2, row2 3 4].Perm [row2 3 4, row2 1 2] ∧ ∀ f ∈ [row2 1 2, row2 3 4], f.adds.length = bin2.vals.length :=
  ⟨.swap _ _ _, by decide⟩

theorem witness_PartialsRoundOntoTheGrid :
    (addPartial false true 0 (-5) 100).2.2 = 1 ∧ (addPartial false false 0 3 (-96)).1 = 2 ∧ (addPartial true false 0 1 (-36)).2.1 = 1 ∧
    (addPartial true false 0 0 0).2 = (0, 0) := by decide +kernel

/-- What follows a step, where it has a next state. -/
def after (o : Host.Outcome State Fault Refusal) : State := match o with
  | .next t => t
  | _ => State.reset

theorem witness_EveryStepKeepsTheForm :
    ground.canon = true ∧ (ready [] ground).canon = true ∧ (after (exec (.nop 0) (ready []))).rd R.SP_PTRS_HEAD = 1 := by
  decide +kernel

/-- A frame with a payload of three bytes. -/
def put3 : Frame := { typ := 1, dstDev := 5, srcDev := 7, job := 9, addr := 0x1000, msgBytes := 3, msgId := 1, payload := [1, 2, 3] }

theorem witness_FramesSpellThemselves :
    put3.typ < 16 ∧ fitFrame put3 = put3 ∧ frameOfWire (wireBytes put3) = some put3 ∧ (wireBytes put3).length = 128 := by
  decide +kernel

/-- A step that is closed. -/
def closedStep : State :=
  ((learner.updCx 0 fun c => { c with first := some 4, oldest := 5 }).updSp 0 fun p => { p with step := some 4 }).wr R.SP_PTRS_TAIL 1

/-- A command of stream processor 0 that stands in the queues. -/
def busy (op : Nat) : Cmd := { id := 90, sp := 0, cx := 0, index := 0, w := word [(0, op)] }

/-- A MOVE of 64 bytes. -/
def aMove : List (Nat × Nat) := [(0, 0x20), (64, 63), (128, 0x400000), (176, 0x500000), (224, 64)]

/-- A NOP without a reserved bit; one with the first bit after the header. -/
def badNop : State := ready [(64, 1)]

theorem witness_CommandsThatFailTheirChecksFault :
    State.reset.canDispatch 0 = false ∧
    ((ground.pwriteNat 0x1000 8 0).canDispatch 0 = true ∧ ∃ k, (ground.pwriteNat 0x1000 8 0).fetch 0 = .fault k) ∧
    (opc (word [(0, 0x06)]) ∉ listedOpcs ∧ (ready [(0, 0x06)]).canDispatch 0 = true) ∧
    (opc (word [(0, 0x01)]) ∈ listedOpcs ∧ (ready [(0, 0x01)]).canDispatch 0 = true) ∧
    (pkt (word [(19, 1)]) 19 13 ≠ 0 ∧ pkt (word [(63, 1)]) 48 16 ≠ 0 ∧ (ready [(63, 1)]).canDispatch 0 = true) ∧
    (headerOk (word [(17, 1)]) = true ∧ pktBit (word [(17, 1)]) 17 = true ∧
      ({ ready [(17, 1)] with cmds := [busy 0x20] }).earlier 0 ≠ []) ∧
    ((closedStep.sp 0).step = some 4 ∧ closedStep.stepClosed (closedStep.cxOf 0) 4 = true ∧ closedStep.canDispatch 0 = true) ∧
    (badNop.canDispatch 0 = true ∧ headerOk (word [(64, 1)]) = true ∧ ∃ k, prepPlain badNop (badNop.newCmd 0 (word [(64, 1)])) = .fault k) ∧
    (∃ s : State, s = { ready aMove with cmds := List.replicate 512 { busy 0x20 with w := word aMove } } ∧ s.canDispatch 0 = true ∧
      prepMove s (s.newCmd 0 (word aMove)) = .wait) :=
  ⟨by decide +kernel, ⟨by decide +kernel, isFault_elim (by decide +kernel)⟩, by decide +kernel, by decide +kernel,
   by decide +kernel, by decide +kernel, by decide +kernel, ⟨by decide +kernel, by decide +kernel, isFault_elim (by decide +kernel)⟩,
   ⟨_, rfl, by decide +kernel, isWait_elim (by decide +kernel)⟩⟩

theorem witness_FaultsTearContextsDown :
    ground.regsWf = true ∧ ground.cxLive 0 = true ∧ (pageFault 0x400000).code < 256 ∧ (pageFault 0x400000).addr < 2 ^ 48 ∧
    (∀ p, some (31, 0) = some p → p.1 < 32) ∧ ({ code := 5, reason := 3 } : Cause).code = 5 := by
  refine ⟨by decide +kernel, by decide +kernel, by decide, by decide, fun p h => ?_, rfl⟩
  cases h; decide

-- The commands of a stream processor.

/-- Context 0 with tensors of 32 rows and 32 columns in BF16: W at 0x200000, A at 0x200020, A of identifier 2 at 0x200040, G at
0x200060, S at 0x200080, an exchange tensor ES64 at 0x2000A0, an E2M1 list of zeros elsewhere. -/
def tensors (s : State := ground) : State :=
  let s := poke s 0x200000 32 (descOf 1 0 6 0x201000 0 32 32)
  let s := poke s 0x200020 32 (descOf 1 1 6 0x211000 0 32 32)
  let s := poke s 0x200040 32 (descOf 2 1 6 0x221000 0 32 32)
  let s := poke s 0x200060 32 (descOf 3 3 6 0x231000 0 32 32)
  let s := poke s 0x200080 32 (descOf 4 2 6 0x241000 0 32 32)
  poke s 0x2000A0 32 (descOf 5 3 10 0x251000 0 1 32)

/-- The tile of the tensor at an address: its descriptor and an extent of 32 by 32. -/
def tile32 (kind a : Nat) : Tile :=
  { cx := 0, addr := a, desc := ((parseDesc (descOf 1 kind 6 (0x201000 + 0x10000 * kind) 0 32 32)).getD {}), extRow := 32, extCol := 32 }

/-- A handle 0 bound to slot 0 of array 0, which holds the tile. -/
def bound (t : Tile) (s : State := tensors) : State :=
  (s.updCx 0 fun c => { c with binds := [⟨0, 77, [0], 0, t⟩] }).updArr 0 fun a => a.setSlot 0 { state := .ready, tile := t }

/-- An accord of two devices with its state area, in page 3 of context 0, on a device that is seated. -/
def joined (s : State := ground) : State :=
  let s := (((s.setFlag R.MGT_SEAT_SEATED true).wr R.CX_ACCORD_ENTRIES 1).wr R.CX_ACCORD_BASE 3)
  let s := poke s 0x600000 64 (2 + 2 ^ 96 * 0x600080 + 2 ^ 160 * 0x600100)
  poke (poke s 0x600080 4 0) 0x600084 4 1

/-- A WLOAD of the tile of the W tensor, of handle 0, for a mask of arrays. -/
def aWload (arrays reuse : Nat) : List (Nat × Nat) :=
  [(0, 1), (72, arrays), (80, reuse), (96, 0x200000), (208, 32), (219, 32)]

/-- A STREAM of one row of the A tensor. -/
def aStream : List (Nat × Nat) := [(0, 2), (80, 0x200020), (128, 1), (192, 1), (288, 32)]

/-- A WGRAD of one row of the S tensor. -/
def aWgrad : List (Nat × Nat) := [(0, 3), (80, 0x200080), (128, 1), (192, 1), (288, 32)]

/-- A DRAIN of one row into the second A tensor, with images at 0x230000. -/
def aDrain (mode : Nat) : List (Nat × Nat) :=
  [(0, 4), (70, mode), (80, 2), (160, 1), (192, 0x200040), (240, 0x230000)]

/-- The states in which each command of a stream processor starts. -/
def startList : List (State × Nat × (State → Cmd → Res Cmd)) :=
  [(ready [], 0x00, prepPlain), (ready [(0, 0x54)], 0x54, prepPlain),
   (ready ([(0, 5)] ++ ([64, 80, 96, 100, 104, 108, 112, 116, 136, 140].map fun b => (b, 1))), 0x05, prepConvgen),
   (ready [(0, 0x41), (64, 3), (96, 0xFFFFFFFF)], 0x41, prepSemPost), (ready (aWload 1 0) tensors, 0x01, prepWload),
   (ready aStream (bound (tile32 0 0x200000)), 0x02, prepRows streamFieldsOk),
   (ready aWgrad (bound (tile32 3 0x200060)), 0x03, prepRows wgradFieldsOk),
   (ready (aDrain 0) (bound (tile32 0 0x200000)), 0x04, prepDrain), (ready (aDrain 1) (bound (tile32 0 0x200000)), 0x04, prepDrain),
   (ready (aDrain 2) (bound (tile32 0 0x200000)), 0x04, prepDrain), (ready (aDrain 3) tensors, 0x04, prepDrain),
   (ready [(0, 0x10), (80, 0x200020), (176, 0x200040), (224, 0x230000), (304, 1)] tensors, 0x10, prepFinish),
   (ready [(0, 0x11), (80, 0x200020), (160, 1)] tensors, 0x11, prepHcount), (ready aMove, 0x20, prepMove),
   (ready [(0, 0x21), (64, 63), (128, 0x400000), (176, 0x500000), (224, 64), (264, 1), (296, 0x200000), (344, 64)], 0x21, prepList),
   (ready [(0, 0x22), (64, 63), (128, 0x400000), (176, 0x500000), (224, 64), (264, 1), (296, 0x200000), (344, 64)], 0x22, prepList),
   (ready [(0, 0x23), (64, 63), (96, 1), (128, 0x400000), (176, 0x500000), (224, 64)] joined, 0x23, prepPut),
   (ready [(0, 0x24), (64, 63), (96, 1), (128, 0x400000), (176, 0x500000), (224, 64)] joined, 0x24, prepGet),
   (ready [(0, 0x30), (82, 2), (128, 0x400000), (176, 0x500000), (224, 32)] joined, 0x30, prepColl),
   (ready [(0, 0x31), (82, 3), (128, 0x400000), (176, 0x500000), (224, 32)] joined, 0x31, prepColl),
   (ready [(0, 0x32), (82, 2), (128, 0x400000), (176, 0x500000), (224, 32)] joined, 0x32, prepColl),
   (ready [(0, 0x33), (82, 3), (128, 0x400000), (176, 0x500000), (224, 32)] joined, 0x33, prepColl),
   (ready [(0, 0x34)] joined, 0x34, prepBarrier), (ready [(0, 0x40), (64, 3), (96, 1)], 0x40, prepSemWait),
   (ready [(0, 0x42), (96, 1)], 0x42, prepWaitVersion), (ready [(0, 0x43), (64, 1)], 0x43, prepFence),
   (ready [(0, 0x50), (64, 3), (80, 2000)], 0x50, prepCue), (ready [(0, 0x51), (64, 4)], 0x51, prepStepBegin)]

theorem test_starts : (startList.all fun q => (starting q.1 q.2.1 q.2.2).isSome) = true := by decide +kernel

/-- A LEARN context in step 4, its first. -/
def stepping : State :=
  (learner.updCx 0 fun c => { c with first := some 4, oldest := 4 }).updSp 0 fun p => { p with step := some 4 }

/-- A CALLSHEET: operation, address and count. -/
def aSheet (op a n : Nat) : List (Nat × Nat) := [(0, 0x60), (64, op), (80, a), (128, n)]

/-- An UPDATE of step 4, without an accord. -/
def anUpdate : List (Nat × Nat) := [(0, 0x55), (64, 0x400000), (112, 0x400400), (224, 4), (288, 0xFFFF)]

/-- The states in which the commands of training and of casts start. -/
def startList2 : List (State × Nat × (State → Cmd → Res Cmd)) :=
  [(ready [(0, 0x52), (64, 4)] (joined stepping), 0x52, prepVerdict),
   (ready [(0, 0x53), (64, 0x400000), (112, 3), (144, 1)] stepping, 0x53, prepCommit),
   (ready [(0, 0x53), (112, 4)] stepping, 0x53, prepDataCommit), (ready anUpdate stepping, 0x55, prepUpdate),
   (ready [(0, 0x55), (64, 0x400000), (112, 0x400400), (224, 4)] (joined stepping), 0x55, prepUpdate)] ++
  ((List.range 7).map fun k => (ready (aSheet k 0x400000 1), 0x60, prepCast))

theorem test_starts_training : (startList2.all fun q => (starting q.1 q.2.1 q.2.2).isSome) = true := by decide +kernel

theorem witness_DispatchCountsHeadAndNothingElse : ∃ w x, opc w = 0 ∧ Starts (ready []) 0 w prepPlain x :=
  starts_of (by decide +kernel)

/-- No spill of rushes is on. -/
def quiet (s : State) : Bool := s.rd R.DBG_RUSH_CTL_SPILL == 0 && s.dbg.spillOk.isNone

/-- A SEM_POST of all that a semaphore can hold. -/
def posting : State := ready [(0, 0x41), (64, 3), (96, 0xFFFFFFFF)]

/-- A CONVGEN with every field 1 but the borders. -/
def convolving : State := ready ([(0, 5)] ++ ([64, 80, 96, 100, 104, 108, 112, 116, 136, 140].map fun b => (b, 1)))

theorem witness_CommandsThatCompleteAtDispatch :
    (∃ w x, opc w = 0x00 ∧ Starts (ready []) 0 w prepPlain x) ∧ (∃ w x, opc w = 0x54 ∧ Starts (ready [(0, 0x54)]) 0 w prepPlain x) ∧
    (∃ w x, opc w = 0x05 ∧ Starts convolving 0 w prepConvgen x) ∧
    (∃ w x, opc w = 0x41 ∧ Starts posting 0 w prepSemPost x ∧ (quiet posting && pkt w 96 32 == 0xFFFFFFFF) = true) :=
  ⟨starts_of (by decide +kernel), starts_of (by decide +kernel), starts_of (by decide +kernel),
   starts_with (fun w _ => quiet posting && pkt w 96 32 == 0xFFFFFFFF) (by decide +kernel)⟩

/-- A WLOAD that REUSE satisfies on array 0. -/
def reusing : State :=
  let t := (starting (ready (aWload 1 1) tensors) 1 prepWload).map fun q => tileOf q.2 q.2.desc
  (ready (aWload 1 1) (bound (t.getD {}))).setFlag R.MA_WLOAD_CFG_REUSE_EN true

/-- The states of test_starts by their place in the list. -/
def started (k : Nat) : State := ((startList ++ startList2).map fun q => q.1).getD k ground

theorem witness_ArrayCommandsQueue :
    (∃ w x, opc w = 0x01 ∧ Starts (ready (aWload 0 0) tensors) 0 w prepWload x ∧ (x.phase == .placing) = true) ∧
    (∃ w x, opc w = 0x01 ∧ Starts reusing 0 w prepWload x ∧ decide (x.phase = .queued ∧ reusing.reuseSlot x x.arrays = none) = true) ∧
    (∃ w x, opc w = 0x02 ∧ Starts (started 5) 0 w (prepRows streamFieldsOk) x) ∧
    (∃ w x, opc w = 0x03 ∧ Starts (started 6) 0 w (prepRows wgradFieldsOk) x) ∧
    (∃ w x, opc w = 0x04 ∧ Starts (started 7) 0 w prepDrain x ∧ (drainMode w == 0) = true) ∧
    (∃ w x, opc w = 0x04 ∧ Starts (started 8) 0 w prepDrain x ∧ (drainMode w == 1) = true) ∧
    (∃ w x, opc w = 0x04 ∧ Starts (started 9) 0 w prepDrain x ∧ (drainMode w == 2) = true) ∧
    (∃ w x, opc w = 0x04 ∧ Starts (started 10) 0 w prepDrain x ∧ (drainMode w == 3 && x.stash.isEmpty) = true) :=
  ⟨starts_with (fun _ x => x.phase == .placing) (by decide +kernel),
   starts_with (fun _ x => decide (x.phase = .queued ∧ reusing.reuseSlot x x.arrays = none)) (by decide +kernel),
   starts_of (by decide +kernel), starts_of (by decide +kernel), starts_with (fun w _ => drainMode w == 0) (by decide +kernel),
   starts_with (fun w _ => drainMode w == 1) (by decide +kernel), starts_with (fun w _ => drainMode w == 2) (by decide +kernel),
   starts_with (fun w x => drainMode w == 3 && x.stash.isEmpty) (by decide +kernel)⟩

/-- What a command that starts finds once it is in the queue: its context lives and the stash lets it run; the state then. -/
def runs (s : State) (x : Cmd) : Option State :=
  let b := enqueue (s.dispatched x) x
  let r := b.stashReady x.cx x.stash
  if b.cxLive x.cx && r.2 then some r.1 else none

/-- A FINISH runs. -/
def finishes (s : State) (x : Cmd) : Bool :=
  (runs s x).any fun a => isOk ((a.finTaken x).bind fun f => (finAll a x f).bind fun r => .ok (f, r))

/-- An HCOUNT runs. -/
def hcounts (s : State) (w : Packet) (x : Cmd) : Bool :=
  (runs s x).any fun a => isOk (Res.fold (fun (k : Counts) j => (hcountRow a x.cx x.desc (pkt w 128 32 + j)).bind fun c =>
    .ok (k.add c)) {} (List.range (min (pkt w 160 32) (x.desc.rows - pkt w 128 32))))

/-- A copying command runs. -/
def copies (s : State) (w : Packet) (x : Cmd) : Bool :=
  (runs s x).any fun a => match (if opc w = 0x20 then .ok [(mvSrc w, mvDst w, mvBytes w)] else a.listCopies x) with
    | .ok cs => (opc w == 0x20 || !listOverlap w cs) && isOk (a.copyAll x cs).2
    | _ => false

theorem witness_FinishingAndCopyCommandsRun :
    (∃ w x, opc w = 0x10 ∧ Starts (started 11) 0 w prepFinish x ∧ finishes (started 11) x = true) ∧
    (∃ w x, opc w = 0x11 ∧ Starts (started 12) 0 w prepHcount x ∧ hcounts (started 12) w x = true) ∧
    (∃ w x, opc w = 0x20 ∧ Starts (started 13) 0 w prepMove x ∧ copies (started 13) w x = true) ∧
    (∃ w x, opc w = 0x21 ∧ Starts (started 14) 0 w prepList x ∧ copies (started 14) w x = true) ∧
    (∃ w x, opc w = 0x22 ∧ Starts (started 15) 0 w prepList x ∧ copies (started 15) w x = true) :=
  ⟨starts_with (fun _ x => finishes (started 11) x) (by decide +kernel),
   starts_with (hcounts (started 12)) (by decide +kernel), starts_with (copies (started 13)) (by decide +kernel),
   starts_with (copies (started 14)) (by decide +kernel), starts_with (copies (started 15)) (by decide +kernel)⟩

theorem witness_PutAndGetStartMessages :
    (∃ w x, opc w = 0x23 ∧ Starts (started 16) 0 w prepPut x ∧
      (runs (started 16) x).any (fun a => isOk (a.vread x.cx (mvSrc w) (mvBytes w))) = true) ∧
    (∃ w x, opc w = 0x24 ∧ Starts (started 17) 0 w prepGet x ∧ (runs (started 17) x).isSome = true) :=
  ⟨starts_with (fun w x => (runs (started 16) x).any fun a => isOk (a.vread x.cx (mvSrc w) (mvBytes w))) (by decide +kernel),
   starts_with (fun _ x => (runs (started 17) x).isSome) (by decide +kernel)⟩

/-- A collective command enters its rendezvous. -/
def enters (s : State) (w : Packet) (x : Cmd) : Bool :=
  let e := enqueue (s.dispatched x) x
  match e.commandAccord x.cx (pkt w 64 16) with
  | .ok acc =>
    let b := e.openColl { id := 0, cmd := some x.id, cx := x.cx, acc := acc, seq := 0, op := ceOp w }
    match b.colls.find? fun k => k.cmd == some x.id with
    | some k => b.cxLive x.cx && (b.stashReady x.cx x.stash).2 && isOk ((b.stashReady x.cx x.stash).1.startColl x k)
    | none => false
  | _ => false

/-- A command that is running at once finds its accord. -/
def finds (s : State) (n : Nat) (p : CmdPhase) (x : Cmd) : Bool :=
  isOk ((enqueue (s.dispatched x) { x with phase := p }).commandAccord x.cx n)

theorem witness_CollectivesEnterTheirRendezvous :
    (∃ w x, opc w = 0x30 ∧ Starts (started 18) 0 w prepColl x ∧ enters (started 18) w x = true) ∧
    (∃ w x, opc w = 0x31 ∧ Starts (started 19) 0 w prepColl x ∧ enters (started 19) w x = true) ∧
    (∃ w x, opc w = 0x32 ∧ Starts (started 20) 0 w prepColl x ∧ enters (started 20) w x = true) ∧
    (∃ s w x, opc w = 0x33 ∧ Starts s 0 w prepColl x ∧ enters s w x = true) ∧
    (∃ w x, opc w = 0x34 ∧ Starts (started 22) 0 w prepBarrier x ∧ finds (started 22) 0 .running x = true) :=
  ⟨starts_with (enters (started 18)) (by decide +kernel), starts_with (enters (started 19)) (by decide +kernel),
   starts_with (enters (started 20)) (by decide +kernel),
   ⟨poke (poke (ready [(0, 0x33), (82, 3), (128, 0x400000), (176, 0x500000), (224, 32), (264, 0x600200)] joined) 0x600200 4 0x10002)
      0x600210 32 (16 + 2 ^ 64 * 16), starts_with (enters _) (by decide +kernel)⟩,
   starts_with (fun _ x => finds (started 22) 0 .running x) (by decide +kernel)⟩

theorem witness_WaitsHoldTheirProcessor :
    (∃ w x, opc w = 0x40 ∧ Starts (started 23) 0 w prepSemWait x) ∧ (∃ w x, opc w = 0x42 ∧ Starts (started 24) 0 w prepWaitVersion x) ∧
    (∃ w x, opc w = 0x43 ∧ Starts (started 25) 0 w prepFence x) :=
  ⟨starts_of (by decide +kernel), starts_of (by decide +kernel), starts_of (by decide +kernel)⟩

/-- A STEP_BEGIN of step 4 in a LEARN context that has had no step, of step 5 beside a first step 4, and of step 6. -/
def beginning (n : Nat) : State := if n = 4 then ready [(0, 0x51), (64, 4)] learner else ready [(0, 0x51), (64, n)] stepping

theorem witness_StepBeginSetsTheStep :
    (∃ w x, opc w = 0x51 ∧ Starts (started 27) 0 w prepStepBegin x ∧ (!((started 27).dispatched x).isLearn 0) = true) ∧
    (∃ w x, opc w = 0x51 ∧ Starts (beginning 4) 0 w prepStepBegin x ∧
      (((beginning 4).dispatched x).isLearn 0 && (((beginning 4).dispatched x).cx 0).first.isNone) = true) ∧
    (∃ w x, opc w = 0x51 ∧ Starts (beginning 5) 0 w prepStepBegin x ∧
      (((beginning 5).dispatched x).isLearn 0 && (((beginning 5).dispatched x).cx 0).first.isSome &&
        pkt w 64 32 == (((beginning 5).dispatched x).cx 0).oldest + 1) = true) ∧
    (∃ w x, opc w = 0x51 ∧ Starts (beginning 6) 0 w prepStepBegin x ∧
      (((beginning 6).dispatched x).isLearn 0 && (((beginning 6).dispatched x).cx 0).first.isSome &&
        pkt w 64 32 == (((beginning 6).dispatched x).cx 0).oldest + 2) = true) :=
  ⟨starts_with (fun _ x => !((started 27).dispatched x).isLearn 0) (by decide +kernel),
   starts_with (fun _ x => ((beginning 4).dispatched x).isLearn 0 && (((beginning 4).dispatched x).cx 0).first.isNone) (by decide +kernel),
   starts_with (fun w x => ((beginning 5).dispatched x).isLearn 0 && (((beginning 5).dispatched x).cx 0).first.isSome &&
     pkt w 64 32 == (((beginning 5).dispatched x).cx 0).oldest + 1) (by decide +kernel),
   starts_with (fun w x => ((beginning 6).dispatched x).isLearn 0 && (((beginning 6).dispatched x).cx 0).first.isSome &&
     pkt w 64 32 == (((beginning 6).dispatched x).cx 0).oldest + 2) (by decide +kernel)⟩

/-- A CUE of arrays 0 and 1 with a lead in nanoseconds, with cues on or off. -/
def cueing (lead : Nat) (on : Bool) : State := (ready [(0, 0x50), (64, 3), (80, lead)]).setFlag R.PWR_CFG_CUE_EN on

theorem witness_CueRampsArrays :
    (∃ w x, opc w = 0x50 ∧ Starts (cueing 2000 false) 0 w prepCue x ∧ (!((cueing 2000 false).dispatched x).flag R.PWR_CFG_CUE_EN) = true) ∧
    (∃ w x, opc w = 0x50 ∧ Starts (cueing 1999 true) 0 w prepCue x ∧ (((cueing 1999 true).dispatched x).flag R.PWR_CFG_CUE_EN) = true) ∧
    (∃ w x, opc w = 0x50 ∧ Starts (cueing 2000 true) 0 w prepCue x ∧
      (((cueing 2000 true).dispatched x).flag R.PWR_CFG_CUE_EN && pkt w 80 32 == 2000) = true) :=
  ⟨starts_with (fun _ x => !((cueing 2000 false).dispatched x).flag R.PWR_CFG_CUE_EN) (by decide +kernel),
   starts_with (fun _ x => ((cueing 1999 true).dispatched x).flag R.PWR_CFG_CUE_EN) (by decide +kernel),
   starts_with (fun w x => ((cueing 2000 true).dispatched x).flag R.PWR_CFG_CUE_EN && pkt w 80 32 == 2000) (by decide +kernel)⟩

theorem witness_TrainingCommandsQueue :
    (∃ w x, opc w = 0x53 ∧ Starts (started 29) 0 w prepCommit x ∧ (cmLayer w != 0) = true) ∧
    (∃ w x, opc w = 0x55 ∧ Starts (started 31) 0 w prepUpdate x ∧ (udAccord w == 0xFFFF) = true) ∧
    (∃ w x, opc w = 0x55 ∧ Starts (started 32) 0 w prepUpdate x ∧ (udAccord w == 0 && finds (started 32) 0 x.phase x) = true) ∧
    (∃ w x, opc w = 0x52 ∧ Starts (started 28) 0 w prepVerdict x ∧ finds (started 28) 0 .running x = true) :=
  ⟨starts_with (fun w _ => cmLayer w != 0) (by decide +kernel), starts_with (fun w _ => udAccord w == 0xFFFF) (by decide +kernel),
   starts_with (fun w x => udAccord w == 0 && finds (started 32) 0 x.phase x) (by decide +kernel),
   starts_with (fun _ x => finds (started 28) 0 .running x) (by decide +kernel)⟩

theorem witness_DataCommitActsAtDispatch :
    ∃ w x, opc w = 0x53 ∧ Starts (started 30) 0 w prepDataCommit x ∧
      (let u := enqueue ((started 30).dispatched x) x
       cmLayer w == 0 && (u.cx x.cx).shadows.isEmpty && isOk (u.commitShadows x.cx (cmStep w) [])) = true :=
  starts_with (fun w x =>
    let u := enqueue ((started 30).dispatched x) x
    cmLayer w == 0 && (u.cx x.cx).shadows.isEmpty && isOk (u.commitShadows x.cx (cmStep w) [])) (by decide +kernel)

/-- A CALLSHEET comes to its turn and ends without a fault. -/
def sheets (s : State) (op : Nat) (w : Packet) (x : Cmd) : Bool :=
  csOp w == op && csStatus w == 0 &&
    !((enqueue (s.dispatched x) x).cmds.any fun y => opc y.w == 0x60 && y.phase == .queued && decide (y.id < x.id)) &&
    (runs s x).any fun a => isOk (castRun a x).res

/-- The states of the seven CALLSHEETs: a record to admit, of one token of at most two, at 0x400000, and a pool of one page. -/
def sheet (k : Nat) : State :=
  ready (aSheet k 0x400000 1) (poke (ground.wr R.CAST_POOLCFG_PAGES 1) 0x400000 64 (7 + 2 ^ 160 + 2 ^ 193))

theorem witness_CallsheetsRun : ∀ k ∈ List.range 7, ∃ w x, opc w = 0x60 ∧ Starts (sheet k) 0 w prepCast x ∧ sheets (sheet k) k w x = true := by
  have h : ∀ k ∈ List.range 7, (starting (sheet k) 0x60 prepCast).any (fun q => sheets (sheet k) k q.1 q.2) = true := by decide +kernel
  exact fun k hk => starts_with (sheets (sheet k) k) (h k hk)

theorem test_admit_admits : ((starting (sheet 0) 0x60 prepCast).map fun q => (castRun (sheet 0) q.2).done) = some 1 := by decide +kernel

-- Commands in progress.

/-- The command that a state starts. -/
def made (s : State) (op : Nat) (prep : State → Cmd → Res Cmd) : Cmd :=
  match starting s op prep with
  | some q => { q.2 with id := 90 }
  | none => busy op

/-- A state with one command in progress. -/
def holding (x : Cmd) (s : State := ground) : State := { s with cmds := [x] }

/-- A finished NOP with a header post to semaphore 255. -/
def posted : Cmd := { busy 0 with phase := .finished, w := word [(8, 1), (9, 255)] }

/-- A finished STEP_VERDICT of step 4. -/
def verdictDone : Cmd := { busy 0x52 with phase := .finished, w := word [(0, 0x52), (64, 4)] }

theorem witness_CommandsCompleteOnce :
    ((holding posted).cmd? 90 = some posted ∧ (holding posted).live = true ∧ (holding posted).cxLive 0 = true ∧
      posted.phase = CmdPhase.finished ∧ opc posted.w ≠ 0x52 ∧ isOk ((holding posted).writeAfter 0 posted.after) = true) ∧
    ((holding verdictDone stepping).cmd? 90 = some verdictDone ∧ opc verdictDone.w = 0x52 ∧
      ((holding verdictDone stepping).applyVerdict verdictDone).cxLive 0 = true ∧
      isOk ((holding verdictDone stepping).writeAfter 0 verdictDone.after) = true) ∧
    ((holding posted).regsWf = true ∧ posted.counts = [] ∧ posted.stash = [] ∧ pktBit posted.w 8 = true ∧ pkt posted.w 9 8 = 255 ∧
      (holding posted).semOwned 0 255 = false ∧ (holding posted).semStored 0 = false ∧ (holding posted).sem 0 255 + 1 < 2 ^ 32 ∧
      quiet (holding posted) = true) := by decide +kernel

/-- A WLOAD to be placed, one that stands in the load queue, and one whose slot is being written. -/
def load (phase : CmdPhase) (arrays slot reuse : Nat) : Cmd :=
  { made (ready (aWload arrays reuse) tensors) 1 prepWload with phase := phase, slot := slot }

/-- The load finds its tile in slot 0 of array 0. -/
def finding (x : Cmd) : State :=
  ((holding x tensors).updArr 0 fun a => a.setSlot 0 { state := .ready, tile := tileOf x x.desc }).setFlag R.MA_WLOAD_CFG_REUSE_EN true

theorem witness_WeightLoadsFillSlots :
    (let x := load .placing 0 2 0
     (holding x tensors).cmd? 90 = some x ∧ (holding x tensors).cmdRuns x = true ∧ opc x.w = 1 ∧ x.phase = CmdPhase.placing ∧
      (holding x tensors).placeOn x = some [0] ∧
      ((holding x tensors).updCmd 90 fun y => { y with phase := .queued, arrays := [0] }).reuseSlot x [0] = none ∧
      ((holding x tensors).updCmd 90 fun y => { y with phase := .queued, arrays := [0] }).freeSlot [0] = some 0) ∧
    (let x := load .placing 0 2 1
     (finding x).placeOn x = some [0] ∧
      ((finding x).updCmd 90 fun y => { y with phase := .queued, arrays := [0] }).reuseSlot x [0] = some 0) ∧
    (let x := load .queued 1 2 1
     (finding x).cmdRuns x = true ∧ (finding x).loadHead x = true ∧ ((finding x).stashReady x.cx x.stash).2 = true ∧
      (finding x).reuseSlot x x.arrays = some 0) ∧
    (let x := load .queued 1 2 0
     (holding x tensors).loadHead x = true ∧ ((holding x tensors).stashReady x.cx x.stash).2 = true ∧
      (holding x tensors).reuseSlot x x.arrays = none ∧ (holding x tensors).freeSlot x.arrays = some 0) ∧
    (let x := load .queued 1 1 0
     (holding x tensors).loadHead x = true ∧ ((holding x tensors).stashReady x.cx x.stash).2 = true ∧ x.slot < 2) ∧
    (let x := load .running 1 1 0
     x.phase = CmdPhase.running ∧ (holding x tensors).cmdRuns x = true ∧ isOk ((holding x tensors).readTile (tileOf x x.desc)) = true) := by
  decide +kernel

/-- A STREAM of one row with a FIXED anchor in progress on array 0, which is gated or in full. -/
def streaming (st : RampStage) : State :=
  let x := { made (ready (aStream ++ [(74, 2)]) (bound (tile32 0 0x200000))) 2 (prepRows streamFieldsOk) with slot := 0 }
  (holding x (bound (tile32 0 0x200000))).updArr 0 fun a => { a with ramp := ⟨st, 0⟩ }

/-- A WGRAD of one row whose row mask excludes it. -/
def masked : State :=
  let x := { made (ready (aWgrad ++ [(78, 1), (384, 0x230000)]) (bound (tile32 3 0x200060))) 3 (prepRows wgradFieldsOk) with slot := 0 }
  (holding x (bound (tile32 3 0x200060))).updArr 0 fun a => { a with ramp := ⟨.full, 0⟩ }

/-- The row that enters next comes to its end: with a group, or with none. -/
def rowEnters (s : State) (empty : Bool) : Bool :=
  (s.nextEntering 0).any fun x => s.mayEnter x && s.rowReady x 0 && match s.enterRow 0 x (x.nextRow 0) with
    | .ok e => e.groups.isEmpty == empty
    | _ => false

theorem witness_RowsEnterArrays :
    (((streaming .gated).nextEntering 0).any (fun x => (streaming .gated).mayEnter x && (streaming .gated).rowReady x 0) = true ∧
      ((streaming .gated).arr 0).ramp.stage = .gated) ∧
    (rowEnters (streaming .full) false = true ∧ ((streaming .full).arr 0).ramp.stage = .full) ∧
    (rowEnters masked true = true ∧ (masked.arr 0).ramp.stage = .full) := by decide +kernel

/-- A row in flight to the ring of array 7. -/
def inFlight : State := ground.updArr 7 fun a => { a with flight := [row2 1 2] }

theorem witness_RowsArriveAtTheRing : inFlight.live = true ∧ (inFlight.arr (7 : Fin 8)).flight = row2 1 2 :: [] := by decide +kernel

/-- A bin of identifier 2 without coverage, as an image of zeros reads. -/
def emptyBin : RingRow := ⟨0, 2, 0, 0, false, 0, 0, List.replicate 896 0, List.replicate 28 0, 0, false⟩

/-- A DRAIN of that row in a mode, at the head of the drain side of array 0. -/
def draining (mode : Nat) : State :=
  let s := poke (bound (tile32 0 0x200000)) (0x230000 + 14401) 3 (if mode = 3 then 2 else 0)
  let x := made (ready (aDrain mode) s) 4 prepDrain
  (holding x s).updArr 0 fun a => { a with ring := if mode = 3 then [] else [emptyBin] }

/-- The DRAIN at the head of array 0 is started; its state and command. -/
def drainStart (s : State) : Option (State × Cmd) :=
  (s.drainHead 0).bind fun x => if s.cmdRuns x && (s.stashReady x.cx x.stash).2 then
    match startDrain (s.stashReady x.cx x.stash).1 x with
    | .ok y => some ((s.stashReady x.cx x.stash).1.updCmd y.id fun _ => y, y)
    | _ => none else none

theorem witness_DrainsEmptyTheRing :
    ((drainStart (draining 1)).any fun q => drainMode q.2.w == 1 && decide ((q.1.holders q.2 q.2.drainGroup).length ≤ 1) &&
      q.2.drainGroup.filterMap (fun k => q.1.binOf q.2 0 k) == [emptyBin] && q.1.drainable 0 1 emptyBin &&
      isOk (q.1.vwrite q.2.cx (imageAddr q.2 0) (imageOf emptyBin))) = true ∧
    ((drainStart (draining 2)).any fun q => drainMode q.2.w == 2 && decide ((q.1.holders q.2 q.2.drainGroup).length ≤ 1) &&
      q.2.drainGroup.filterMap (fun k => q.1.binOf q.2 0 k) == [emptyBin] && q.1.drainable 0 2 emptyBin &&
      match q.1.vread q.2.cx (imageAddr q.2 0) imageBytes with
      | .ok bs => (imageRow q.2.cx bs).anchors == emptyBin.anchors && (imageRow q.2.cx bs).exch == emptyBin.exch &&
          (imageRow q.2.cx bs).klen == 0 && (imageRow q.2.cx bs).cover == 0 && isOk (q.1.vwrite q.2.cx (imageAddr q.2 0) bs)
      | _ => false) = true ∧
    ((drainStart (draining 0)).any fun q => drainMode q.2.w == 0 && decide ((q.1.holders q.2 q.2.drainGroup).length ≤ 1) &&
      q.2.drainGroup.filterMap (fun k => q.1.binOf q.2 0 k) == [emptyBin] && q.1.drainable 0 0 emptyBin && !emptyBin.igrad &&
      isOk (drainConvert q.1 q.2 [emptyBin]).1.2) = true ∧
    ((drainStart (draining 3)).any fun q => drainMode q.2.w == 3 &&
      match Res.mapM (fun row => (q.1.vread q.2.cx (imageAddr q.2 row) imageBytes).bind fun bs =>
        let im := imageRow q.2.cx bs
        if im.tid != drainTid q.2.w || im.cover != im.klen then .fault illegal else .ok { im with row := row }) q.2.drainGroup with
      | .ok rows => isOk (drainConvert q.1 q.2 rows).1.2
      | _ => false) = true := by decide +kernel

-- Training.

/-- A running STEP_VERDICT of step 4 whose vote is open. -/
def verdictOf4 : Cmd := { busy 0x52 with phase := .running, w := word [(0, 0x52), (64, 4)] }

/-- The collective of a command. -/
def collFor (op : CollOp) : Coll := { id := 5, cmd := some 90, cx := 0, acc := { members := [(0, 0), (1, 0)] }, seq := 0, op := op }

/-- A LEARN context whose step 4 can close. -/
def closing : State := { holding verdictOf4 stepping with colls := [collFor .verdict] }

theorem witness_StepCloseVotes :
    closing.live = true ∧ closing.cxLive 0 = true ∧ closing.nextClose 0 = some verdictOf4 ∧
    (∀ y ∈ closing.cmds, y.cx = 0 → y.step = some 4 → (opc y.w = 0x52 ∧ pkt y.w 64 32 = 4) ∨ opc y.w = 0x51) ∧
    closing.colls.find? (fun k => k.cmd == some verdictOf4.id) = some (collFor .verdict) := by decide +kernel

/-- A LEARN context in step 4 with the record of a layer of 1 row and 32 columns at 0x200000, on a COW page, its print on a PRT
page, its gradient and its group on page 3, its version entries there too, and a free frame in each pool. -/
def layered : State :=
  let s := (stepping.pwriteNat 0x1008 8 0x400007).pwriteNat 0x1010 8 0xB
  let s := ((((s.wr R.XLT_PRT_BASE 5).wr R.XLT_PRT_ENTRIES 1).wr R.XLT_PRT_EN 1).wr R.CX_SYNC_VERSION_BASE 3).pwriteNat 0xA00000 8 0x80000003
  let s := s.updCx 0 fun c => { c with poolNear := [(0xC00000, 1)], poolSlow := [(slowBase, 1)] }
  let s := poke s 0x200000 32 (descOf 1 0 6 0x210000 0 1 32)
  let s := poke s 0x200020 32 (descOf 3 4 4 0x220000 0x230000 1 32)
  let s := poke s 0x200040 32 (descOf 4 4 7 0x240000 0x250000 1 32)
  let s := poke s 0x200060 32 (descOf 5 3 10 0x610000 0 1 32)
  let s := poke s 0x200080 32 (descOf 2 5 0 0x400000 0x410000 1 32)
  let s := poke (poke s 0x2000A0 6 0x260000) 0x2000B0 6 0x200000
  -- MASKMODE 1, and a mask that excludes the row
  let s := poke s 0x2000B8 8 (0x690000 + 2 ^ 48)
  -- eps, pi_min and pi_max of the group are 1.0
  poke s 0x680008 12 (0x3F800000 * (1 + 2 ^ 32 + 2 ^ 64))

/-- An UPDATE of the layer in step 4 for print 1. -/
def update (phase : CmdPhase) (skipped : Bool) : Cmd :=
  { busy 0x55 with phase := phase, step := some 4, upd := { skipped := skipped, exchanged := true, turn := 1 },
                   w := word [(0, 0x55), (64, 0x200000), (112, 0x680000), (224, 4), (256, 1), (288, 0xFFFF)] }

/-- The same in an accord. -/
def updateIn : Cmd :=
  { update .pass1 false with w := word [(0, 0x55), (64, 0x200000), (112, 0x680000), (224, 4), (256, 1)] }

/-- The state with that UPDATE, and with the collective of its norms. -/
def updating (x : Cmd) : State := { holding x layered with colls := [collFor .norms] }

/-- The record and group that the UPDATE finds, and its constants with a step. -/
def passes (x : Cmd) (second : Bool) : Bool :=
  match (updating x).udTaken x with
  | .ok (r, g) =>
    let step := if second then fmul (udEta x.w) (trustRatio g x.upd.w2 x.upd.u2) else fzero
    let k := udConst x.seed r.master.tid x.upd.t x.upd.s g (udLambda x.w) step
    if second then
      match pass2 k x.cx (udStep x.w) (udPrint x.w) r (updating x) with
      | .ok u =>
        match u.s.vwriteNat x.cx (udLayer x.w + 168) 4 (min (x.upd.t + 1) 0xFFFFFFFF) (.update (udStep x.w) []) with
        | .ok b => isOk (b.writeNorms x { x.upd with bad := x.upd.bad ++ u.bad } (trustRatio g x.upd.w2 x.upd.u2))
        | _ => false
      | _ => false
    else isOk (pass1 k x.cx (udStep x.w) r (updating x))
  | _ => false

theorem witness_UpdatesRunInTwoPasses :
    (let x := update .queued false
     (updating x).cmd? 90 = some x ∧ opc x.w = 0x55 ∧ (updating x).live = true ∧ (updating x).cxLive x.cx = true ∧
      (updating x).udMet x = true ∧ (updating x).udBusy.length < 2 ∧ (∀ y ∈ (updating x).udBusy, y.phase ≠ CmdPhase.pass1) ∧
      (∀ y ∈ (updating x).udQueue, y.id < x.id → (updating x).udMet y = false) ∧ isOk ((updating x).udParts x) = true ∧
      (((updating x).cx x.cx).verdictOf (udStep x.w)).any (fun q => q.skip) = false) ∧
    (passes (update .pass1 false) false = true ∧ udAccord (update .pass1 false).w = 0xFFFF) ∧
    (passes updateIn false = true ∧ udAccord updateIn.w ≠ 0xFFFF ∧
      ((updating updateIn).colls.find? fun k => k.cmd == some updateIn.id).isSome = true) ∧
    (let x := update .exchange true
     x.upd.exchanged = true ∧ (∀ y ∈ (updating x).udBusy, x.upd.turn ≤ y.upd.turn) ∧ isOk ((updating x).writeNorms x x.upd fzero) = true) ∧
    (passes (update .exchange false) true = true ∧ (update .exchange false).upd.exchanged = true ∧
      (∀ y ∈ (updating (update .exchange false)).udBusy, (update .exchange false).upd.turn ≤ y.upd.turn)) := by decide +kernel

/-- A COMMIT of step 3 for print 1, dispatched in step 4, and a shadow of step 3 on the page of its record. -/
def committing (layer : Nat) : State :=
  let x := { busy 0x53 with w := word [(0, 0x53), (64, layer), (112, 3), (144, if layer = 0 then 0 else 1)], step := some 4 }
  (holding x (layered.pcopy 0x400000 0x200000 slowBase)).updCx 0 fun c =>
    { c with first := some 3, poolSlow := [], shadows := [⟨1, slowBase, 3, false, layer == 0, layer != 0⟩] }

/-- The layer's COMMIT comes to its end. -/
def commits (s : State) (x : Cmd) : Bool :=
  match s.cmRecord x with
  | .ok r =>
    let hs := s.cmShadows x r
    s.sem x.cx (s.holdOf x.cx (cmPrint x.w) r.depth) == 0 && hs.length == 1 &&
      hs.all (fun h => !s.appending x.cx (2 ^ 21 * h.vpage)) &&
      match s.commitShadows x.cx (cmStep x.w) hs with
      | .ok a =>
        let d := a.1.aliasSlot x.cx (cmPrint x.w) r (hs.map fun h => 2 ^ 21 * h.vpage)
        let e := (r.slotPages.foldl (fun s va => s.markShared x.cx r va) d.1).freePrints x.cx r (a.2 ++ d.2)
        isOk (e.vwriteNat x.cx (e.rdAddr R.CX_SYNC_VERSION_BASE x.cx + 8 * r.print.tid) 8 (cmPrint x.w))
      | _ => false
  | _ => false

theorem witness_CommitsPublish :
    ((committing 0x200000).cmd? 90).any (fun x => opc x.w == 0x53 && x.phase == .queued && (committing 0x200000).cmdRuns x &&
      cmLayer x.w != 0 && (committing 0x200000).cmReady x && commits (committing 0x200000) x) = true ∧
    ((committing 0).cmd? 90).any (fun x => (committing 0).cmdRuns x && cmLayer x.w == 0 && ((committing 0).dataShadows x).length == 1 &&
      ((committing 0).dataShadows x).all (fun h => !(committing 0).appending x.cx (2 ^ 21 * h.vpage)) &&
      isOk ((committing 0).commitShadows x.cx (cmStep x.w) ((committing 0).dataShadows x))) = true := by decide +kernel

-- The host's writes.

/-- The most that a doorbell may be ahead of an empty ring of 64, and one more. -/
def empty64 : State := ground.wr R.SP_PTRS_TAIL 0

theorem witness_RingsAndDoorbells :
    (empty64.takesWrites .SP 0x10 = true ∧ empty64.flag R.SP_RING_CTL_EN (0 : Fin 32) = true ∧ empty64.rd R.SP_RING_CTL_LOG2_SIZE 0 = 6 ∧
      (2 ^ 32 + (64#32).toNat - empty64.rd R.SP_PTRS_TAIL 0) % 2 ^ 32 ≤ 2 ^ 6 ∧
      (2 ^ 32 + (64#32).toNat - empty64.rd R.SP_PTRS_HEAD 0) % 2 ^ 32 ≤ 2 ^ 6) ∧
    (2 ^ 6 < (2 ^ 32 + (65#32).toNat - empty64.rd R.SP_PTRS_TAIL 0) % 2 ^ 32 ∧ State.reset.flag R.SP_RING_CTL_EN (0 : Fin 32) = false) ∧
    (State.reset.regsWf = true ∧ State.reset.takesWrites .SP 0x08 = true ∧ (1#64).getLsbD 0 = true) ∧
    (ground.flag R.SP_RING_CTL_EN (0 : Fin 32) = true ∧ ground.takesWrites .SP 0 = true ∧ ground.takesWrites .SP 0x08 = true ∧
      ground.regsWf = true ∧ (2#64).getLsbD 0 = false) := by decide +kernel

/-- Context 0's stash controller owns semaphore 255. -/
def owning : State := ((ground.setFlag R.CX_STASH_CTL_EN true).setFlag R.CX_STASH_CTL_ADMIT_EN true).wr R.CX_STASH_CTL_ADMIT_SEM 255

theorem witness_HostWritesSemaphores :
    (ground.takesWrites .CX (0x1000 + 8 * (255 : Fin 256).val) = true ∧ ground.semOwned (0 : Fin 16) (255 : Fin 256) = false) ∧
    (owning.takesWrites .CX (0x1000 + 8 * (255 : Fin 256).val) = true ∧ owning.semOwned (0 : Fin 16) (255 : Fin 256) = true) := by
  decide +kernel

theorem witness_RegisterWritesReplaceFields :
    (State.reset.regsWf = true ∧ R.CE_CFG_E2E_US ∈ fieldsOf .CE ∧ R.CE_CFG_E2E_US.acc = .RW ∧ 0 < R.CE_CFG_E2E_US.cnt ∧
      State.reset.takesWrites .CE (R.CE_CFG_E2E_US.off + R.CE_CFG_E2E_US.sub * 0) = true) ∧
    (R.NCACHE_CFG_HEART_WAYS ∈ fieldsOf .NCACHE ∧ R.NCACHE_CFG_HEART_WAYS.acc = .RW ∧
      State.reset.takesWrites .NCACHE (R.NCACHE_CFG_HEART_WAYS.off + R.NCACHE_CFG_HEART_WAYS.sub * 0) = true) ∧
    (State.reset.answers = true ∧ 12 < 0x4000000 ∧ 12 % 8 ≠ 0 ∧ 14 % 4 ≠ 0) := by decide +kernel

theorem witness_ReadsAnswerAndClear :
    (let off := R.LK_ERRORS_UNCORR.addr 17
     State.reset.regsWf = true ∧ State.reset.answers = true ∧ off < 0x4000000 ∧ off % 8 = 0 ∧ State.reset.servedAt off = true ∧
      blkBase .DBG + imageWindow + 0x100000 ≤ off ∧ State.reset.actsAt off = true ∧ R.LK_ERRORS_UNCORR ∈ fieldsAt off ∧
      R.LK_ERRORS_UNCORR.acc = .RC) ∧
    (let off := R.LK_ERRORS_UNCORR.addr 17
     let s := State.reset.setFlag R.DBG_CUT_STAT_CUT true
     s.answers = true ∧ s.servedAt off = true ∧ s.actsAt off = false) ∧
    (blkBase .DBG + imageWindow + 0x100000 ≤ blkBase .REC ∧ blkBase .DBG < blkBase .DBG + imageWindow) := by decide +kernel

-- The stash.

/-- Context 0 with a table of one entry in page 3, at an offset of the window: of one page, micro-batch 0. -/
def table (size : Nat) : State :=
  let s := (((ground.wr R.CX_STASH_TABLE_BASE 3).wr R.CX_STASH_TABLE_ENTRIES 1).wr R.CX_STASH_WIN_BASE 0x100)
  let s := (((s.wr R.CX_STASH_NEAR_PAGES 1).wr R.CX_STASH_NEAR_BASE 8).wr R.CX_STASH_POOL_PAGES 1).wr R.CX_STASH_POOL_BASE 0x100000
  poke s 0x600000 32 (2 ^ 32 * size + 2 ^ 96 + 2 ^ 112)

/-- The same with the controller enabled and its entry in a state. -/
def stashed (st : StashState) : State :=
  let near := if st = .empty then [] else [(0, 0x1000000)]
  let pool := if st = .recalling then [(0, slowBase)] else []
  let e : StashEntry := { mb := 0, bord := 0, size := 1, woff := 0, writes := 1, uses := 1, state := st, near := near, pool := pool }
  (((table 1).setFlag R.CX_STASH_CTL_EN true).setFlag R.CX_STASH_CTL_ADMIT_EN true).updCx 0 fun c => { c with stash := { entries := [e] } }

/-- The state whose table is checked by a write of 1. -/
def checked (size : Nat) : State :=
  (table size).puts (hw8 1) [R.CX_STASH_CTL_LOW_WATER, R.CX_STASH_CTL_RECALL_PAGES, R.CX_STASH_CTL_ADMIT_EN, R.CX_STASH_CTL_ADMIT_SEM,
    R.CX_STASH_CTL_MB_SLOTS] 0

theorem witness_StashTablesAndCopies :
    ((table 1).takesWrites .CX 0x140 = true ∧ (table 1).flag R.CX_STASH_CTL_EN 0 = false ∧ (1#64).getLsbD 0 = true ∧
      (checked 1).cxLive 0 = true ∧ (checked 1).regsWf = true ∧ ∃ e, (checked 1).stashCheck 0 = .table [e]) ∧
    ((checked 0).cxLive 0 = true ∧ (checked 0).regsWf = true ∧ (checked 0).stashCheck 0 = .refused 0) ∧
    ((stashed .empty).live = true ∧ (stashed .empty).cxState 0 = 3 ∧ (stashed .empty).flag R.CX_STASH_CTL_EN 0 = true ∧
      (stashed .empty).flag R.CX_STASH_CTL_ADMIT_EN 0 = true ∧ (stashed .empty).rd R.CX_STASH_CTL_MB_SLOTS 0 = 1 ∧
      (stashed .empty).admissible 0 0 = true) ∧
    (((stashed .offloading).cx 0).stash.inState .offloading = some (0, ((stashed .offloading).cx 0).stash.entries.getD 0 default) ∧
      1 ≤ (stashed .offloading).poolFree 0 ∧ (stashed .offloading).live = true ∧ (stashed .offloading).cxState 0 = 3 ∧
      (stashed .offloading).stashBad 0 (((stashed .offloading).cx 0).stash.entries.getD 0 default) [(0, 0x1000000)] = none) ∧
    (((stashed .recalling).cx 0).stash.inState .recalling = some (0, ((stashed .recalling).cx 0).stash.entries.getD 0 default) ∧
      (stashed .recalling).stashBad 0 (((stashed .recalling).cx 0).stash.entries.getD 0 default) [(0, slowBase)] = none) := by
  refine ⟨⟨by decide +kernel, by decide +kernel, by decide, by decide +kernel, by decide +kernel,
    { mb := 0, bord := 0, size := 1, woff := 0, writes := 1, uses := 1 }, by decide +kernel⟩, ?_⟩
  decide +kernel

-- The life of a context.

/-- A FREE context 15 that can be created: a take area of 42 pages from page 16 on. -/
def free15 : State := (State.reset.wr R.CX_TAKE_PAGES 42 15).wr R.CX_TAKE_BASE 16 15

theorem witness_CreateChecksAndCreates :
    (let b := free15.puts (hw8 1) [R.CX_CTL_CLASS, R.CX_CTL_NOPREEMPT, R.CX_CTL_RUN, R.CX_CTL_AT_POINT, R.CX_CTL_PRIO, R.CX_CTL_VECTOR] 15
     free15.canon = true ∧ free15.takesWrites .CX 0 = true ∧ free15.cxState 15 = 0 ∧ (1#64).getLsbD 0 = true ∧ (1#64).getLsbD 1 = false ∧
      (1#64).getLsbD 5 = false ∧ b.createCheck 15 = 0) ∧
    (let b := State.reset.puts (hw8 1) [R.CX_CTL_CLASS, R.CX_CTL_NOPREEMPT, R.CX_CTL_RUN, R.CX_CTL_AT_POINT, R.CX_CTL_PRIO, R.CX_CTL_VECTOR] 15
     State.reset.canon = true ∧ b.createCheck 15 = 4) := by decide +kernel

theorem witness_DestroyLeavesNothing :
    (ground.canon = true ∧ ground.takesWrites .CX 0 = true ∧ ground.cxState 0 ≠ 0 ∧ ground.cxState 0 ≠ 5 ∧ (2#64).getLsbD 1 = true ∧
      (2#64).getLsbD 0 = false ∧ (2#64).getLsbD 5 = false) ∧
    (ground.wr R.CX_STATUS_STATE 5).cxState 0 = 5 := by decide +kernel

theorem witness_RunAndTranslations :
    (ground.regsWf = true ∧ ground.cxState 0 ≠ 0 ∧ (4#64).getLsbD 0 = false ∧ (4#64).getLsbD 1 = false ∧ ground.takesWrites .CX 0 = true ∧
      (4#64).getLsbD 5 = false) ∧
    ((32#64).getLsbD 5 = true ∧ (32#64).getLsbD 0 = false ∧ (32#64).getLsbD 1 = false) ∧
    ((ground.setFlag R.CX_STATUS_INV_BUSY true).live = true ∧ (ground.setFlag R.CX_STATUS_INV_BUSY true).flag R.CX_STATUS_INV_BUSY 0 = true ∧
      (ground.setFlag R.CX_STATUS_INV_BUSY true).regsWf = true) := by decide +kernel

/-- Context 0 PARKING with a queued MOVE, or RESTORING, with its take or an empty one. -/
def moving (state : Nat) (empty : Bool) : State :=
  (holding { busy 0x20 with w := word aMove } (ground.wr R.CX_STATUS_STATE state)).updCx 0 fun c => { c with take := { empty := empty } }

theorem witness_ParksAndRestores :
    ((moving 4 true).regsWf = true ∧ (moving 4 true).live = true ∧ (moving 4 true).cxState 0 = 4 ∧ (moving 4 true).parkTurn 0 = true ∧
      (moving 4 true).cmdsStopped 0 = true ∧ quiet (moving 4 true) = true) ∧
    ((moving 2 true).regsWf = true ∧ (moving 2 true).live = true ∧ (moving 2 true).cxState 0 = 2 ∧ (moving 2 true).takeBad 0 = none ∧
      quiet (moving 2 true) = true) ∧
    ((moving 2 false).takeBad 0 = none ∧ ((moving 2 false).cx 0).take.empty = false) := by decide +kernel

-- The fabric.

/-- Port 17 is UP, and context 0 is open to job 9. -/
def linked (s : State := ground) : State := ((s.wr R.LK_STATUS_STATE 3 17).setFlag R.CX_REMOTE_EN true).wr R.CX_REMOTE_JOB 9

/-- A frame of a type from device 1, context 0 to this device's context 0 in job 9. -/
def toUs (typ : Nat) (payload : List Byte := []) : Frame :=
  { typ := typ, vc := vcOf typ, srcDev := 1, dstDev := 0, job := 9, addr := 0x400000, msgBytes := payload.length, msgId := 1, payload := payload }

/-- A frame arrives as Arrives asks, and leaves the device's number as it was. -/
def arrives (s : State) (f : Frame) : Bool :=
  s.portTakes 17 && decide (fitFrame f = f) && f.lseq == (s.port 17).rxNext % 65536 && f.vc == vcOf f.typ && f.dstDev == s.dev &&
    (s.takeFrame 17 f).dev == s.dev

theorem arrives_arrives {s : State} {f : Frame} (h : arrives s f = true) : Arrives s 17 f f.typ ∧ (s.takeFrame 17 f).dev = s.dev := by
  simp only [arrives, Bool.and_eq_true, beq_iff_eq, decide_eq_true_eq] at h
  obtain ⟨⟨⟨⟨⟨h1, h2⟩, h3⟩, h4⟩, h5⟩, h6⟩ := h
  exact ⟨⟨h1, rfl, h2, h3, h4, h5⟩, h6⟩

/-- Port 17 after an NAK. -/
def nacked : State := linked.updPort 17 fun q => { q with nakSent := true }

theorem witness_FramesAreTakenOrDiscarded :
    (linked.portTakes 17 = true ∧ (toUs 1).typ = 1 ∧ fitFrame (toUs 1) = toUs 1 ∧ (toUs 1).lseq = (linked.port 17).rxNext % 65536 ∧
      (toUs 1).vc = vcOf 1 ∧ (toUs 1).nak = false ∧ (linked.port 17).nakSent = false) ∧
    (nacked.portTakes 17 = true ∧ fitFrame { toUs 1 with lseq := 1 } = { toUs 1 with lseq := 1 } ∧ 1 ≠ (nacked.port 17).rxNext % 65536 ∧
      (nacked.port 17).nakSent = true) ∧
    (fitFrame { toUs 1 with vc := 3 } = { toUs 1 with vc := 3 } ∧ 3 ≠ vcOf 1) ∧
    (fitFrame { toUs 1 with dstDev := 65535 } = { toUs 1 with dstDev := 65535 } ∧ 65535 ≠ (linked.takeFrame 17 { toUs 1 with dstDev := 65535 }).dev) ∧
    (fitFrame (toUs 0) = toUs 0 ∧ (toUs 0).typ = 0) ∧ (fitFrame { toUs 14 with vc := 0 } = { toUs 14 with vc := 0 } ∧ 0 ≠ vcOf 14) := by
  decide +kernel

/-- Context 0's parity window, of two stripes of a page, at page 2. -/
def window : State :=
  (((linked.setFlag R.CX_CKPT_CTL_EN true).wr R.CX_CKPT_HOLD_BASE 2).wr R.CX_CKPT_PAR_IMG_PAGES 1).updCx 0 fun c =>
    { c with ckpt := { c.ckpt with ranges := [(0x200000, 1, true)], group := [(0, 0), (1, 0)] } }

/-- What a target needs to serve a frame. -/
def serves (s : State) (f : Frame) : Bool :=
  let t := s.takeFrame 17 f
  arrives s f && t.cxLive 0 && t.flag R.CX_REMOTE_EN 0 && t.rd R.CX_REMOTE_JOB 0 == f.job

theorem witness_TargetsServeFrames :
    (serves linked (toUs 1 [1, 2, 3]) = true ∧ (linked.takeFrame 17 (toUs 1 [1, 2, 3])).inParity 0 0x400000 3 = false ∧
      isOk ((linked.takeFrame 17 (toUs 1 [1, 2, 3])).vwriteFrom 0 0x400000 [1, 2, 3] .plain).2 = true) ∧
    (serves window (toUs 1 [1, 2, 3]) = true ∧ (window.takeFrame 17 (toUs 1 [1, 2, 3])).inParity 0 0x400000 3 = true ∧
      isOk ((window.takeFrame 17 (toUs 1 [1, 2, 3])).vread 0 0x400000 3) = true ∧
      isOk ((window.takeFrame 17 (toUs 1 [1, 2, 3])).vwrite 0 0x400000 [1, 2, 3]) = true) ∧
    (serves linked { toUs 2 with msgBytes := 2049, offset := 2048 } = true ∧
      isOk ((linked.takeFrame 17 (toUs 2)).vread 0 0x400000 (min 2048 (2049 - 2048))) = true) ∧
    (serves linked (toUs 3) = true ∧ (linked.takeFrame 17 (toUs 3)).semOwned 0 0 = false ∧ (linked.takeFrame 17 (toUs 3)).sem 0 0 + 1 < 2 ^ 32) ∧
    (let s := linked.setSem 0 0 0xFFFFFFFF
     serves s (toUs 3) = true ∧ (s.takeFrame 17 (toUs 3)).semOwned 0 0 = false ∧ 2 ^ 32 ≤ (s.takeFrame 17 (toUs 3)).sem 0 0 + 1) ∧
    (let f := { toUs 1 with dstCx := 15 }
     arrives linked f = true ∧ (linked.takeFrame 17 f).cxLive 15 = false) ∧
    (let s := linked.setFlag R.CX_REMOTE_EN false
     arrives s (toUs 2) = true ∧ (s.takeFrame 17 (toUs 2)).cxLive 0 = true ∧ (s.takeFrame 17 (toUs 2)).flag R.CX_REMOTE_EN 0 = false) ∧
    (let f := { toUs 3 with job := 8 }
     arrives linked f = true ∧ (linked.takeFrame 17 f).cxLive 0 = true ∧ (linked.takeFrame 17 f).flag R.CX_REMOTE_EN 0 = true ∧
      (linked.takeFrame 17 f).rd R.CX_REMOTE_JOB 0 ≠ f.job) := by decide +kernel

/-- A message of context 0 to device 1 with offsets unanswered. -/
def message (isGet : Bool) (rpost : Option Nat) (left : List Nat) : Msg :=
  { id := 1, cmd := none, cx := 0, dev := 1, rcx := 0, isGet := isGet, src := 0x400000, dst := 0x500000, bytes := 64, rpost := rpost,
    left := left, unsent := [] }

/-- A state with one message. -/
def sending (m : Msg) : State := { linked with msgs := [m] }

/-- The answer finds its message, which waits for the offset. -/
def answers (m : Msg) (f : Frame) : Bool :=
  arrives (sending m) f && ((sending m).takeFrame 17 f).msg? f.msgId == some m && m.awaits f.offset && !m.posted

theorem witness_SendersHearAnswers :
    (answers (message false none [0, 2048]) (toUs 4) = true ∧ (message false none [0, 2048]).left.erase 0 ≠ []) ∧
    (answers (message false none [0]) (toUs 4) = true ∧ (message false none [0]).left.erase 0 = []) ∧
    (answers (message false (some 3) [0]) (toUs 4) = true ∧ (message false (some 3) [0]).rpost = some 3) ∧
    (answers (message true none [0]) (toUs 5 (List.replicate 64 7)) = true ∧ (message true none [0]).isGet = true ∧
      (toUs 5 (List.replicate 64 7)).len = min 2048 (64 - 0) ∧
      isOk (((sending (message true none [0])).takeFrame 17 (toUs 5 (List.replicate 64 7))).vwriteFrom 0 0x500000 (List.replicate 64 7) .plain).2 = true) ∧
    (answers (message false none [0]) (toUs 6) = true) ∧
    (answers (message false none [0]) (toUs 14) = true ∧ (toUs 14).msgId ≠ 0) := by decide +kernel

/-- A collective of context 0 and of context 0 of device 1, entered. -/
def coll2 (op : CollOp) : Coll :=
  { collFor op with fmt := 3, shard := [64, 64], entered := true, cmd := none, src := 0x400000, dst := 0x500000, count := 64 }

/-- A state with that collective. -/
def meeting (op : CollOp) : State := { linked joined with colls := [coll2 op] }

/-- A frame meets the collective as rank 1. -/
def meets (op : CollOp) (f : Frame) : Bool :=
  let s := meeting op
  arrives s f && (s.takeFrame 17 f).cxLive 0 && (s.takeFrame 17 f).coll? 0 f.accord f.collSeq == some (coll2 op) &&
    (coll2 op).acc.rankOf f.srcDev f.srcCx == some 1

/-- A data frame of the collective. -/
def data (op : CollOp) : Frame :=
  let n := (coll2 op).msgBytes 1 0
  { toUs 7 (List.replicate n 1) with phase := (coll2 op).phase false }

/-- A READY frame meets its accord: its flag can be set. -/
def readies (seq : Nat) : Bool :=
  let f := { toUs 8 with collSeq := seq }
  let t := (linked joined).takeFrame 17 f
  arrives (linked joined) f && t.cxLive 0 && match t.readAccord 0 0 with
    | .ok a => match t.areaView 0 a with
      | .ok v => a.rankOf f.srcDev f.srcCx == some 1 && f.epoch == a.epoch && decide (v.next ≤ seq) && (t.coll? 0 a.index seq).isNone &&
          t.areaOk 0 a && isOk (t.setReady 0 a seq 1)
      | _ => false
    | _ => false

theorem witness_CollectiveFramesMeetTheirCollective :
    (arrives (linked joined) (toUs 7) = true ∧ ((linked joined).takeFrame 17 (toUs 7)).coll? 0 0 0 = none) ∧
    (meets .gather { data .gather with epoch := 1 } = true ∧ 1 ≠ (coll2 .gather).acc.epoch) ∧
    (meets .gather { data .gather with pim := true } = true ∧
      true ≠ ((meeting .gather).takeFrame 17 { data .gather with pim := true }).flag R.CX_NUMERIC_PIM_ACTIVE 0) ∧
    (meets .barrier (data .barrier) = true ∧ (coll2 .barrier).dataOk 1 (data .barrier) = true ∧ (coll2 .barrier).isVote = true) ∧
    (meets .gather (data .gather) = true ∧ (coll2 .gather).dataOk 1 (data .gather) = true ∧ (coll2 .gather).isVote = false) ∧
    (meets .barrier (toUs 9) = true ∧ (coll2 .barrier).differs = false) ∧
    (readies 0 = true ∧ readies 1 = true) ∧ (arrives (linked joined) { toUs 8 with epoch := 1 } = true) := by decide +kernel

/-- A CLAPPER frame: a request of sample 62, or a reply of the master to the first sample. -/
def clap (kind n : Nat) : Frame := toUs 12 (leBytes 1 kind ++ leBytes 1 n ++ List.replicate 62 0)

/-- Device 0 in a run of the clapper whose master is device 1, at its last but one sample. -/
def clapping : State :=
  { (linked.wr R.TSU_CLAP_MASTER 1).setFlag R.TSU_CLAP_BUSY true with
      tsu := { samples := (List.range 62).map fun i => (i, 0, 0, 0, 0) } }

/-- A CUT frame. -/
def cutFrame : Frame := toUs 13 (leBytes 8 1000 ++ leBytes 2 1 ++ leBytes 4 1 ++ List.replicate 50 0)

theorem witness_TimeAndCutFrames :
    (arrives linked (clap 0 62) = true ∧ (clap 0 62).typ = 12 ∧ leNat (((clap 0 62).payload.drop 0).take 1) = 0) ∧
    (arrives clapping (clap 1 62) = true ∧ (clapping.takeFrame 17 (clap 1 62)).flag R.TSU_CLAP_BUSY = true ∧
      (clap 1 62).srcDev = (clapping.takeFrame 17 (clap 1 62)).clapMaster ∧ leNat (((clap 1 62).payload.drop 0).take 1) = 1 ∧
      leNat (((clap 1 62).payload.drop 1).take 1) = (clapping.takeFrame 17 (clap 1 62)).tsu.samples.length) ∧
    (let s := linked.setFlag R.DBG_CUT_CTL_ACCEPT true
     arrives s cutFrame = true ∧ (s.takeFrame 17 cutFrame).flag R.DBG_CUT_CTL_ACCEPT = true) ∧
    (let s := linked.setFlag R.DBG_CUT_CTL_ACCEPT false
     arrives s cutFrame = true ∧ (s.takeFrame 17 cutFrame).flag R.DBG_CUT_CTL_ACCEPT = false) := by decide +kernel

/-- Port 17 in a state, the clock at a time. -/
def portIn (st clock : Nat) : State := { State.reset.wr R.LK_STATUS_STATE st 17 with tsu := { local_ := clock } }

/-- The reply of the switch of plane 17. -/
def rolled : Frame := { typ := 11, vc := 3, payload := List.replicate 64 0 }

/-- The seat of plane 17. -/
def seat17 : Seat := { seat0 with plane := 17, rack := 1023 }

theorem witness_PortsTrainAndRoll :
    ((portIn 1 0).portsLive = true ∧ (portIn 1 0).portState 17 = 1) ∧
    ((portIn 1 50000000).portState 17 = 1 ∧ ((portIn 1 50000000).port 17).since + 50000000 ≤ (portIn 1 50000000).clock) ∧
    ((portIn 2 10000).portState 17 = 2 ∧ ((portIn 2 10000).port 17).lastAck + 10000 ≤ (portIn 2 10000).clock) ∧
    ((portIn 2 0).portState 17 = 2 ∧ rolled.typ = 11 ∧ fitFrame rolled = rolled ∧ rolled.lseq = ((portIn 2 0).port 17).rxNext % 65536 ∧
      seat17.plane = (17 : Fin 18).val ∧ ((portIn 2 0).takeFrame 17 rolled).boot.seat = none) ∧
    (State.reset.portsLive = true ∧ State.reset.takesWrites .LK 0 = true ∧ State.reset.portState 17 = 0 ∧ (2#64).getLsbD R.LK_CTL_RETRY.lo = true ∧
      (State.reset.wr R.LK_CTL_EN (bitsAt (2#64).toNat R.LK_CTL_EN.lo 1) 17).portState 17 = 0) ∧
    (∀ q < 18, (portIn 0 100000000).portState q ≠ 3 ∧ (portIn 0 100000000).portState q ≠ 1 ∧
      ((portIn 0 100000000).port q).since + 100000000 ≤ (portIn 0 100000000).clock) := by decide +kernel

/-- Port 17 UP at 50 µs, with a frame unacknowledged. -/
def waiting : State := (portIn 3 50000).updPort 17 fun q => { q with retry := [toUs 1], ackOwed := true }

theorem witness_LinksAcknowledgeAndFail :
    (waiting.portsLive = true ∧ waiting.portState 17 = 3 ∧ (waiting.port 17).ackOwed = true) ∧
    (fitFrame { toUs 15 with ackv := true } = { toUs 15 with ackv := true } ∧ (toUs 15).nak = false) ∧
    ((waiting.port 17).retry ≠ [] ∧ (waiting.port 17).lastAck + 50000 ≤ waiting.clock) ∧
    ((portIn 3 0).portsLive = true ∧ (portIn 3 0).portState 17 = 3 ∧ ((portIn 3 0).port 17).retry = [] ∧ (portIn 3 0).regsWf = true) := by
  decide +kernel

/-- Limits of the fabric at their last moment: a message of 1,000 µs, a collective of 100 ms and of 600 s. -/
def late (k : Coll) (clock : Nat) : State :=
  { linked with tsu := { local_ := clock }, msgs := [message false none [0]], colls := [k] }

/-- Stream processor 31 waits for a version of context 0. -/
def polling (n : Nat) : State := ground.updSp 31 fun p => { p with wait := some (.version 0 1 n 0), waitCmd := some 1 }

theorem witness_FabricLimits :
    ((late (coll2 .gather) 1000000).live = true ∧ (late (coll2 .gather) 1000000).rd R.CE_CFG_E2E_US = 1000 ∧
      (late (coll2 .gather) 1000000).msgs.find? (fun m => m.id == 1) = some (message false none [0]) ∧
      (message false none [0]).unsent.length < (message false none [0]).left.length ∧ 0 + 1000 * 1000 ≤ (late (coll2 .gather) 1000000).clock) ∧
    ((late (coll2 .gather) 1000000).colls.find? (fun k => k.id == 5) = some (coll2 .gather) ∧ (coll2 .gather).entered = true ∧
      (coll2 .gather).readyAt + 1000000 ≤ 1000000) ∧
    ((∀ q ∈ { coll2 .gather with ready := [1] }.targets, q ∈ { coll2 .gather with ready := [1] }.ready) ∧
      (late (coll2 .gather) 100000000).rd R.CE_CFG_COLL_MS = 100 ∧ (coll2 .gather).lastRx + 100 * 1000000 ≤ (late (coll2 .gather) 100000000).clock) ∧
    ((∃ q ∈ (coll2 .gather).targets, q ∉ (coll2 .gather).ready) ∧ (late (coll2 .gather) 600000000000).rd R.CE_CFG_READY_S = 600 ∧
      (coll2 .gather).began + 600 * 1000000000 ≤ (late (coll2 .gather) 600000000000).clock) ∧
    ((polling 0).live = true ∧ ((polling 0).sp (31 : Fin 32)).wait = some (.version 0 1 0 0) ∧ (polling 0).cxState ((polling 0).rd R.SP_RING_CTL_CX (31 : Fin 32)) = 3 ∧
      (polling 0).cxLive 0 = true ∧ okIs ((polling 0).vreadNat 0 ((polling 0).rdAddr R.CX_SYNC_VERSION_BASE 0 + 8) 4) 0 = true) ∧
    (((polling 1).sp (31 : Fin 32)).wait = some (.version 0 1 1 0) ∧
      okIs ((polling 1).vreadNat 0 ((polling 1).rdAddr R.CX_SYNC_VERSION_BASE 0 + 8) 4) 0 = true) := by decide +kernel

-- The memory tiers and the power controller.

/-- The state at a time. -/
def at_ (clock : Nat) (s : State := State.reset) : State := { s with tsu := { s.tsu with local_ := clock } }

/-- A held channel, near 203's neighbour 0 or slow 127. -/
def retraining (k : Nat) : State :=
  { State.reset with nt := { held := some 0, misses := [(0, k)], slowHeld := some 127, slowMisses := [(127, k)] } }

/-- Near channel 1 migrates, its copy under way or not. -/
def migrating (copying : Bool) (clock : Nat) : State :=
  at_ clock ({ State.reset.setRole 1 2 with nt := { migration := some { src := 1, copying := copying } } })

theorem witness_ChannelsRetrainAndMigrate :
    ((at_ 100000).live = true ∧ (at_ 100000).nt.held = none ∧ (at_ 100000).nt.holdEnd + 100000 ≤ (at_ 100000).clock ∧
      (at_ 100000).testing 5 0 = false ∧ (∀ m, (at_ 100000).nt.migration = some m → m.src ≠ 0) ∧
      (at_ 100000).activeOf (0 : Fin 204) = some 0 ∧ 0 ∉ (at_ 100000).nt.offline) ∧
    ((retraining 1).nt.held = some (0 : Fin 204).val ∧ missCount (retraining 1).nt.misses 0 < 2 ∧ (retraining 1).live = true) ∧
    ((at_ 0).nt.slowHeld = none ∧ (127 : Fin 128).val < 4 * (at_ 0).rd R.MGT_POPULATION_SLOW_PKGS ∧ 127 ∉ (at_ 0).nt.slowOff) ∧
    ((retraining 2).nt.slowHeld = some (127 : Fin 128).val ∧ missCount (retraining 2).nt.slowMisses 127 + 1 = 3) ∧
    ((retraining 1).nt.slowHeld = some (127 : Fin 128).val ∧ missCount (retraining 1).nt.slowMisses 127 + 1 < 3) ∧
    (0x40 % 64 = 0 ∧ (at_ 0).inNear 0x40 64 = true ∧ (at_ 0).onSpare 0x40 = false ∧ ScrubResult.clean ≠ .uncorrectable) ∧
    (let s := State.reset.setFlag R.NT_REPAIR_CFG_AUTO true
     s.roleOf 1 = 0 ∧ s.activeOf 1 = some 12 ∧ (s.setRole 1 2).roleOf (17 * (1 / 17) + 16) = 1 ∧ s.nt.migration = none ∧
      s.nt.waiting = [] ∧ (s.setRole 1 2).flag R.NT_REPAIR_CFG_AUTO = true) ∧
    (204 ≤ (331 : Fin 332).val ∧ (331 : Fin 332).val < 204 + 4 * (at_ 0).rd R.MGT_POPULATION_SLOW_PKGS) ∧
    ((migrating false 0).nt.migration = some { src := 1 } ∧ (migrating false 0).live = true) ∧
    ((migrating true (6 * 2 ^ 30)).nt.migration = some { src := 1, copying := true } ∧
      6 * 2 ^ 30 ≤ ((migrating true (6 * 2 ^ 30)).clock - 0) * (migrating true (6 * 2 ^ 30)).copyRate ∧
      (migrating true (6 * 2 ^ 30)).activeOf 1 = some 12 ∧ (migrating true (6 * 2 ^ 30)).live = true) := by
  refine ⟨⟨by decide +kernel, by decide +kernel, by decide +kernel, by decide +kernel, fun m h => ?_, by decide +kernel, by decide +kernel⟩, ?_⟩
  · cases h
  · decide +kernel

/-- A power controller at a position, with samples in a row low enough. -/
def metered (pos under : Nat) : State := { State.reset with pwr := { pos := pos, under := under, samples := [] } }

theorem witness_SamplesMoveTheLadder :
    (State.reset.takesWrites .PWR R.PWR_CAP_HOST_LIMIT_W.off = true ∧
      bitsAt (1499#64).toNat R.PWR_CAP_HOST_LIMIT_W.lo R.PWR_CAP_HOST_LIMIT_W.wid = 1499) ∧
    (State.reset.regsWf = true ∧ State.reset.i3cUp = true ∧ (State.reset.setFlag R.MGT_I3C_ASSIGNED true).flag R.MGT_I3C_ASSIGNED = true) ∧
    ((metered 14 0).regsWf = true ∧ min ((metered 14 0).rd R.PWR_CAP_HOST_LIMIT_W) ((metered 14 0).rd R.PWR_CAP_BOARD_LIMIT_W) = 3300 ∧
      (metered 14 0).pwr.limit = 3300 ∧ 31 * (1000 * 3300 * 1) ≤ 32 * 3196875 ∧ (metered 14 0).pwr.pos < 18 - (metered 14 0).rd R.PWR_CFG_OPMAX) ∧
    (¬ 31 * (1000 * 3300 * 1) ≤ 32 * 3093750 ∧ 16 * 3093750 ≤ 15 * (1000 * 3300 * 1) ∧ (metered 14 19).pwr.under + 1 = 20 ∧
      0 < (metered 14 19).pwr.pos) ∧
    ((metered 0 18).pwr.under + 1 < 20 ∧ (metered 0 19).pwr.pos = 0) := by decide +kernel

/-- Array 7's clock in a stage, at a time. -/
def clocked (st : RampStage) (clock : Nat) : State := (at_ clock).updArr 7 fun a => { a with ramp := ⟨st, 0⟩ }

theorem witness_RampsAndCuesGate :
    ((clocked .edges4 500).live = true ∧ ((clocked .edges4 500).arr (7 : Fin 8)).ramp.stage = .edges4 ∧
      ((clocked .edges4 500).arr (7 : Fin 8)).ramp.since + 500 ≤ (clocked .edges4 500).clock) ∧
    (((clocked .edges12 500).arr (7 : Fin 8)).ramp.stage = .edges12) ∧ (((clocked .edges8 500).arr (7 : Fin 8)).ramp.stage = .edges8) ∧
    ((clocked .full 5000).live = true ∧ ((clocked .full 5000).arr (7 : Fin 8)).ramp.stage = .full ∧ (clocked .full 5000).streamIdle 7 = true ∧
      (clocked .full 5000).cued 7 = false ∧ ((clocked .full 5000).arr (7 : Fin 8)).ramp.since + 5000 ≤ (clocked .full 5000).clock) ∧
    (((clocked .queued 0).arr (7 : Fin 8)).ramp.stage = .queued ∧ (clocked .queued 0).live = true) ∧
    (State.reset.regsWf = true ∧ State.reset.takesWrites .PWR R.PWR_CFG_OPMAX.off = true) := by decide +kernel

-- Observation.

/-- The state with no port UP, or with port 17 UP. -/
def ports (up : Bool) : State := if up then State.reset.wr R.LK_STATUS_STATE 3 17 else State.reset

/-- The state after MASTER is written by a clapper order. -/
def ordered (s : State) (v : Nat) : State := s.wr R.TSU_CLAP_MASTER (bitsAt v R.TSU_CLAP_MASTER.lo R.TSU_CLAP_MASTER.wid)

theorem witness_CountersClapperAndRushesObey :
    (State.reset.regsWf = true ∧ State.reset.takesWrites .PMC R.PMC_CTL_SNAP.off = true ∧
      (BitVec.ofNat 64 (2 ^ R.PMC_CTL_SNAP.lo)).getLsbD R.PMC_CTL_SNAP.lo = true ∧ ∀ i < 128, State.reset.counterOpen i = false) ∧
    (State.reset.takesWrites .TSU R.TSU_CLAP_RUN.off = true ∧ (1#64).getLsbD R.TSU_CLAP_RUN.lo = true ∧
      (ordered (State.reset.setFlag R.TSU_CLAP_BUSY true) 1).flag R.TSU_CLAP_BUSY = true) ∧
    ((ordered (ports false) 1).flag R.TSU_CLAP_BUSY = false ∧ ∀ p < 18, (ordered (ports false) 1).portState p ≠ 3) ∧
    ((ordered (ports true) 1).flag R.TSU_CLAP_BUSY = false ∧ (∃ p < 18, (ordered (ports true) 1).portState p = 3) ∧
      (ordered (ports true) 1).clapMaster = (ordered (ports true) 1).dev) ∧
    ((∃ p < 18, (ordered (ports true) 0x11).portState p = 3) ∧ (ordered (ports true) 0x11).clapMaster ≠ (ordered (ports true) 0x11).dev) ∧
    ((at_ 10000000 (State.reset.setFlag R.TSU_CLAP_BUSY true)).flag R.TSU_CLAP_BUSY = true ∧ 0 + 10000000 ≤ (at_ 10000000).clock) ∧
    (State.reset.takesWrites .DBG R.DBG_RUSH_CTL_EN.off = true ∧ (State.reset.setFlag R.DBG_RUSH_CTL_EN true).flag R.DBG_RUSH_CTL_EN = true ∧
      (BitVec.ofNat 64 (2 ^ R.DBG_RUSH_CTL_REARM.lo + 2 ^ R.DBG_RUSH_CTL_EN.lo)).getLsbD R.DBG_RUSH_CTL_REARM.lo = true ∧
      (BitVec.ofNat 64 (2 ^ R.DBG_RUSH_CTL_REARM.lo + 2 ^ R.DBG_RUSH_CTL_EN.lo)).getLsbD R.DBG_RUSH_CTL_EN.lo = true) ∧
    (State.reset.takesWrites .DBG R.DBG_RUSH_TRIG_SOURCES.off = true ∧
      (BitVec.ofNat 64 (2 ^ R.DBG_RUSH_TRIG_NOW.lo)).getLsbD R.DBG_RUSH_TRIG_NOW.lo = true) ∧
    (bitAt (State.reset.rd R.DBG_RUSH_TRIG_SOURCES) 4 = false) ∧
    (bitAt ((State.reset.wr R.DBG_RUSH_TRIG_SOURCES 16).rd R.DBG_RUSH_TRIG_SOURCES) 4 = true ∧ State.reset.flag R.DBG_RUSH_STAT_TRIGGERED = false ∧
      State.reset.flag R.DBG_RUSH_CTL_EN = false ∧ State.reset.flag R.DBG_RUSH_TRIG_CUT_ON_TRIG = false) := by
  refine ⟨by decide +kernel, by decide +kernel, by decide +kernel, ⟨by decide +kernel, ⟨17, by decide, by decide +kernel⟩, by decide +kernel⟩,
    ⟨⟨17, by decide, by decide +kernel⟩, by decide +kernel⟩, by decide +kernel⟩

/-- A cut armed for time stamp 10, at a time, in a state of the device. -/
def armed (clock st : Nat) : State := at_ clock (((State.reset.setFlag R.DBG_CUT_STAT_ARMED true).wr R.DBG_CUT_T_T 10).wr R.MGT_START_STATE st)

/-- A device that is cut, with section 7 chosen. -/
def scanned : State :=
  (((State.reset.wr R.MGT_START_STATE 4).setFlag R.DBG_CUT_STAT_CUT true).wr R.DBG_IMAGE_SEL_SECTION 7).wr R.MGT_LC_STATE 1

theorem witness_CutsArmFreezeAndAreRead :
    (State.reset.regsWf = true ∧ State.reset.flag R.DBG_CUT_STAT_CUT = false ∧ State.reset.flag R.DBG_CUT_STAT_ARMED = false ∧
      State.reset.dbg.cuts + 1 < 2 ^ 32 ∧ State.reset.now + State.reset.cutLead < 2 ^ 64 ∧
      State.reset.takesWrites .DBG R.DBG_CUT_CTL_NOW.off = true ∧
      (BitVec.ofNat 64 (2 ^ R.DBG_CUT_CTL_NOW.lo)).getLsbD R.DBG_CUT_CTL_NOW.lo = true ∧ State.reset.cutNowActed = false ∧
      bitsAt (BitVec.ofNat 64 (2 ^ R.DBG_CUT_CTL_NOW.lo)).toNat R.DBG_CUT_CTL_SET_COUNT.lo R.DBG_CUT_CTL_SET_COUNT.wid = 0) ∧
    (State.reset.takesWrites .DBG R.DBG_CUT_AT_AT.off = true ∧ State.reset.rd R.DBG_CUT_CTL_SET_COUNT = 0 ∧
      State.reset.now + State.reset.cutLead = 10) ∧
    ((armed 9 2).flag R.DBG_CUT_STAT_ARMED = true ∧ (armed 9 2).rd R.DBG_CUT_T_T ≤ 10) ∧
    ((armed 10 2).flag R.DBG_CUT_STAT_CUT = false ∧ (armed 10 2).rd R.DBG_CUT_T_T ≤ (armed 10 2).now ∧ (armed 10 2).recd.stopped = false ∧
      (armed 10 2).rd R.MGT_START_STATE = 2) ∧ ((armed 10 3).rd R.MGT_START_STATE = 3) ∧
    (scanned.rd R.MGT_START_STATE = 4 ∧ scanned.boot.d3hot = false ∧ scanned.recd.stopped = false ∧
      scanned.rd R.DBG_IMAGE_SEL_SECTION = 7 ∧ scanned.scanGranted = true) := by decide +kernel

/-- The log frozen, at a time. -/
def frozen (clock : Nat) : State := at_ clock (State.reset.setFlag R.REC_CTL_FREEZE true)

/-- A repeat held, at a time. -/
def repeated (clock : Nat) : State := at_ clock { State.reset with recd := { held := 1, newest := some 5 } }

theorem witness_TheReelFreezesRepeatsAndClears :
    (State.reset.takesWrites .REC R.REC_CTL_FREEZE.off = true ∧ State.reset.flag R.REC_CTL_FREEZE = (0#64).getLsbD R.REC_CTL_FREEZE.lo) ∧
    (BitVec.ofNat 64 (2 ^ R.REC_CTL_FREEZE.lo)).getLsbD R.REC_CTL_FREEZE.lo = true ∧
    ((frozen 0).takesWrites .REC R.REC_CTL_FREEZE.off = true ∧ (frozen 0).flag R.REC_CTL_FREEZE = true ∧ (frozen 0).recd.clearDue = none ∧
      (frozen 0).recd.lost = 0) ∧
    ((frozen 10000000000).recd.stopped = false ∧ (frozen 10000000000).recd.frozeAt + 10000000000 ≤ (frozen 10000000000).clock) ∧
    ((repeated 1000000).recd.held ≠ 0 ∧ (repeated 1000000).flag R.REC_CTL_FREEZE = false ∧ (repeated 1000000).recd.stopped = false ∧
      (repeated 1000000).recd.wroteAt + 1000000 ≤ (repeated 1000000).clock ∧ (repeated 1000000).recd.newest = some 5 ∧
      (repeated 1000000).canon = true) ∧
    (State.reset.takesWrites .REC R.REC_CLEAR_ADDR.off = true ∧ (frozen 0).takesWrites .REC R.REC_CLEAR_ADDR.off = true) := by
  decide +kernel


-- Starts, trust and self-test. What a signature decides is opaque here: those clauses are met on the side that needs none.

/-- A start in a phase. -/
def inP (k : Nat) (s : State := State.reset) : State := (s.wr R.MGT_START_STATE 0).wr R.MGT_START_PHASE k

/-- The same, once a run of the clapper has ended. -/
def clapped : State := (inP 6).setFlag R.TSU_CLAP_DONE true

theorem witness_StartsRunTheirPhases :
    State.reset.boot.pwrfail = true ∧
    (let s : State := { State.reset with boot := { pwrfail := false } }
     s.boot.pwrfail = false ∧ s.rd R.MGT_START_STATE ≠ 0) ∧
    ((inP 0).inPhase 0 = true ∧ (inP 0 (State.reset.setFuse 0 2)).fuse 0 = 2 ∧ ((inP 0 (State.reset.setFuse 0 0)).fuse 0 = 0 ∨
      (inP 0 (State.reset.setFuse 0 0)).fuse 0 = 4) ∧ (inP 0 (State.reset.setFuse 0 2)).inPhase 0 = true) ∧
    ((inP 1).inPhase 1 = true ∧ (inP 2).inPhase 2 = true ∧ (inP 3).inPhase 3 = true ∧ ((inP 3).checkImage (some [])).1 ≠ 0 ∧
      (inP 4).inPhase 4 = true ∧ (inP 5).inPhase 5 = true) ∧
    ((inP 5).boot.memDone = false ∧ (∀ j < 12, recordValid ((inP 5).reelSlot (1 + j)) = false) ∧ (inP 5).regsWf = true ∧ (inP 5).nt.removed = []) ∧
    (clapped.inPhase 6 = true ∧ clapped.boot.fabDone = false ∧ (∀ p < 18, clapped.portState p ≠ 1 ∧ clapped.portState p ≠ 2) ∧
      clapped.flag R.TSU_CLAP_BUSY = false ∧ clapped.flag R.TSU_CLAP_DONE = true) ∧
    (let s : State := { clapped with boot := { clapped.boot with memDone := true, fabDone := true } }
     s.inPhase 6 = true ∧ s.boot.memDone = true ∧ s.boot.fabDone = true) := by decide +kernel

/-- A device in state RETURN, with the message of a token to SCRAP at address 0x40; the device identifier is open. -/
def holder : State :=
  let s := State.reset.wr R.MGT_LC_STATE 3
  let m := s.lcMessage 4
  { s with mem := (List.range 48).map fun i => (0x40 + i, m.getD i 0) }

theorem holder_reads : holder.pread 0x40 48 = holder.lcMessage 4 := rfl

/-- A write of LC_TOKEN that names address 0x40. -/
def tokenWord : Word := BitVec.ofNat 64 (2 ^ R.MGT_LC_TOKEN_ADDR.lo)

/-- A device in SAFE, 1 ms after its entry. -/
def safeFor (ns : Nat) : State := { (at_ ns (State.reset.wr R.MGT_START_STATE 3)) with boot := { safeAt := some 0 } }

theorem witness_TrustAndSafety :
    (let s := State.reset.wr R.MGT_START_STATE 1
     let v : Word := BitVec.ofNat 64 (2 ^ R.MGT_PUSH_GO.lo)
     s.rd R.MGT_START_STATE = 1 ∧ s.takesWrites .MGT R.MGT_PUSH_GO.off = true ∧ v.getLsbD R.MGT_PUSH_GO.lo = true ∧
      (s.checkImage (some (s.pread scratchBase (min (bitsAt v.toNat R.MGT_PUSH_LEN.lo R.MGT_PUSH_LEN.wid) 0x1000000)))).1 ≠ 0) ∧
    (let v : Word := BitVec.ofNat 64 (2 ^ R.SEC_ATT_CTL_GO.lo)
     let s := State.reset
     s.takesWrites .SEC R.SEC_ATT_CTL_GO.off = true ∧ v.getLsbD R.SEC_ATT_CTL_GO.lo = true ∧ s.flag R.SEC_ATT_CTL_BUSY = false ∧ s.attests = true ∧
      (s.wr R.MGT_LC_STATE 3).attests = false) ∧
    (let s := State.reset.setFlag R.SEC_ATT_CTL_BUSY true
     s.flag R.SEC_ATT_CTL_BUSY = true ∧ s.recd.stopped = false ∧ s.flag R.DBG_CUT_STAT_CUT = false) ∧
    (holder.takesWrites .MGT R.MGT_LC_TOKEN_ADDR.off = true ∧
      0x40 = 64 * bitsAt tokenWord.toNat R.MGT_LC_TOKEN_ADDR.lo R.MGT_LC_TOKEN_ADDR.wid ∧ ∀ c < 16, holder.cxState c = 0) ∧
    (4 = leNat (((holder.pread 0x40 48).drop 32).take 1) ∧ true = (holder.pread 0x40 48 == holder.lcMessage 4 && lcNext holder.lifeCycle 4 &&
      (holder.lifeCycle == 3 || Config.mldsaVerify Config.lifecycleKey (holder.pread 0x40 48) (holder.pread (0x40 + 48) 4627)))) ∧
    (let s := State.reset
     0 = leNat (((s.pread 0x40 48).drop 32).take 1) ∧ false = (s.pread 0x40 48 == s.lcMessage 0 && lcNext s.lifeCycle 0 &&
        (s.lifeCycle == 3 || Config.mldsaVerify Config.lifecycleKey (s.pread 0x40 48) (s.pread (0x40 + 48) 4627)))) ∧
    (holder.wr R.CX_STATUS_STATE 3 15).cxState 15 ≠ 0 ∧
    (State.reset.rd R.MGT_START_STATE = 2 ∧ (State.reset.wr R.MGT_START_STATE 3).rd R.MGT_START_STATE ≠ 2 ∧
      ((State.reset.wr R.MGT_START_STATE 3).wr R.MGT_LC_STATE 3).lifeCycle = 3 ∧ (State.reset.setFuse 0 0).fuse 0 = 0) ∧
    (State.reset.rd R.MGT_START_STATE < 3 ∧ State.reset.flag R.DBG_CUT_STAT_CUT = false ∧ State.reset.recd.stopped = false) ∧
    ((safeFor 1000000).rd R.MGT_START_STATE = 3 ∧ (safeFor 1000000).portsLive = true ∧ (safeFor 1000000).boot.safeAt = some 0 ∧
      0 + 1000000 ≤ (safeFor 1000000).clock) := by
  refine ⟨by decide +kernel, by decide +kernel, by decide +kernel, by decide +kernel, ⟨rfl, ?_⟩, by decide +kernel, by decide +kernel,
    by decide +kernel, by decide +kernel, by decide +kernel⟩
  rw [holder_reads]
  simp [show holder.lifeCycle = 3 from rfl, lcNext]

/-- A device that tests itself, with its save area at address 0. -/
def testing (phase : Nat) (todo : List Nat) (clock : Nat := 0) : State :=
  at_ clock { ((State.reset.setFlag R.BST_CFG_EN true).wr R.BST_SAVE_PAGES 9) with slice := { phase := phase, todo := todo } }

theorem witness_SlicesTestEveryUnit :
    ((testing 0 [0, 1]).live = true ∧ (testing 0 [0, 1]).flag R.BST_CFG_EN = true ∧ (testing 0 [0, 1]).saveOk = true ∧
      (testing 0 [0, 1]).slice.phase = 0 ∧ (testing 0 [0, 1]).gapOver = true) ∧
    ((testing 0 []).flag R.BST_CFG_EN = true ∧ (testing 0 []).saveOk = true ∧ (testing 0 []).gapOver = true ∧ (testing 0 []).roundDue = true) ∧
    ((testing 1 [7, 8]).slice.phase = 1 ∧ (testing 1 [7, 8]).quietAt (sliceUnit 7).1 (sliceUnit 7).2 = true ∧ (sliceUnit 7).1 ≠ 7) ∧
    ((testing 1 [7, 8] 10000000).live = true ∧ (testing 1 [7, 8] 10000000).slice.since + 10000000 ≤ (testing 1 [7, 8] 10000000).clock) ∧
    ((testing 2 [7, 8]).live = true ∧ (testing 2 [7, 8]).slice.phase = 2 ∧ (testing 2 [495]).slice.phase = 2) := by decide +kernel

-- Checkpoints.

/-- A write of CKPT_CTL: EN, the gate semaphore, the entries of the list. -/
def ckptWord (gate entries : Nat) : Word :=
  BitVec.ofNat 64 (2 ^ R.CX_CKPT_CTL_EN.lo + gate * 2 ^ R.CX_CKPT_CTL_GATE_SEM.lo + entries * 2 ^ R.CX_CKPT_CTL_LIST_COUNT.lo)

/-- What the engine sees of the write. -/
def ckptSees (s : State) (v : Word) : State :=
  s.puts (hw8 v.toNat) [R.CX_CKPT_CTL_GATE_SEM, R.CX_CKPT_CTL_LIST_COUNT, R.CX_CKPT_CTL_BIND_COUNT, R.CX_CKPT_CTL_VCOUNT] 0

/-- A list that is refused at an entry. -/
def refusedAt (r : Except Nat (List (Nat × Nat × Bool))) (i : Nat) : Bool := match r with
  | .error j => j == i
  | .ok _ => false

theorem refusedAt_elim {r : Except Nat (List (Nat × Nat × Bool))} {i : Nat} (h : refusedAt r i = true) : r = .error i := by
  cases r with
  | error j => rw [beq_iff_eq.mp h]
  | ok l => cases h

/-- A list of no entries. -/
def noEntries (r : Except Nat (List (Nat × Nat × Bool))) : Bool := match r with
  | .ok [] => true
  | _ => false

theorem noEntries_elim {r : Except Nat (List (Nat × Nat × Bool))} (h : noEntries r = true) : r = .ok [] := by
  unfold noEntries at h
  split at h
  · rfl
  · cases h

/-- The engine of context 0 enabled, its stream processor idle, its generation, and what it holds. -/
def keeping (gen : Nat) (k : Ckpt) : State :=
  ((empty64.setFlag R.CX_CKPT_CTL_EN true).wr R.CX_CKPT_STAT_GEN gen).updCx 0 fun c => { c with ckpt := k }

theorem witness_CheckpointsSnapshotAndSeal :
    (ground.takesWrites .CX R.CX_CKPT_CTL_EN.off = true ∧ ground.flag R.CX_CKPT_CTL_EN (0 : Fin 16) = false ∧
      (ckptWord 0 1).getLsbD R.CX_CKPT_CTL_EN.lo = true ∧ ground.regsWf = true ∧ ground.cxLive (0 : Fin 16) = true ∧
      (ckptSees ground (ckptWord 0 1)).readList 0 (List.range ((ckptSees ground (ckptWord 0 1)).rd R.CX_CKPT_CTL_LIST_COUNT 0)) [] = .error 0) ∧
    ((ckptSees ground (ckptWord 0 0)).readList 0 (List.range ((ckptSees ground (ckptWord 0 0)).rd R.CX_CKPT_CTL_LIST_COUNT 0)) [] = .ok [] ∧
      (ckptSees ground (ckptWord 0 0)).gateSemBad 0 = false) ∧
    ((ckptSees owning (ckptWord 255 0)).readList 0 (List.range ((ckptSees owning (ckptWord 255 0)).rd R.CX_CKPT_CTL_LIST_COUNT 0)) [] = .ok [] ∧
      (ckptSees owning (ckptWord 255 0)).gateSemBad 0 = true ∧ owning.flag R.CX_CKPT_CTL_EN (0 : Fin 16) = false ∧
      owning.regsWf = true ∧ owning.cxLive (0 : Fin 16) = true) ∧
    (∃ s : State, s = keeping 0 { readyOk := true } ∧ s.gateOpen (0 : Fin 16) = true ∧ (∃ r, s.recordBody 0 1 = .ok r) ∧ s.imageNow 0 = .ok [] ∧
      1 = s.rd R.CX_CKPT_STAT_GEN 0 + 1 ∧ s.regsWf = true ∧ s.cxState 0 = 3) ∧
    (∃ s : State, s = keeping 1 {} ∧ s.live = true ∧ s.cxLive (0 : Fin 16) = true ∧ s.locallyDone (0 : Fin 16) = true ∧ (s.cx 0).ckpt.group = []) ∧
    (∃ s : State, s = keeping 1 { group := [(0, 0), (1, 0), (2, 0), (3, 0)] } ∧ s.live = true ∧ s.cxLive (0 : Fin 16) = true ∧
      s.locallyDone (0 : Fin 16) = true ∧ (s.cx 0).ckpt.group ≠ []) ∧
    (∃ s : State, s = keeping 1 { sealing := 2 } ∧ s.live = true ∧ s.cxLive (0 : Fin 16) = true ∧ (s.cx 0).ckpt.sealing = 2) := by
  refine ⟨⟨by decide +kernel, by decide +kernel, by decide, by decide +kernel, by decide +kernel, refusedAt_elim (by decide +kernel)⟩,
    ⟨noEntries_elim (by decide +kernel), by decide +kernel⟩,
    ⟨noEntries_elim (by decide +kernel), by decide +kernel, by decide +kernel, by decide +kernel, by decide +kernel⟩,
    ⟨_, rfl, by decide +kernel, isOk_elim (by decide +kernel), rfl, by decide +kernel, by decide +kernel, by decide +kernel⟩, ⟨_, rfl, by decide +kernel, by decide +kernel, by decide +kernel, by decide +kernel⟩,
    ⟨_, rfl, by decide +kernel, by decide +kernel, by decide +kernel, by decide +kernel⟩,
    ⟨_, rfl, by decide +kernel, by decide +kernel, by decide +kernel⟩⟩

/-- A write of CKPT_OP: an operation, with its operand block at address 0x1000. -/
def opWord (op : Nat) : Word := BitVec.ofNat 64 (op * 2 ^ R.CX_CKPT_OP_OP.lo + 0x40 * 2 ^ R.CX_CKPT_OP_ADDR.lo)

/-- A state with an operand block in context 0. -/
def operand (s : State) (b : Nat) : State := poke s 0x1000 64 b

/-- Context 0 with 3 pages of image and a group of 4, for SEND_STRIPES. -/
def striped (group : List (Nat × Nat)) : State := operand ((keeping 0 { group := group }).wr R.CX_CKPT_PAR_IMG_PAGES 3) 0

/-- A sealed generation 1. -/
def sealed1 : State := operand ((keeping 1 {}).wr R.CX_CKPT_STAT_SEALED 1) (1 + 2 ^ 128 * 0x200000)

/-- A CREATED context whose operand block asks for a record at 0x200000, of a generation and at a data position, with a record whose bytes
are zero but for its checksum. -/
def recorded (gen pos k : Nat) : State :=
  let s := operand ((keeping 0 {}).wr R.CX_STATUS_STATE 1) (gen + 2 ^ 64 * pos + 2 ^ 128 * 0x200000)
  { s with mem := s.mem ++ (List.range 4).map fun i => (0x400004 + i, BitVec.ofNat 8 (k / 256 ^ i % 256)) }

/-- The record as the checksum reads it. -/
def cleared : List Byte := [0, 0, 0, 0] ++ leBytes 4 0 ++ List.replicate 20728 0

theorem readRun_nil (n a : Nat) : readRun n a [] = List.replicate n 0 := by
  induction n generalizing a with
  | zero => rfl
  | succ n h => rw [readRun, h]; rfl

theorem crcBits_small (k : Nat) {c : Nat} (h : c < 2 ^ 32) : crcBits k c < 2 ^ 32 := by
  induction k generalizing c with
  | zero => exact h
  | succ k ih =>
    rw [crcBits]
    split
    · exact ih (Nat.xor_lt_two_pow (by omega) (by decide))
    · exact ih (by omega)

theorem crcRun_small (bs : List Byte) {c : Nat} (h : c < 2 ^ 32) : bs.foldl (fun c b => crcBits 8 (c.xor b.toNat)) c < 2 ^ 32 := by
  induction bs generalizing c with
  | nil => exact h
  | cons b t ih => exact ih (crcBits_small 8 (Nat.xor_lt_two_pow h (Nat.lt_trans b.isLt (by decide))))

theorem crc32c_small (bs : List Byte) : crc32c bs < 2 ^ 32 := Nat.xor_lt_two_pow (crcRun_small bs (by decide)) (by decide)

theorem leNat_zeros (n : Nat) : leNat (List.replicate n 0) = 0 := by
  induction n with
  | zero => rfl
  | succ n h => rw [List.replicate_succ, leNat, h]; rfl

/-- The bytes of the record. -/
theorem recorded_bytes (gen pos k n : Nat) (h : ((recorded gen pos k).mem.dropWhile fun c => decide (c.1 < 0x400000)) =
    (List.range 4).map fun i => (0x400004 + i, BitVec.ofNat 8 (k / 256 ^ i % 256))) :
    (recorded gen pos k).pread 0x400000 (8 + n) = [0, 0, 0, 0] ++ leBytes 4 k ++ List.replicate n 0 := by
  rw [State.pread, memRead, h, Nat.add_comm]
  have e : leBytes 4 k = (List.range 4).map fun i => BitVec.ofNat 8 (k / 256 ^ i % 256) := by
    simp [leBytes, List.range_succ, Nat.div_div_eq_div_mul]
  rw [e]
  simp [readRun, List.range_succ, readRun_nil, memDefault]

/-- What a restore reads of it. -/
theorem recorded_reads (gen pos : Nat) {k : Nat} (hk : k < 2 ^ 32)
    (h : ((recorded gen pos k).mem.dropWhile fun c => decide (c.1 < 0x400000)) =
      (List.range 4).map fun i => (0x400004 + i, BitVec.ofNat 8 (k / 256 ^ i % 256)))
    (h1 : (recorded gen pos k).vread 0 0x200000 256 = .ok ((recorded gen pos k).pread 0x400000 (8 + 248)))
    (h2 : (recorded gen pos k).vread 0 0x200000 0x5100 = .ok ((recorded gen pos k).pread 0x400000 (8 + 20728))) :
    (recorded gen pos k).vreadNat 0 0x200000 256 = .ok (2 ^ 32 * k) ∧ recordBytes (2 ^ 32 * k) = some 0x5100 ∧
      (recorded gen pos k).vread 0 0x200000 0x5100 = .ok ([0, 0, 0, 0] ++ leBytes 4 k ++ List.replicate 20728 0) ∧
      recNat ([0, 0, 0, 0] ++ leBytes 4 k ++ List.replicate 20728 0) 4 4 = k ∧
      recNat ([0, 0, 0, 0] ++ leBytes 4 k ++ List.replicate 20728 0) 0 4 = 0 := by
  have hl : leNat (leBytes 4 k) = k := by
    simp only [leBytes, leNat, BitVec.toNat_ofNat]
    omega
  refine ⟨?_, ?_, h2.trans (by rw [recorded_bytes _ _ _ _ h]), ?_, ?_⟩
  · rw [State.vreadNat, h1, recorded_bytes _ _ _ _ h]
    have e : leNat ([0, 0, 0, 0] ++ leBytes 4 k ++ List.replicate 248 0) = 2 ^ 32 * k := by
      have hz := leNat_zeros 248
      simp only [leBytes, leNat, BitVec.toNat_ofNat, List.cons_append, List.nil_append, hz]
      simp
      omega
    rw [← e]; rfl
  · have hx : 2 ^ 32 * k < 2 ^ 64 := by omega
    generalize 2 ^ 32 * k = x at hx ⊢
    have e (o : Nat) (ho : 64 ≤ o) (n : Nat) : bitsAt x o n = 0 := by
      rw [bitsAt, Nat.shiftRight_eq_div_pow, Nat.div_eq_of_lt, Nat.zero_mod]
      exact Nat.lt_of_lt_of_le hx (Nat.pow_le_pow_right (by decide) ho)
    simp [recordBytes, e]
  · rw [recNat]
    have : (([0, 0, 0, 0] ++ leBytes 4 k ++ List.replicate 20728 (0 : Byte)).drop 4).take 4 = leBytes 4 k := by
      generalize List.replicate 20728 (0 : Byte) = z
      simp [leBytes]
    rw [this, hl]
  · rw [recNat]
    have : (([0, 0, 0, 0] ++ leBytes 4 k ++ List.replicate 20728 (0 : Byte)).drop 0).take 4 = [0, 0, 0, 0] := by
      generalize List.replicate 20728 (0 : Byte) = z
      simp
    rw [this]; rfl

theorem witness_CheckpointOperationsRun :
    (sealed1.takesWrites .CX R.CX_CKPT_OP_OP.off = true ∧ (1 : Nat) = bitsAt (opWord 1).toNat R.CX_CKPT_OP_OP.lo R.CX_CKPT_OP_OP.wid ∧
      (3 : Nat) = bitsAt (opWord 3).toNat R.CX_CKPT_OP_OP.lo R.CX_CKPT_OP_OP.wid ∧
      0x1000 = 64 * bitsAt (opWord 1).toNat R.CX_CKPT_OP_ADDR.lo R.CX_CKPT_OP_ADDR.wid ∧
      (sealed1.setFlag R.CX_CKPT_OPSTAT_BUSY true).flag R.CX_CKPT_OPSTAT_BUSY 0 = true) ∧
    (∃ b, b = 1 + 2 ^ 128 * 0x200000 ∧ okIs (sealed1.vreadNat 0 0x1000 64) b = true ∧ sealed1.flag R.CX_CKPT_OPSTAT_BUSY 0 = false ∧
      sealed1.cxState 0 ≠ 0 ∧ bitsAt b 32 96 = 0 ∧ bitsAt b 176 336 = 0 ∧ bitsAt b 0 32 = sealed1.rd R.CX_CKPT_STAT_SEALED 0 ∧
      bitsAt b 0 32 ≠ 0 ∧ (sealed1.cx 0).ckpt.snap (bitsAt b 0 32) = [] ∧ isOk (sealed1.vwrite 0 (bitsAt b 128 48) []) = true) ∧
    (∃ s : State, s = striped [(0, 0), (1, 0), (2, 0), (3, 0)] ∧ okIs (s.vreadNat 0 0x1000 64) 0 = true ∧ s.cxState 0 = 3 ∧
      s.flag R.CX_CKPT_CTL_EN 0 = true ∧ 0 < (s.cx 0).ckpt.group.length ∧ isOk (s.imageNow 0) = true ∧
      s.imageSends 0 0 [none, none, none] (fun h => h != (s.cx 0).ckpt.rank && h != 0) ≠ []) ∧
    (∃ s : State, s = striped [(0, 0)] ∧ 0 < (s.cx 0).ckpt.group.length ∧
      s.imageSends 0 0 [none, none, none] (fun h => h != (s.cx 0).ckpt.rank && h != 0) = []) ∧
    (∃ s : State, s = operand State.reset 0 ∧ s.flag R.CX_CKPT_OPSTAT_BUSY 0 = false ∧ s.cxState 0 = 0) := by
  refine ⟨by decide +kernel, ⟨_, rfl, by decide +kernel⟩, ⟨_, rfl, by decide +kernel⟩, ⟨_, rfl, by decide +kernel⟩, ⟨_, rfl, by decide +kernel⟩⟩

/-- The checksum of the record. -/
def theCrc : Nat := crc32c cleared

theorem theCrc_small : theCrc < 2 ^ 32 := crc32c_small _

/-- The bytes of a record with a checksum. -/
def recordWith (k : Nat) : List Byte := [0, 0, 0, 0] ++ leBytes 4 k ++ List.replicate 20728 0

theorem recordWith_cleared (k : Nat) : (recordWith k).take 4 ++ leBytes 4 0 ++ (recordWith k).drop 8 = cleared := by
  unfold recordWith cleared
  generalize List.replicate 20728 (0 : Byte) = z
  simp [leBytes]

/-- The state in which a record at 0x200000 can be asked for. -/
def askable (s : State) (b : Nat) : Bool :=
  s.takesWrites .CX R.CX_CKPT_OP_OP.off && !s.flag R.CX_CKPT_OPSTAT_BUSY 0 && okIs (s.vreadNat 0 0x1000 64) b && s.cxState 0 == 1 &&
    !(s.cx 0).resident && s.flag R.CX_CKPT_CTL_EN 0 && bitsAt b 32 32 == 0 && bitsAt b 176 336 == 0 && bitsAt b 128 48 == 0x200000 &&
    (match s.bindings 0 with | .ok [] => true | _ => false)

/-- A record of another generation than the one asked for; one that fits; one of another data position. -/
theorem witness_RestoresCheckRecords :
    (askable (recorded 1 0 0) (1 + 2 ^ 128 * 0x200000) = true ∧ ∃ h n r, (recorded 1 0 0).vreadNat 0 0x200000 256 = .ok h ∧
      recordBytes h = some n ∧ (recorded 1 0 0).vread 0 0x200000 n = .ok r ∧ recNat r 0 4 ≠ 1) ∧
    (∀ pos : Nat, pos = 0 ∨ pos = 1 → askable (recorded 0 pos theCrc) (2 ^ 64 * pos + 2 ^ 128 * 0x200000) = true ∧
      ∃ h n r, (recorded 0 pos theCrc).vreadNat 0 0x200000 256 = .ok h ∧ recordBytes h = some n ∧
      (recorded 0 pos theCrc).vread 0 0x200000 n = .ok r ∧ crc32c (r.take 4 ++ leBytes 4 0 ++ r.drop 8) = recNat r 4 4 ∧ recNat r 0 4 = 0 ∧
      (recorded 0 pos theCrc).mismatch 0 pos r [] = (pos == 1) ∧ (pos = 0 → isOk ((recorded 0 pos theCrc).restoreMemory 0 pos r []) = true)) := by
  refine ⟨⟨by decide +kernel, ?_⟩, ?_⟩
  · obtain ⟨h1, h2, h3, -, h5⟩ := recorded_reads 1 0 (k := 0) (by decide) (by decide +kernel) rfl rfl
    exact ⟨_, _, _, h1, h2, h3, by rw [h5]; decide⟩
  · rintro pos (rfl | rfl)
    · refine ⟨by decide +kernel, ?_⟩
      obtain ⟨h1, h2, h3, h4, h5⟩ := recorded_reads 0 0 theCrc_small rfl rfl rfl
      refine ⟨_, _, _, h1, h2, h3, ?_, h5, by decide +kernel, fun _ => by decide +kernel⟩
      rw [h4]
      exact congrArg crc32c (recordWith_cleared theCrc)
    · refine ⟨by decide +kernel, ?_⟩
      obtain ⟨h1, h2, h3, h4, h5⟩ := recorded_reads 0 1 theCrc_small rfl rfl rfl
      refine ⟨_, _, _, h1, h2, h3, ?_, h5, by decide +kernel, fun h => by cases h⟩
      rw [h4]
      exact congrArg crc32c (recordWith_cleared theCrc)

-- The host port.

/-- The DMA queue with one descriptor: host address 0, a device address, bits from 112 on, and a number of bytes. -/
def queued1 (dev bits bytes : Nat) : State :=
  let s := ((State.reset.setFlag R.PX_DMA_RING_EN true).wr R.PX_DMA_PTRS_TAIL 1).wr R.PX_DMA_RING_LOG2_SIZE 4
  s.pwriteNat 0 32 (2 ^ 64 * dev + 2 ^ 112 * bits + 2 ^ 128 * bytes)

/-- The descriptor can be taken up, and reads as a number. -/
def taken (s : State) (d : Nat) : Bool :=
  s.dmaBusy && s.rd R.MGT_START_STATE == 2 && !s.flag R.DBG_CUT_STAT_CUT && !s.recd.stopped && s.regsWf &&
    s.inNear (s.rdAddr R.PX_DMA_RING_BASE + 32 * (s.rd R.PX_DMA_PTRS_HEAD % s.dmaSize)) 32 &&
    s.badIn (s.rdAddr R.PX_DMA_RING_BASE + 32 * (s.rd R.PX_DMA_PTRS_HEAD % s.dmaSize)) 32 == none &&
    s.preadNat (s.rdAddr R.PX_DMA_RING_BASE + 32 * (s.rd R.PX_DMA_PTRS_HEAD % s.dmaSize)) 32 == d

theorem witness_DmaMovesBytes :
    (let s := queued1 0 0 0
     s.takesWrites .PX R.PX_DMA_PTRS_TAIL.off = true ∧ s.flag R.PX_DMA_RING_EN = true ∧ s.dmaSize = 16 ∧
      (2 ^ 32 + 16 - s.rd R.PX_DMA_PTRS_TAIL) % 2 ^ 32 ≤ s.dmaSize ∧ (2 ^ 32 + 16 - s.rd R.PX_DMA_PTRS_HEAD) % 2 ^ 32 ≤ s.dmaSize ∧
      s.dmaSize < (2 ^ 32 + 17 - s.rd R.PX_DMA_PTRS_HEAD) % 2 ^ 32 ∧
      16 = bitsAt (BitVec.ofNat 64 (16 * 2 ^ R.PX_DMA_PTRS_TAIL.lo)).toNat R.PX_DMA_PTRS_TAIL.lo 32) ∧
    (State.reset.takesWrites .PX R.PX_DMA_RING_EN.off = true ∧ State.reset.flag R.PX_DMA_RING_EN = false ∧
      (BitVec.ofNat 64 (2 ^ R.PX_DMA_RING_EN.lo)).getLsbD R.PX_DMA_RING_EN.lo = true ∧ State.reset.regsWf = true) ∧
    (taken (queued1 0x1000 4 1) (2 ^ 64 * 0x1000 + 2 ^ 112 * 4 + 2 ^ 128) = true ∧
      bitsAt (2 ^ 64 * 0x1000 + 2 ^ 112 * 4 + 2 ^ 128) 114 14 ≠ 0) ∧
    (taken (queued1 0x1000 2 64) (2 ^ 64 * 0x1000 + 2 ^ 112 * 2 + 2 ^ 128 * 64) = true ∧ (queued1 0x1000 2 64).dmaRange 0x1000 64 = true ∧
      (queued1 0x1000 2 64).badIn 0x1000 64 = none ∧ bitAt (2 ^ 64 * 0x1000 + 2 ^ 112 * 2 + 2 ^ 128 * 64) 112 = false) ∧
    (taken (queued1 0x1000 1 2) (2 ^ 64 * 0x1000 + 2 ^ 112 + 2 ^ 128 * 2) = true ∧ (queued1 0x1000 1 2).dmaRange 0x1000 2 = true ∧
      (queued1 0x1000 1 2).badMerge 0x1000 2 = none ∧ (queued1 0x1000 1 2).badMerge 0x1000 0 = none ∧
      bitAt (2 ^ 64 * 0x1000 + 2 ^ 112 + 2 ^ 128 * 2) 112 = true) := by decide +kernel

/-- The device with the last bytes of the near tier beyond the window's reach, and one uncorrectable block. -/
def windowed (bad : List Nat) : State := { State.reset with bad := bad }

/-- Vector 2047 masked and pending. -/
def lastVector : State :=
  (State.reset.setFlag R.MSIX_CTRL_MASK true 0 2047).setWord (R.MSIX_PBA_PENDING.addr 0 31) (BitVec.ofNat 64 (2 ^ 63))

theorem witness_TheHostFunctionAnswers :
    (let s := windowed []
     s.answers = true ∧ s.rd R.MGT_START_STATE = 2 ∧ 0 + 8 ≤ 0x1000000000 ∧ s.flag R.DBG_CUT_STAT_CUT = false ∧
      s.badIn (s.rdAddr R.PX_BAR4_WIN_BASE + 0) (min 8 (s.nearBytes - (s.rdAddr R.PX_BAR4_WIN_BASE + 0))) = none ∧
      s.badMerge (s.rdAddr R.PX_BAR4_WIN_BASE + 0) (min 8 (s.nearBytes - (s.rdAddr R.PX_BAR4_WIN_BASE + 0))) = none) ∧
    (let s := windowed [0]
     s.badIn (s.rdAddr R.PX_BAR4_WIN_BASE + 0) (min 8 (s.nearBytes - (s.rdAddr R.PX_BAR4_WIN_BASE + 0))) = some 0 ∧
      s.badMerge (s.rdAddr R.PX_BAR4_WIN_BASE + 0) (min 8 (s.nearBytes - (s.rdAddr R.PX_BAR4_WIN_BASE + 0))) = some 0) ∧
    (lastVector.takesWrites .MSIX (8 + 16 * (2047 : Fin 2048).val) = true ∧ lastVector.canon = true ∧
      lastVector.flag R.MSIX_CTRL_MASK 0 (2047 : Fin 2048) = true ∧ lastVector.vectorPending (2047 : Fin 2048) = true ∧
      (0#64).getLsbD R.MSIX_CTRL_MASK.lo = false) ∧
    (State.reset.rd R.MGT_START_STATE ≠ 0 ∧ State.reset.recd.stopped = false) := by decide +kernel

theorem witness_TheBoardControllerCommands :
    (State.reset.i3cUp = true ∧ (State.reset.setFlag R.MGT_I3C_ASSIGNED true).flag R.MGT_I3C_ASSIGNED = true ∧
      (State.reset.setFlag R.MGT_I3C_ASSIGNED true).i3cUp = true ∧ State.reset.regsWf = true) ∧
    (1500 ≤ (3300#16).toNat ∧ (3300#16).toNat ≤ 3300 ∧ 1500 ≤ (1500#16).toNat) ∧
    (State.reset.rd R.MGT_START_STATE = 2 ∧ State.reset.flag R.DBG_CUT_STAT_CUT = false ∧ State.reset.cutNowActed = false) ∧
    ((State.reset.wr R.MGT_START_STATE 4).rd R.MGT_START_STATE ≠ 2 ∧ (State.reset.wr R.MGT_START_STATE 4).rd R.MGT_START_STATE ≠ 3 ∧
      (State.reset.wr R.MGT_START_STATE 4).i3cUp = true) ∧
    (let s := (State.reset.setFlag R.MGT_I3C_ASSIGNED true).wr R.MGT_I3C_LAST_CMD 5
     s.rd R.MGT_START_STATE < 3 ∧ (s.enterSafe 0 2).rd R.MGT_START_STATE = 3) ∧
    (0x5AFF#16 ≠ 0x5AFE#16 ∧ 0x57A6#16 ≠ 0x57A7#16) := by decide +kernel

-- Results that the manual works out.

/-- The numbers of the example after R63, in eighths and fifths made exact: 7.0, 2.6, −0.2, 0.25, 1.25, 5.0 as FP32 values. -/
def fp4Block : List FV :=
  [.num false 7 0, ofFp32 0x40266666, ofFp32 0xBE4CCCCD, .num false 1 (-2), .num false 5 (-2), .num false 5 0] ++ List.replicate 26 fzero

/-- R60 to R63: scale byte 0x7F, and the six codes of the example. -/
theorem test_fp4_block :
    (blockScale .e2m1 fp4Block).1 = 0x7F ∧ ((fp4Block.take 6).map fun x => (encodeScaled .e2m1 false 0x7F x).1) = [7, 5, 8, 0, 2, 6] := by
  decide +kernel

/-- The same example: 28 zeros and one saturation. -/
theorem test_fp4_counts :
    (fp4Block.foldl (fun c x => c.add (encodeScaled .e2m1 false 0x7F x).2) ({} : Counts)).zero = 28 ∧
    (fp4Block.foldl (fun c x => c.add (encodeScaled .e2m1 false 0x7F x).2) ({} : Counts)).sat = 1 := by decide +kernel

/-- R30: 3 × 2^−10 is written as LV8 code 0x3D. -/
theorem test_lv8_nearest : (encodeScaled .lv8 false 0x7F (.num false 3 (-10))).1 = 0x3D := by decide +kernel

/-- The worked accumulation of R39 to R45: 2.25 and 37 × 2^−31 under A = 9, on both grids. -/
theorem test_accumulation :
    (addPartial false false 9 9 (-2)).1 + (addPartial false false 9 37 (-31)).1 = 0x009000001280000000000000 ∧
    (addPartial true false 9 9 (-2)).1 + (addPartial true false 9 37 (-31)).1 = 0x009000001000000000000000 := by decide +kernel

/-- The table of roundings after it. -/
theorem test_grid_roundings :
    ([7, 16, 37, 48, 80, -48].map fun q => (roundPartial q (-31) (-26)).1) = [0, 0, 1, 2, 2, -2] := by decide +kernel

/-- R52: the ES32 block of the example has d = 4, n0 = 0x68000000, n1 = 0xFB000000, and one window-low count. -/
theorem test_es32_block :
    (let f := es32Form ([⟨13, -7⟩, ⟨-5, -10⟩, ⟨3, -40⟩] ++ List.replicate 29 ⟨0, 0⟩) 0
     f.2.1 = 4 ∧ f.1.take 3 = [0x68000000, -0x05000000, 0] ∧ f.2.2.1 = 1 ∧ f.2.2.2 = 0 ∧
      leNat ((es32Block f.1 f.2.1 0 1).drop 128) = 0x00010004) := by decide +kernel

/-- R137: the token of the example is 2, and with top-k 2 it is 1. -/
theorem test_sample_tokens :
    (let row := [fnat 2, fnat 2, fnat 2, fneg (fnat 200)]
     sampleRow fone 0 fone 0xC0000000 row = 2 ∧ sampleRow fone 2 fone 0xC0000000 row = 1) := by decide +kernel

/-- R115: of generated row 5, element 200 is source row 17, column 8; element 8 of row 0 is padding. -/
theorem test_conv_element :
    (let v : Conv := ⟨8, 8, 3, 3, 2, 2, 1, 1, 1, 1, 1, 1, 1, 1⟩
     v.outH = 4 ∧ v.outW = 4 ∧ v.locate 64 5 200 = some (17, 8) ∧ v.locate 64 0 8 = none) := by decide +kernel

/-- R189: the residue of the example, −1.25 steps of 2^−15 below 1.0, is written as −1 or −2, and no saturation counts. -/
theorem test_residue_write :
    (let q := udResidue ⟨0, 0, 1, 0, ⟨fone, fone, fone, fone, fone, 0, false⟩, fone, fone, fone, fone, fone, fone⟩ 0 0x3F80 (.num false 131067 (-17))
     (q.1 = 0xFF ∨ q.1 = 0xFE) ∧ q.2 = 0) := by decide +kernel

/-- R207 to R209: address 0x12345680 of the full map lies on NC173 at 0x184680, and 0x12345800 on NC174. -/
theorem test_channel_map :
    (interleave 0x12345680 192 = (173, 0x184680)) ∧ (interleave 0x12345800 192).1 = 174 := by decide +kernel

/-- R70: with RISE_AFTER 2,000 the clean verdicts of the example raise S from 12 to 13, and the skip lowers it. -/
theorem test_loss_scale :
    (let s := ((learner.setScale 0 12).wr R.CX_LEARN_CLEAN_RUN 1998 0).wr R.CX_LEARN_SKIPS 3 0
     let s := (s.cleaned 0).cleaned 0
     s.lossScale 0 = 13 ∧ s.rd R.CX_LEARN_CLEAN_RUN 0 = 0 ∧ (s.skipped 0).lossScale 0 = 12 ∧ (s.skipped 0).rd R.CX_LEARN_SKIPS 0 = 4) := by
  decide +kernel

/-- R416, R417: CX3 is block index 134. -/
theorem test_block_index : blkIndex .CX + 3 = 134 := by decide

/-- R126: a NOP at HEAD completes, and HEAD counts. -/
theorem test_nop_head : (after (exec (.nop 0) (ready []))).rd R.SP_PTRS_HEAD 0 = 1 := by decide +kernel

/-- R405, R6: a write of 4 bytes to the upper half of a register leaves the lower half. -/
theorem test_half_write :
    (let t := after (exec (.registerWrite (R.CX_ACCORD_BASE.addr 3 + 4) 4 1#64) State.reset)
     t.word (R.CX_ACCORD_BASE.addr 3) % 0x100000000#64 = 0) := by decide +kernel

end Sys2Proof.Tests
end

section
/-! PROOF. Rings and doorbells (R121, R123): how a list of register fields reads after it was written, what the host's writes
to a stream processor come to, and the obligation RingsAndDoorbells. -/

namespace Sys2Proof.Machine

-- Fields of one block instance, written in order.

/-- Write fields of instance `n`, each with its value, in order. -/
def State.wrAll (s : State) (l : List (Fld × Nat)) (n : Nat) : State := l.foldl (fun s p => s.wr p.1 p.2 n) s

@[simp] theorem wrAll_cons (s : State) (p : Fld × Nat) (l : List (Fld × Nat)) (n : Nat) :
    s.wrAll (p :: l) n = (s.wr p.1 p.2 n).wrAll l n := rfl

/-- Writing fields changes neither commands nor memory. -/
@[simp] theorem wrAll_keeps (s : State) (l : List (Fld × Nat)) (n : Nat) :
    (s.wrAll l n).cmds = s.cmds ∧ (s.wrAll l n).mem = s.mem := by
  induction l generalizing s with
  | nil => exact ⟨rfl, rfl⟩
  | cons p l ih => simpa using ih (s.wr p.1 p.2 n)

/-- What the registers become by writing fields depends on the registers alone. -/
theorem wrAll_regs_congr {s t : State} (h : s.regs = t.regs) (l : List (Fld × Nat)) (n : Nat) :
    (s.wrAll l n).regs = (t.wrAll l n).regs := by
  induction l generalizing s t with
  | nil => exact h
  | cons p l ih =>
    refine ih ?_
    unfold State.wr
    rw [State.setWord_regs, State.setWord_regs, word_congr h, h]

/-- Writing fields leaves every register that holds none of them as it was. -/
theorem wrAll_word_ne {s : State} (h : s.regsWf = true) {l : List (Fld × Nat)} {n a : Nat} (ha : ∀ p ∈ l, a ≠ p.1.addr n) :
    (s.wrAll l n).word a = s.word a := by
  induction l generalizing s with
  | nil => rfl
  | cons p l ih =>
    obtain ⟨hp, hl⟩ := List.forall_mem_cons.1 ha
    exact (ih (wr_regsWf h _ _ _ _) hl).trans (setWord_word_ne h _ hp)

/-- Writing fields leaves a field of the instance that shares no bit with them as it was. -/
theorem wrAll_rd_away {s : State} (h : s.regsWf = true) {l : List (Fld × Nat)} {g : Fld} {n : Nat}
    (hok : ∀ p ∈ l, p.1.ok = true) (ha : ∀ p ∈ l, p.1.away g = true) : (s.wrAll l n).rd g n = s.rd g n := by
  induction l generalizing s with
  | nil => rfl
  | cons p l ih =>
    obtain ⟨hp, hl⟩ := List.forall_mem_cons.1 hok
    obtain ⟨hpg, hlg⟩ := List.forall_mem_cons.1 ha
    exact (ih (wr_regsWf h _ _ _ _) hl hlg).trans (wr_rd_away h hp hpg _ _ _ _)

/-- Of fields that share no bit, each reads back what was written to it, in its width. -/
theorem wrAll_rd_mem {s : State} (h : s.regsWf = true) {l : List (Fld × Nat)} {f : Fld} {v n : Nat} (hok : ∀ p ∈ l, p.1.ok = true)
    (ha : l.Pairwise fun p q => q.1.away p.1 = true) (hm : (f, v) ∈ l) : (s.wrAll l n).rd f n = v % 2 ^ f.wid := by
  induction l generalizing s with
  | nil => exact absurd hm List.not_mem_nil
  | cons p l ih =>
    obtain ⟨hp, hl⟩ := List.forall_mem_cons.1 hok
    obtain ⟨hpl, hll⟩ := List.pairwise_cons.1 ha
    rcases List.mem_cons.1 hm with rfl | hm
    · exact (wrAll_rd_away (wr_regsWf h _ _ _ _) hl hpl).trans (wr_rd_same h hp _ _ _)
    · exact ih (wr_regsWf h _ _ _ _) hl hll hm

-- The host's writes of 8 bytes.

/-- A write of 8 bytes gives every field its bits. -/
theorem hw8_get {f : Fld} (hf : f.lo + f.wid ≤ 64) (v : Nat) : (hw8 v).get f = some (bitsAt v f.lo f.wid) :=
  if_pos ⟨Nat.zero_le _, by simpa [hw8] using hf⟩

/-- A write of 8 bytes puts 1 into a one-bit field where its bit is 1. -/
theorem hw8_one {f : Fld} (hf : f.lo + 1 ≤ 64) (hw : f.wid = 1) (v : Word) : (hw8 v.toNat).one f = v.getLsbD f.lo := by
  have hbit : bitsAt v.toNat f.lo 1 = (v.toNat.testBit f.lo).toNat := by
    rw [bitsAt, Nat.toNat_testBit, Nat.shiftRight_eq_div_pow, Nat.pow_one]
  rw [HW.one, hw8_get (hw ▸ hf), hw, hbit, BitVec.getLsbD]
  cases v.toNat.testBit f.lo <;> rfl

/-- A write that the device takes is made. -/
theorem hostGate_taken {s : State} {b : Blk} {n o : Nat} (h : s.takesWrites b o = true) (f : State → State) :
    s.hostGate b n o f = f s := if_pos h

/-- The blocks below the stream processors in BAR0 (R417). -/
def blksBelowSp : List Blk :=
  [.MGT, .PX, .PWR, .TSU, .BST, .NT, .NCACHE, .XLT, .CE, .UD, .SEC, .PMC, .CAST, .DBG, .REC, .MSIX, .MA]

theorem blksBelowSp_end : ∀ b ∈ blksBelowSp,
    blkBase b + (if blkStride b = 0 then blkSize b else blkStride b) * blkCount b ≤ blkBase .SP := by decide

/-- The registers of a stream processor in BAR0 (R417). -/
theorem blockAt_sp (sp : Fin 32) {o : Nat} (ho : o < 0x1000) :
    blockAt (blkBase .SP + blkStride .SP * sp + o) = some (.SP, sp.val) := by
  have := sp.isLt
  have hbase : blkBase .SP = 0x1200000 := rfl
  have hstride : blkStride .SP = 0x1000 := rfl
  have hend : (if blkStride .SP = 0 then blkSize .SP else blkStride .SP) * blkCount .SP = 0x20000 := rfl
  refine Option.map_eq_some_iff.2 ⟨.SP, List.find?_eq_some_iff_append.2 ⟨?_, blksBelowSp, [.LK, .CX], rfl, fun b hb => ?_⟩, ?_⟩
  · rw [Bool.and_eq_true, decide_eq_true_eq, decide_eq_true_eq, hend, hbase, hstride]
    omega
  · have := blksBelowSp_end b hb
    rw [Bool.not_eq_true', Bool.and_eq_false_iff, decide_eq_false_iff_not, decide_eq_false_iff_not]
    omega
  · rw [if_neg (by decide), hbase, hstride]
    congr 1
    omega

/-- An aligned REGISTER_WRITE of 8 bytes that a stream processor takes. -/
theorem registerWrite_sp {s : State} (sp : Fin 32) {o : Nat} (ho : o < 0x1000) (h8 : o % 8 = 0)
    (h : s.takesWrites .SP o = true) (v : Word) :
    exec (.registerWrite (blkBase .SP + blkStride .SP * sp + o) 8 v) s = .next (blockWrite s .SP sp o (hw8 v.toNat)) := by
  have hal : (blkBase .SP + blkStride .SP * sp + o) % 8 = 0 := by
    simp only [blkBase, blkStride]
    omega
  have hw : hwOf (blkBase .SP + blkStride .SP * sp + o) 8 v.toNat = some (hw8 v.toNat) := by
    rw [hwOf, if_pos ⟨rfl, hal⟩, Nat.mod_eq_of_lt v.isLt, hw8]
  have hoff : blkBase .SP + blkStride .SP * sp + o - blkBase .SP - blkStride .SP * sp = o := by omega
  show Host.Outcome.next (hostWrite s _ 8 v.toNat) = _
  rw [hostWrite, hw, Nat.div_mul_cancel (Nat.dvd_of_mod_eq_zero hal), blockAt_sp sp ho]
  simp only [hoff, hostGate_taken h]

-- Doorbells (R121, R123).

/-- A ring holds a power of two of commands: that of LOG2_SIZE, or of 6 where it lies outside 6 to 20. -/
theorem ringSize_eq_two_pow (s : State) (n : Nat) :
    s.ringSize n = 2 ^ (if 6 ≤ s.rd R.SP_RING_CTL_LOG2_SIZE n ∧ s.rd R.SP_RING_CTL_LOG2_SIZE n ≤ 20 then
      s.rd R.SP_RING_CTL_LOG2_SIZE n else 6) := by
  simp only [State.ringSize]
  split <;> rfl

theorem bellOk_iff (s : State) (n v : Nat) :
    s.bellOk n v = true ↔ s.flag R.SP_RING_CTL_EN n = true ∧ (2 ^ 32 + v - s.rd R.SP_PTRS_TAIL n) % 2 ^ 32 ≤ s.ringSize n ∧
      (2 ^ 32 + v - s.rd R.SP_PTRS_HEAD n) % 2 ^ 32 ≤ s.ringSize n := by
  simp only [State.bellOk, Bool.and_eq_true, decide_eq_true_eq, and_assoc]

/-- A doorbell that is accepted moves TAIL. -/
theorem doorbell_accepted {s : State} {sp : Fin 32} {v : BitVec 32} (ht : s.takesWrites .SP 0x10 = true)
    (hb : s.bellOk sp v.toNat = true) : exec (.doorbell sp v) s = .next (s.wr R.SP_PTRS_TAIL v.toNat sp).settle := by
  show Host.Outcome.next (s.hostGate .SP sp 0x10 fun s => ringBell s sp v.toNat) = _
  rw [hostGate_taken ht, ringBell, if_pos hb]

/-- A doorbell that is not accepted sets BAD_DOORBELL. -/
theorem doorbell_ignored {s : State} {sp : Fin 32} {v : BitVec 32} (ht : s.takesWrites .SP 0x10 = true)
    (hb : ¬ s.bellOk sp v.toNat = true) : exec (.doorbell sp v) s = .next (s.setFlag R.SP_STATUS_BAD_DOORBELL true sp) := by
  show Host.Outcome.next (s.hostGate .SP sp 0x10 fun s => ringBell s sp v.toNat) = _
  rw [hostGate_taken ht, ringBell, if_neg hb]

-- The enabling of a ring (R120, R123, R446).

/-- What the write that sets EN of a ring gives the other fields of RING_CTL. -/
def bindWrites (v : Nat) : List (Fld × Nat) :=
  [(R.SP_RING_CTL_CX, bitsAt v 1 4), (R.SP_RING_CTL_LOG2_SIZE, bitsAt v 5 5), (R.SP_RING_CTL_VECTOR, bitsAt v 10 11)]

/-- What the start of a ring writes. -/
def startWrites : List (Fld × Nat) :=
  [(R.SP_RING_CTL_EN, 1), (R.SP_PTRS_HEAD, 0), (R.SP_PTRS_TAIL, 0), (R.SP_STATUS_FAULTED, 0), (R.SP_STATUS_FAULT_CODE, 0),
   (R.SP_STATUS_FAULT_INDEX, 0)]

/-- The fields of both, in order. -/
def ringFields : List Fld :=
  [R.SP_RING_CTL_CX, R.SP_RING_CTL_LOG2_SIZE, R.SP_RING_CTL_VECTOR, R.SP_RING_CTL_EN, R.SP_PTRS_HEAD, R.SP_PTRS_TAIL,
   R.SP_STATUS_FAULTED, R.SP_STATUS_FAULT_CODE, R.SP_STATUS_FAULT_INDEX]

theorem ringWrites_fst (v : Nat) : (bindWrites v ++ startWrites).map Prod.fst = ringFields := rfl

/-- The state that the write that sets EN of a ring settles. -/
def State.ringEnabled (s : State) (n v : Nat) : State := (s.ringBind n (hw8 v)).ringStart n

theorem puts_bindWrites (s : State) (n v : Nat) :
    s.puts (hw8 v) [R.SP_RING_CTL_CX, R.SP_RING_CTL_LOG2_SIZE, R.SP_RING_CTL_VECTOR] n = s.wrAll (bindWrites v) n := by
  simp [State.puts, State.put, hw8_get, State.wrAll, bindWrites, R.SP_RING_CTL_CX, R.SP_RING_CTL_LOG2_SIZE, R.SP_RING_CTL_VECTOR]

/-- The binding of a ring writes its fields, and changes no command and no memory. -/
theorem ringBind_spec (s : State) (n v : Nat) :
    (s.ringBind n (hw8 v)).regs = (s.wrAll (bindWrites v) n).regs ∧ (s.ringBind n (hw8 v)).cmds = s.cmds ∧
      (s.ringBind n (hw8 v)).mem = s.mem := by
  unfold State.ringBind
  rw [puts_bindWrites]
  dsimp only
  split <;> simp

/-- The start of a ring writes its fields and marks its processor. -/
theorem ringStart_eq (s : State) (n : Nat) : s.ringStart n = (s.wrAll startWrites n).setHeld n false := rfl

/-- The enabling of a ring writes its fields, and changes no command and no memory. -/
theorem ringEnabled_spec (s : State) (n v : Nat) :
    (s.ringEnabled n v).regs = (s.wrAll (bindWrites v ++ startWrites) n).regs ∧ (s.ringEnabled n v).cmds = s.cmds ∧
      (s.ringEnabled n v).mem = s.mem := by
  obtain ⟨hr, hc, hm⟩ := ringBind_spec s n v
  have happ : s.wrAll (bindWrites v ++ startWrites) n = (s.wrAll (bindWrites v) n).wrAll startWrites n := List.foldl_append
  rw [State.ringEnabled, ringStart_eq, State.setHeld, happ]
  simp [wrAll_regs_congr hr, hc, hm]

/-- A field that the enabling of a ring writes reads back. -/
theorem ringEnabled_rd {s : State} (h : s.regsWf = true) {f : Fld} {v x n : Nat} (hm : (f, x) ∈ bindWrites v ++ startWrites)
    (hx : x < 2 ^ f.wid) : (s.ringEnabled n v).rd f n = x := by
  have hok : ∀ f ∈ ringFields, f.ok = true := by decide
  have haway : ringFields.Pairwise fun f g => g.away f = true := by decide
  rw [← ringWrites_fst v] at hok haway
  rw [rd_congr (ringEnabled_spec s n v).1]
  exact (wrAll_rd_mem h (List.forall_mem_map.1 hok) (List.pairwise_map.1 haway) hm).trans (Nat.mod_eq_of_lt hx)

/-- The enabling of a ring changes no register beside RING_CTL, PTRS and STATUS of its processor. -/
theorem ringEnabled_word_ne {s : State} (h : s.regsWf = true) {n v a : Nat} (hc : a ≠ R.SP_RING_CTL_EN.addr n)
    (hp : a ≠ R.SP_PTRS_HEAD.addr n) (hs : a ≠ R.SP_STATUS_FAULTED.addr n) : (s.ringEnabled n v).word a = s.word a := by
  have ha : ∀ f ∈ ringFields, a ≠ f.addr n := by
    simp only [ringFields, List.forall_mem_cons]
    exact ⟨hc, hc, hc, hc, hp, hp, hs, hs, hs, List.forall_mem_nil _⟩
  rw [← ringWrites_fst v] at ha
  rw [word_congr (ringEnabled_spec s n v).1]
  exact wrAll_word_ne h (List.forall_mem_map (f := Prod.fst).1 ha)

/-- EN after a write of 8 bytes to RING_CTL. -/
theorem ringCtl_en_after (s : State) (n v : Nat) :
    (s.after (hw8 v) R.SP_RING_CTL_EN n == 1) = (hw8 v).one R.SP_RING_CTL_EN := by
  rw [State.after, HW.one, hw8_get (by decide)]
  rfl

/-- RING_ENABLE binds the ring and starts it. -/
theorem ringEnable_starts {s : State} {sp : Fin 32} {v : Word} (ht : s.takesWrites .SP 0x08 = true)
    (he : s.flag R.SP_RING_CTL_EN sp = false) (hv : v.getLsbD 0 = true) :
    exec (.ringEnable sp v) s = .next (s.ringEnabled sp v.toNat).settle := by
  have h1 : (hw8 v.toNat).one R.SP_RING_CTL_EN = true := (hw8_one (by decide) rfl v).trans hv
  show Host.Outcome.next (s.hostGate .SP sp 0x08 _) = _
  rw [hostGate_taken ht]
  simp only [ringCtlWrite, ringCtl_en_after, State.ringEnabled, he, h1]
  rfl

/-- RING_DISABLE clears EN. -/
theorem ringDisable_clears {s : State} {sp : Fin 32} {v : Word} (ht : s.takesWrites .SP 0x08 = true)
    (he : s.flag R.SP_RING_CTL_EN sp = true) (hv : v.getLsbD 0 = false) :
    exec (.ringDisable sp v) s = .next (s.setFlag R.SP_RING_CTL_EN false sp).settle := by
  have h1 : (hw8 v.toNat).one R.SP_RING_CTL_EN = false := (hw8_one (by decide) rfl v).trans hv
  show Host.Outcome.next (s.hostGate .SP sp 0x08 _) = _
  rw [hostGate_taken ht]
  simp only [ringCtlWrite, ringCtl_en_after, he, h1]
  rfl

/-- A write to RING_CTL that leaves EN at 1 changes no field. -/
theorem ringCtlWrite_enabled {s : State} {n : Nat} {v : Word} (he : s.flag R.SP_RING_CTL_EN n = true) (hv : v.getLsbD 0 = true) :
    ringCtlWrite s n (hw8 v.toNat) = s.settle := by
  have h1 : (hw8 v.toNat).one R.SP_RING_CTL_EN = true := (hw8_one (by decide) rfl v).trans hv
  simp only [ringCtlWrite, ringCtl_en_after, he, h1]
  rfl

/-- A write to RING_BASE is ignored while EN is 1. -/
theorem ringBaseWrite_enabled {s : State} {n : Nat} (he : s.flag R.SP_RING_CTL_EN n = true) (w : HW) : ringBaseWrite s n w = s :=
  if_pos he

/-- A processor whose EN is 0 dispatches nothing. -/
theorem canDispatch_disabled {s : State} {n : Nat} (he : s.flag R.SP_RING_CTL_EN n = false) : s.canDispatch n = false := by
  simp [State.canDispatch, he]

/-- Settles O31: a doorbell is accepted exactly under `bellOk`, the enabling write is a list of field writes that share no bit, and
while EN is 1 the other writes are dropped. -/
theorem ringsAndDoorbells : Obligations.RingsAndDoorbells := by
  unfold Obligations.RingsAndDoorbells
  refine ⟨?_, ?_⟩
  · rintro s sp v n ht rfl
    rw [← ringSize_eq_two_pow]
    refine ⟨fun he h1 h2 => doorbell_accepted ht ((bellOk_iff _ _ _).2 ⟨he, h1, h2⟩), fun hno => doorbell_ignored ht fun hb => ?_⟩
    obtain ⟨he, h1, h2⟩ := (bellOk_iff _ _ _).1 hb
    rcases hno with hno | hno | hno
    · simp [he] at hno
    · omega
    · omega
  · intro s sp v hs ht
    refine ⟨fun he hv => ?_, ringDisable_clears ht, fun he hv => ?_, fun he h0 => ?_, fun t => canDispatch_disabled⟩
    · refine ⟨s.ringEnabled sp v.toNat, ringEnable_starts ht he hv, ?_, ?_, ?_, ?_, ?_, ?_, ?_, ?_, ?_,
        (ringEnabled_spec s sp _).2.1, (ringEnabled_spec s sp _).2.2, fun a => ringEnabled_word_ne hs⟩
      · rw [State.flag, ringEnabled_rd hs (x := 1) (by simp [startWrites]) (by decide)]
        rfl
      · exact ringEnabled_rd hs (by simp [bindWrites]) (bitsAt_lt _ _ _)
      · exact ringEnabled_rd hs (by simp [bindWrites]) (bitsAt_lt _ _ _)
      · exact ringEnabled_rd hs (by simp [bindWrites]) (bitsAt_lt _ _ _)
      all_goals exact ringEnabled_rd hs (by simp [startWrites]) (Nat.two_pow_pos _)
    · exact (registerWrite_sp sp (o := 8) (by decide) rfl ht v).trans (congrArg _ (ringCtlWrite_enabled he hv))
    · exact (registerWrite_sp sp (o := 0) (by decide) rfl h0 v).trans (congrArg _ (ringBaseWrite_enabled he _))

end Sys2Proof.Machine
end

section
/-! PROOF. The limit and the ladder (R365 to R368): what a write to a limit comes to, what the test of a clamp episode can
change, the controller's three moves, and the obligation SamplesMoveTheLadder. -/

namespace Sys2Proof.Machine

-- A limit is written (R367).

/-- A limit is held in its range, and a CAP_CLAMP record tells of a value outside it. -/
theorem setLimit_eq (s : State) (f : Fld) (v : Nat) :
    s.setLimit f v = if heldLimit v = v then s.wr f (heldLimit v) else
      (s.wr f (heldLimit v)).reelEvent 0x0B (blkIndex .PWR) 0xFF (leBytes 2 v ++ leBytes 2 (heldLimit v)) := rfl

theorem heldLimit_lt (v : Nat) : heldLimit v < 2 ^ 16 := by
  unfold heldLimit
  omega

/-- Beside the field, a write to a limit only reports. -/
theorem reports_setLimit (s : State) (f : Fld) (v : Nat) : Reports (s.wr f (heldLimit v)) (s.setLimit f v) := by
  rw [setLimit_eq]
  exact .ite (.refl _) (reports_reelEvent _ _ _ _ _)

/-- The board's limit reads back as it is held. -/
theorem boardLimit_wr {s : State} (h : s.regsWf = true) (v : Nat) :
    (s.wr R.PWR_CAP_BOARD_LIMIT_W (heldLimit v)).rd R.PWR_CAP_BOARD_LIMIT_W = heldLimit v :=
  (wr_rd_same h (by decide) _ _ _).trans (Nat.mod_eq_of_lt (heldLimit_lt v))

/-- Reports change no field of a block beside PMC, DBG, REC and MSIX. -/
theorem Reports.rd {s t : State} (h : Reports s t) (hs : s.regsWf = true) {f : Fld} {n i : Nat}
    (ha : reportReg (f.addr n i) = false) : t.rd f n i = s.rd f n i := by
  unfold State.rd
  rw [h.word hs _ ha]

/-- CAP_HOST writes the host's limit. -/
theorem capHost_sets {s : State} (v : Word) (ht : s.takesWrites .PWR R.PWR_CAP_HOST_LIMIT_W.off = true) :
    exec (.capHost v) s = .next (s.setLimit R.PWR_CAP_HOST_LIMIT_W
      (bitsAt v.toNat R.PWR_CAP_HOST_LIMIT_W.lo R.PWR_CAP_HOST_LIMIT_W.wid)) := by
  show Host.Outcome.next (s.hostGate .PWR 0 R.PWR_CAP_HOST_LIMIT_W.off _) = _
  rw [hostGate_taken ht, capHostWrite, hw8_get (by decide)]

/-- A command of the board controller that reaches the device is noted and carried out. -/
theorem i3cCommand_taken {s : State} (hu : s.i3cUp = true) (ha : s.flag R.MGT_I3C_ASSIGNED = true) (byte : Nat)
    (f : State → State) : s.i3cCommand byte f = f (s.wr R.MGT_I3C_LAST_CMD byte) := by
  rw [State.i3cCommand, hu, ha]
  rfl

/-- SET_CAP writes the board's limit and replies with the limit held. -/
theorem setCap_replies {s : State} (x : BitVec 16) (h : s.regsWf = true) (hu : s.i3cUp = true)
    (ha : s.flag R.MGT_I3C_ASSIGNED = true) :
    exec (.setCap x) s = .next (((s.wr R.MGT_I3C_LAST_CMD 2).setLimit R.PWR_CAP_BOARD_LIMIT_W x.toNat).emit
      (.i3c (0 :: leBytes 2 (heldLimit x.toNat)))) := by
  have h2 : (s.wr R.MGT_I3C_LAST_CMD 2).regsWf = true := wr_regsWf h _ _ _ _
  have hrd := (reports_setLimit (s.wr R.MGT_I3C_LAST_CMD 2) R.PWR_CAP_BOARD_LIMIT_W x.toNat).rd (wr_regsWf h2 _ _ _ _)
    (f := R.PWR_CAP_BOARD_LIMIT_W) (n := 0) (i := 0) (by decide)
  show Host.Outcome.next (s.i3cCommand 0x02 (setCapNow x.toNat)) = _
  rw [i3cCommand_taken hu ha]
  unfold setCapNow
  dsimp only
  rw [hrd, boardLimit_wr h2]
  rfl

-- The window and the guards (R365, R366).

theorem sumOf_eq_sum (l : List Nat) : sumOf l = l.sum := List.sum_eq_foldl.symm

/-- The window at a sample: at most 2,000 samples, begun anew at a change of L. -/
theorem take_samples (p : Pwr) (l mw : Nat) :
    (p.take l mw).samples = if p.limit = l then (mw :: p.samples).take 2000 else [mw] := by
  unfold Pwr.take
  split <;> rfl

theorem take_limit (p : Pwr) (l mw : Nat) : (p.take l mw).limit = l := by
  unfold Pwr.take
  split
  · assumption
  · rfl

/-- The window's change touches neither the position, nor the run of low samples, nor the cues. -/
theorem take_keeps (p : Pwr) (l mw : Nat) :
    (p.take l mw).pos = p.pos ∧ (p.take l mw).under = p.under ∧ (p.take l mw).cues = p.cues := by
  unfold Pwr.take
  split <;> exact ⟨rfl, rfl, rfl⟩

theorem overGuard_iff (sum n inc l : Nat) : overGuard sum n inc l = true ↔ 31 * (1000 * l * n) ≤ 32 * (sum + inc * n) := by
  simp only [overGuard, decide_eq_true_eq, Nat.mul_assoc]

theorem underGuard_iff (sum n inc l : Nat) : underGuard sum n inc l = true ↔ 16 * (sum + inc * n) ≤ 15 * (1000 * l * n) := by
  simp only [underGuard, decide_eq_true_eq, Nat.mul_assoc]

-- The controller's move (R366).

/-- The run of samples with A at or below L less a sixteenth, with the one that joins it or ends it. -/
def Pwr.lowRun (p : Pwr) (sum n inc l : Nat) : Nat := if underGuard sum n inc l then p.under + 1 else 0

/-- The controller goes one position down. -/
def Pwr.goesDown (p : Pwr) (sum n inc l floor : Nat) : Bool := overGuard sum n inc l && decide (p.pos < floor)

theorem lowRun_eq (p : Pwr) (sum n inc l : Nat) :
    p.lowRun sum n inc l = if 16 * (sum + inc * n) ≤ 15 * (1000 * l * n) then p.under + 1 else 0 := by
  simp only [Pwr.lowRun, underGuard_iff]

theorem goesDown_iff (p : Pwr) (sum n inc l floor : Nat) :
    p.goesDown sum n inc l floor = true ↔ 31 * (1000 * l * n) ≤ 32 * (sum + inc * n) ∧ p.pos < floor := by
  rw [Pwr.goesDown, Bool.and_eq_true, overGuard_iff, decide_eq_true_eq]

/-- The position after a move. -/
def Pwr.nextPos (p : Pwr) (sum n inc l floor : Nat) : Nat :=
  if p.goesDown sum n inc l floor then p.pos + 1 else if 20 ≤ p.lowRun sum n inc l ∧ 0 < p.pos then p.pos - 1 else p.pos

/-- A move sets the run and the position. -/
theorem move_eq (p : Pwr) (sum n inc l floor : Nat) :
    p.move sum n inc l floor = { p with under := p.lowRun sum n inc l, pos := p.nextPos sum n inc l floor } := by
  have hmove : p.move sum n inc l floor =
      if p.goesDown sum n inc l floor then { p with pos := p.pos + 1, under := p.lowRun sum n inc l }
      else if decide (20 ≤ p.lowRun sum n inc l) && decide (0 < p.pos) then { p with pos := p.pos - 1, under := p.lowRun sum n inc l }
      else { p with under := p.lowRun sum n inc l } := rfl
  simp only [hmove, Pwr.nextPos, Bool.and_eq_true, decide_eq_true_eq]
  split
  · rfl
  · split <;> rfl

-- A sample (R364 to R368).

/-- Reports leave the cues in force and their increases as they were. -/
theorem Reports.cueIncrease {s t : State} (h : Reports s t) : t.cueIncrease = s.cueIncrease := by
  unfold State.cueIncrease State.clock
  rw [h.pwr, h.tsu]

/-- Reports leave OPMAX as it was. -/
theorem Reports.opmaxOf {s t : State} (h : Reports s t) (hs : s.regsWf = true) : t.opmaxOf = s.opmaxOf := h.rd hs (by decide)

/-- The test of a clamp episode sets its mark and reports. -/
theorem clampTest_reports (s : State) (sum n l : Nat) :
    ∃ c, Reports (s.updPwr fun p => { p with clamp := c }) (s.clampTest sum n l) := by
  unfold State.clampTest
  split
  · split
    · exact ⟨false, .refl _⟩
    · exact ⟨s.pwr.clamp, .refl s⟩
  · split
    · exact ⟨true, reports_reelEvent _ _ _ _ _⟩
    · exact ⟨s.pwr.clamp, .refl s⟩

/-- The power controller once a sample has joined the window and the test of a clamp episode has left its mark. -/
def State.sampled (s : State) (mw : Nat) (c : Bool) : Pwr := { s.pwr.take s.powerLimit mw with clamp := c }

theorem sampled_keeps (s : State) (mw : Nat) (c : Bool) :
    (s.sampled mw c).pos = s.pwr.pos ∧ (s.sampled mw c).under = s.pwr.under ∧ (s.sampled mw c).cues = s.pwr.cues :=
  take_keeps s.pwr s.powerLimit mw

/-- The window's change leaves the cues in force and their increases as they were. -/
theorem sampled_cueIncrease (s : State) (mw : Nat) (c : Bool) : { s with pwr := s.sampled mw c }.cueIncrease = s.cueIncrease := by
  obtain ⟨-, -, hcues⟩ := sampled_keeps s mw c
  show sumOf (((s.sampled mw c).cues.filter _).map _) = _
  rw [hcues]
  rfl

/-- A sample joins the window, may report a clamp episode, and then moves the ladder. -/
theorem powerSampleNow_eq (s : State) (mw : Nat) :
    ∃ c u, Reports { s with pwr := s.sampled mw c } u ∧ powerSampleNow s mw = u.updPwr fun p =>
      p.move (s.sampled mw c).samples.sum (s.sampled mw c).samples.length u.cueIncrease s.powerLimit (floorPos u.opmaxOf) := by
  obtain ⟨c, hc⟩ := clampTest_reports (s.updPwr fun p => p.take s.powerLimit mw)
    (sumOf (s.pwr.take s.powerLimit mw).samples) (s.pwr.take s.powerLimit mw).samples.length s.powerLimit
  refine ⟨c, _, hc, ?_⟩
  rw [← sumOf_eq_sum]
  rfl

/-- A sample moves the ladder by the window's sum and length and the cues in force; commands, messages, arrays and contexts
stay. -/
theorem powerSample_spec {s : State} (h : s.regsWf = true) (mw : Nat) :
    ∃ c, (powerSampleNow s mw).pwr = (s.sampled mw c).move (s.sampled mw c).samples.sum (s.sampled mw c).samples.length
        s.cueIncrease s.powerLimit (floorPos s.opmaxOf) ∧
      (powerSampleNow s mw).cmds = s.cmds ∧ (powerSampleNow s mw).msgs = s.msgs ∧ (powerSampleNow s mw).arrs = s.arrs ∧
      (powerSampleNow s mw).cxs = s.cxs := by
  obtain ⟨c, u, hu, he⟩ := powerSampleNow_eq s mw
  have hop : u.opmaxOf = s.opmaxOf := hu.opmaxOf h
  rw [hu.cueIncrease, sampled_cueIncrease, hop] at he
  rw [he]
  exact ⟨c, congrArg (Pwr.move · _ _ _ _ _) hu.pwr, hu.cmds, hu.msgs, hu.arrs, hu.cxs⟩

/-- Settles O49: a limit is held and recorded by `setLimit` (R367), and a sample moves the ladder by `move_eq` (R366), with the
run of low samples kept over a change of L (log entry 86). -/
theorem samplesMoveTheLadder : Obligations.SamplesMoveTheLadder := by
  unfold Obligations.SamplesMoveTheLadder
  intro s t mw l n sum inc a k b h w v x
  refine ⟨?_, ?_, ?_⟩
  · rintro rfl rfl ht u rfl
    exact (capHost_sets v ht).trans (congrArg _ (setLimit_eq _ _ _))
  · rintro rfl rfl hs hu ha u w rfl rfl
    exact ⟨setCap_replies x hs hu ha, boardLimit_wr (wr_regsWf hs _ _ _ _) _⟩
  · rintro hs he hl hw rfl rfl hinc rfl hk
    obtain rfl : powerSampleNow s mw = t := Host.Outcome.next.inj he
    obtain rfl : s.powerLimit = l := hl.symm
    obtain rfl : s.cueIncrease = inc := (sumOf_eq_sum _).trans hinc.symm
    obtain ⟨c, hpwr, hkeeps⟩ := powerSample_spec hs mw
    obtain ⟨hpos, hunder, -⟩ := sampled_keeps s mw c
    have hwin : (s.sampled mw c).samples = w := (take_samples _ _ _).trans hw.symm
    have hrun : (s.sampled mw c).lowRun w.sum w.length s.cueIncrease s.powerLimit = k := by rw [lowRun_eq, hunder, hk]
    rw [hwin, move_eq] at hpwr
    have hnext : (powerSampleNow s mw).pwr.pos = (s.sampled mw c).nextPos w.sum w.length s.cueIncrease s.powerLimit
      (floorPos s.opmaxOf) := congrArg Pwr.pos hpwr
    simp only [Pwr.nextPos, goesDown_iff, hrun, hpos, floorPos, State.opmaxOf] at hnext
    refine ⟨(congrArg Pwr.samples hpwr).trans hwin, (congrArg Pwr.limit hpwr).trans (take_limit _ _ _),
      (congrArg Pwr.under hpwr).trans hrun, fun ho hf => ?_, fun hno h20 htop => ?_, fun hno hstay => ?_, hkeeps⟩
    · rw [hnext, if_pos ⟨ho, hf⟩]
    · rw [hnext, if_neg hno, if_pos ⟨h20, htop⟩]
    · rw [hnext, if_neg hno, if_neg (by omega)]

end Sys2Proof.Machine
end

section
/-! PROOF. The canonical form (O7): what each command answers, taken together from the lemmas about the meanings. -/

namespace Sys2Proof.Machine

/-- An outcome is a next state, and one in canonical form. -/
inductive AnswersCanon : Host.Outcome State Fault Refusal → Prop where
  | next {t : State} (h : t.canon = true) : AnswersCanon (.next t)

theorem AnswersCanon.canon {o : Host.Outcome State Fault Refusal} (h : AnswersCanon o) {t : State} (e : o = .next t) : t.canon = true := by
  cases h with
  | next h => exact Host.Outcome.next.inj e ▸ h

/-- Either branch of a choice in canonical form. -/
theorem ite_canon {p : Prop} [Decidable p] {s t : State} (hs : s.canon = true) (ht : t.canon = true) :
    (if p then s else t).canon = true := by
  split <;> assumption

/-- Every command answers a state, in canonical form where its own is. -/
theorem exec_canon {s : State} (hs : s.canon = true) (c : Instr) : AnswersCanon (exec c s) := by
  cases c with
  | nop sp => exact .next (dispatch_canon _ _ _ _ s completeNow_canon hs)
  | wload sp => exact .next (dispatch_canon _ _ _ _ s runWload_canon hs)
  | stream sp => exact .next (dispatch_canon _ _ _ _ s enqueue_canon hs)
  | wgrad sp => exact .next (dispatch_canon _ _ _ _ s enqueue_canon hs)
  | drainFinal sp => exact .next (dispatchDrain_canon _ _ _ hs)
  | drainSpill sp => exact .next (dispatchDrain_canon _ _ _ hs)
  | drainAdd sp => exact .next (dispatchDrain_canon _ _ _ hs)
  | drainConvertImage sp => exact .next (dispatchDrain_canon _ _ _ hs)
  | convgen sp => exact .next (dispatch_canon _ _ _ _ s runConvgen_canon hs)
  | finish sp => exact .next (dispatch_canon _ _ _ _ s runFinish_canon hs)
  | hcount sp => exact .next (dispatch_canon _ _ _ _ s runHcount_canon hs)
  | move sp => exact .next (dispatch_canon _ _ _ _ s runMover_canon hs)
  | gather sp => exact .next (dispatch_canon _ _ _ _ s runMover_canon hs)
  | scatter sp => exact .next (dispatch_canon _ _ _ _ s runMover_canon hs)
  | put sp => exact .next (dispatch_canon _ _ _ _ s runPut_canon hs)
  | get sp => exact .next (dispatch_canon _ _ _ _ s runGet_canon hs)
  | reduce sp => exact .next (dispatch_canon _ _ _ _ s runColl_canon hs)
  | allgather sp => exact .next (dispatch_canon _ _ _ _ s runColl_canon hs)
  | reduceScatter sp => exact .next (dispatch_canon _ _ _ _ s runColl_canon hs)
  | alltoallRagged sp => exact .next (dispatch_canon _ _ _ _ s runColl_canon hs)
  | barrier sp => exact .next (dispatch_canon _ _ _ _ s runBarrier_canon hs)
  | semWait sp => exact .next (dispatch_canon _ _ _ _ s runSemWait_canon hs)
  | semPost sp => exact .next (dispatch_canon _ _ _ _ s runSemPost_canon hs)
  | waitVersion sp => exact .next (dispatch_canon _ _ _ _ s runWaitVersion_canon hs)
  | fence sp => exact .next (dispatch_canon _ _ _ _ s runFence_canon hs)
  | cue sp => exact .next (dispatch_canon _ _ _ _ s runCue_canon hs)
  | stepBegin sp => exact .next (dispatch_canon _ _ _ _ s runStepBegin_canon hs)
  | stepVerdict sp => exact .next (dispatch_canon _ _ _ _ s runVerdict_canon hs)
  | commit sp => exact .next (dispatch_canon _ _ _ _ s enqueue_canon hs)
  | dataCommit sp => exact .next (dispatch_canon _ _ _ _ s (fun s x hs => tryDataCommit_canon _ _ (enqueue_canon s x hs)) hs)
  | takePoint sp => exact .next (dispatch_canon _ _ _ _ s runTakePoint_canon hs)
  | update sp => exact .next (dispatch_canon _ _ _ _ s runUpdate_canon hs)
  | castAdmit sp => exact .next (dispatch_canon _ _ _ _ s runCast_canon hs)
  | build sp => exact .next (dispatch_canon _ _ _ _ s runCast_canon hs)
  | advance sp => exact .next (dispatch_canon _ _ _ _ s runCast_canon hs)
  | retire sp => exact .next (dispatch_canon _ _ _ _ s runCast_canon hs)
  | park sp => exact .next (dispatch_canon _ _ _ _ s runCast_canon hs)
  | unpark sp => exact .next (dispatch_canon _ _ _ _ s runCast_canon hs)
  | snapshot sp => exact .next (dispatch_canon _ _ _ _ s runCast_canon hs)
  | commandCompletion id => exact .next (completionNow_canon _ _ hs)
  | placement id => exact .next (placeWload_canon _ _ hs)
  | wloadBegin id => exact .next (beginWload_canon _ _ hs)
  | slotCommit id => exact .next (commitSlot_canon _ _ hs)
  | rowEntry a => exact .next (rowEntry_canon _ _ hs)
  | ringArrival a => exact .next (ringArrival_canon _ _ hs)
  | drainRow a => exact .next (drainRow_canon _ _ hs)
  | doorbell sp v => exact .next (hostGate_canon s _ _ _ _ hs fun s hs => ringBell_canon _ _ _ hs)
  | ringEnable sp v => exact .next (hostGate_canon s _ _ _ _ hs fun s hs => ite_canon hs (ringCtlWrite_canon _ _ _ hs))
  | ringDisable sp v => exact .next (hostGate_canon s _ _ _ _ hs fun s hs => ite_canon hs (ringCtlWrite_canon _ _ _ hs))
  | hostSemaphoreWrite cx k v => exact .next (hostGate_canon s _ _ _ _ hs fun s hs => hostSemWrite_canon _ _ _ _ hs)
  | registerWrite off size v => exact .next (hostWrite_canon _ _ _ _ hs)
  | readClear off size => exact .next (hostRead_canon _ _ _ hs)
  | stepClose cx => exact .next (stepCloseNow_canon _ _ hs)
  | updateBegin id => exact .next (updateBeginNow_canon _ _ hs)
  | pass1End id => exact .next (pass1EndNow_canon _ _ hs)
  | pass2End id => exact .next (pass2EndNow_canon _ _ hs)
  | commitWaitsMet id => exact .next (commitWaitsNow_canon _ _ hs)
  | offloadDone cx => exact .next (offloadEnd_canon _ _ hs)
  | recallDone cx => exact .next (recallEnd_canon _ _ hs)
  | admission cx => exact .next (admitNext_canon _ _ hs)
  | stashEnable cx v => exact .next (hostGate_canon s _ _ _ _ hs fun s hs => ite_canon hs (stashCtlWrite_canon _ _ _ hs))
  | create cx v => exact .next (ctlCommand_canon _ _ _ _ hs)
  | destroy cx v => exact .next (ctlCommand_canon _ _ _ _ hs)
  | run cx v => exact .next (hostGate_canon s _ _ _ _ hs fun s hs => cxCtlWrite_canon _ _ _ hs)
  | xltInv cx v => exact .next (ctlCommand_canon _ _ _ _ hs)
  | invalidationDone cx => exact .next (invDone_canon _ _ hs)
  | takeWritten cx => exact .next (takeDone_canon _ _ hs)
  | controlRestored cx => exact .next (controlDone_canon _ _ hs)
  | putData p f => exact .next (receive_canon _ _ _ _ s takePut_canon hs)
  | getReq p f => exact .next (receive_canon _ _ _ _ s takeGet_canon hs)
  | post p f => exact .next (receive_canon _ _ _ _ s takePost_canon hs)
  | putAck p f => exact .next (receive_canon _ _ _ _ s (takeAck_canon p) hs)
  | getData p f => exact .next (receive_canon _ _ _ _ s (takeData_canon p) hs)
  | refuse p f => exact .next (receive_canon _ _ _ _ s (takeRefuse_canon p) hs)
  | collData p f => exact .next (receive_canon _ _ _ _ s takeColl_canon hs)
  | collReady p f => exact .next (receive_canon _ _ _ _ s takeReady_canon hs)
  | collAbort p f => exact .next (receive_canon _ _ _ _ s takeAbort_canon hs)
  | rollReply p f r => exact .next (rollReply_canon _ _ _ _ hs)
  | clapper p f => exact .next (receive_canon _ _ _ _ s clapTake_canon hs)
  | cut p f => exact .next (receive_canon _ _ _ _ s cutTake_canon hs)
  | loss p f => exact .next (receive_canon _ _ _ _ s takeLoss_canon hs)
  | link p f => exact .next (linkRx_canon _ _ _ hs)
  | linkAck p => exact .next (linkAck_canon _ _ hs)
  | portLock p => exact .next (portLock_canon _ _ hs)
  | trainingTimeout p => exact .next (trainTimeout_canon _ _ hs)
  | laneLockLoss p lane => exact .next (laneLoss_canon _ _ _ hs)
  | rollResend p => exact .next (rollAgain_canon _ _ hs)
  | seatTimeout => exact .next (seatTimeout_canon _ hs)
  | ackTimeout p => exact .next (ackTimeout_canon _ _ hs)
  | fecErrorLimit p => exact .next (fecLimit_canon _ _ hs)
  | retry p v => exact .next (hostGate_canon s _ _ _ _ hs fun s hs => ite_canon (lkCtlWrite_canon _ _ _ hs) hs)
  | readyResend id => exact .next (readyAgain_canon _ _ hs)
  | messageTimeout msg => exact .next (msgTimeout_canon _ _ hs)
  | collTimeout id => exact .next (collLate_canon _ _ hs)
  | readyTimeout id => exact .next (readyLate_canon _ _ hs)
  | versionPoll sp => exact .next (ite_canon (settle_canon _ (pollVersion_canon _ _ hs)) hs)
  | retrain phys => exact .next (ite_canon (wr_canon (setFlag_canon (updNt_canon _ _ hs) _ _ _ _) _ _ _ _) hs)
  | retrainEnd phys ok => exact .next (retrainEndNow_canon _ _ _ hs)
  | slowRetrain ch => exact .next (ite_canon (updNt_canon _ _ hs) hs)
  | scrub addr r => exact .next (scrubNow_canon _ _ _ hs)
  | channelFailing ch why => exact .next (channelFailingNow_canon _ _ _ hs)
  | spareTrained ok => exact .next (spareTrainedNow_canon _ _ hs)
  | migrationCopyEnd => exact .next (migrationEndNow_canon _ hs)
  | powerSample milliwatts => exact .next (powerSampleNow_canon _ _ hs)
  | dividerChange => exact .next (updPwr_canon _ _ hs)
  | rampStep a => exact .next (ite_canon (settle_canon _ (updArr_canon _ _ _ hs)) hs)
  | arrayIdle a => exact .next (ite_canon (updArr_canon _ _ _ hs) hs)
  | cueLeadEnd => exact .next (cueLeadEndNow_canon _ hs)
  | capHost v => exact .next (hostGate_canon s _ _ _ _ hs fun s hs => capHostWrite_canon _ _ hs)
  | opmax v => exact .next (hostGate_canon s _ _ _ _ hs fun s hs => pwrCfgWrite_canon _ _ hs)
  | snap v => exact .next (hostGate_canon s _ _ _ _ hs fun s hs => ite_canon (pmcCtlWrite_canon _ _ hs) hs)
  | clapperRun v => exact .next (hostGate_canon s _ _ _ _ hs fun s hs => ite_canon (clapWrite_canon _ _ hs) hs)
  | clapperTimeout => exact .next (clapTimeout_canon _ hs)
  | rearm v => exact .next (hostGate_canon s _ _ _ _ hs fun s hs => ite_canon (rushCtlWrite_canon _ _ hs) hs)
  | triggerNow v => exact .next (hostGate_canon s _ _ _ _ hs fun s hs => ite_canon (rushTrigWrite_canon _ _ hs) hs)
  | cutNow v => exact .next (hostGate_canon s _ _ _ _ hs fun s hs => ite_canon (cutCtlWrite_canon _ _ hs) hs)
  | cutAt v => exact .next (hostGate_canon s _ _ _ _ hs fun s hs => cutAtWrite_canon _ _ hs)
  | cutFreeze => exact .next (cutFreezeNow_canon _ hs)
  | freeze v => exact .next (hostGate_canon s _ _ _ _ hs fun s hs => recCtlWrite_canon _ _ hs)
  | freezeExpiry => exact .next (freezeExpiryNow_canon _ hs)
  | repeatFlush => exact .next (repeatFlushNow_canon _ hs)
  | clear v => exact .next (hostGate_canon s _ _ _ _ hs fun s hs => clearWrite_canon _ _ hs)
  | pwrfailRise => exact .next (ite_canon hs (beginStart_canon _ hs))
  | pwrfailFall => exact .next (pwrfailFallNow_canon _ hs)
  | fuse => exact .next (fuseEnd_canon _ hs)
  | secTest ok => exact .next (ite_canon hs (ite_canon (wr_canon hs _ _ _ _) (enterSafe_canon _ _ _ hs)))
  | keys => exact .next (ite_canon (wr_canon hs _ _ _ _) hs)
  | image flash => exact .next (ite_canon (tryImage_canon _ _ _ hs) hs)
  | xspiModeTimeout => exact .next (ite_canon (updBoot_canon _ _ hs) hs)
  | selfTest failed => exact .next (selfTestEnd_canon _ _ hs)
  | memory nearBad slow => exact .next (memoryEnd_canon _ _ _ hs)
  | fabric => exact .next (fabricEnd_canon _ hs)
  | release => exact .next (releaseNow_canon _ hs)
  | push v => exact .next (hostGate_canon s _ _ _ _ hs fun s hs => pushWrite_canon _ _ hs)
  | attestationRequest v => exact .next (hostGate_canon s _ _ _ _ hs fun s hs => attCtlWrite_canon _ _ hs)
  | attestationReport => exact .next (reportDone_canon _ hs)
  | lcToken v => exact .next (hostGate_canon s _ _ _ _ hs fun s hs => lcTokenWrite_canon _ _ hs)
  | tapInstruction t => exact .next (tapLoad_canon _ _ hs)
  | junctionOvertemp => exact .next (enterSafe_canon _ _ _ hs)
  | safePortShutdown => exact .next (portShutdown_canon _ hs)
  | sliceDue => exact .next (sliceDueNow_canon _ hs)
  | quietPoint => exact .next (quietNow_canon _ hs)
  | quietTimeout => exact .next (quietLate_canon _ hs)
  | sliceEnd ok => exact .next (sliceEndNow_canon _ _ hs)
  | checkpointEnable cx v => exact .next (hostGate_canon s _ _ _ _ hs fun s hs => ite_canon hs (ckptCtlWrite_canon _ _ _ hs))
  | snapshotInstant cx => exact .next (snapshotNow_canon _ _ hs)
  | locallyComplete cx => exact .next (localNow_canon _ _ hs)
  | slotZeroed cx => exact .next (zeroedNow_canon _ _ hs)
  | ckptExport cx v => exact .next (opCommand_canon _ _ _ _ hs)
  | sendStripes cx v => exact .next (opCommand_canon _ _ _ _ hs)
  | restore cx v => exact .next (opCommand_canon _ _ _ _ hs)
  | dmaTail v => exact .next (hostGate_canon s _ _ _ _ hs fun s hs => dmaPtrsWrite_canon _ _ hs)
  | dmaEnable v => exact .next (hostGate_canon s _ _ _ _ hs fun s hs => ite_canon hs (dmaRingWrite_canon _ _ hs))
  | dmaDescriptor r => exact .next (dmaStep_canon _ _ hs)
  | bar4Read off len => exact .next (bar4ReadNow_canon _ _ _ hs)
  | bar4Write off bytes => exact .next (bar4WriteNow_canon _ _ _ hs)
  | configRequest k =>
    cases k with
    | read => exact .next (ite_canon hs (emit_canon _ _ hs))
    | write => exact .next (ite_canon hs (emit_canon _ _ hs))
  | functionLevelReset => exact .next (flrNow_canon _ hs)
  | d3hot enter => exact .next (d3hotNow_canon _ _ hs)
  | vectorUnmask k v => exact .next (hostGate_canon s _ _ _ _ hs fun s hs => ite_canon (msixCtrlWrite_canon _ _ _ hs) hs)
  | entdaa addr => exact .next (entdaaNow_canon _ _ hs)
  | readStatus => exact .next (i3cCommand_canon s _ _ hs readStatusNow_canon)
  | setCap watts => exact .next (i3cCommand_canon s _ _ hs (setCapNow_canon _))
  | readId => exact .next (i3cCommand_canon s _ _ hs readIdNow_canon)
  | i3cCut => exact .next (i3cCommand_canon s _ _ hs i3cCutNow_canon)
  | enterSafe arg => exact .next (i3cCommand_canon s _ _ hs (enterSafeNow_canon _))
  | restart arg => exact .next (i3cCommand_canon s _ _ hs (restartNow_canon _))
  | readReel slot => exact .next (i3cCommand_canon s _ _ hs (readReelNow_canon _))
  | frameDiscarded p why f => exact .next (frameDiscard_canon _ _ _ _ hs)
  | slowRetrainEnd ch ok => exact .next (slowRetrainEndNow_canon _ _ _ hs)
  | rampTurn a => exact .next (ite_canon (beginRamp_canon _ _ hs) hs)
  | scanChainRead off => exact .next (scanRead_canon _ _ hs)

/-- A step takes a command from the queue, or is a nanosecond. -/
theorem step_canon {s : State} (hs : s.canon = true) : AnswersCanon (step s) := by
  unfold step
  split
  · exact .next (tick_canon s hs)
  next c rest _ =>
    have hrest : { s with pending := rest }.canon = true := canon_mk rfl hs
    exact exec_canon hrest c

/-- Settles O7: the meaning of each command keeps the form, and a step is a command or a nanosecond. -/
theorem everyStepKeepsTheForm : Obligations.EveryStepKeepsTheForm :=
  ⟨fun _ _ hs h => (step_canon hs).canon h, fun c _ _ hs h => (exec_canon hs c).canon h⟩

end Sys2Proof.Machine
end

section
/-! PROOF. Frames on the wire (O8): little-endian numbers, fields side by side, the checksum's width. -/

namespace Sys2Proof.Machine

-- Little-endian numbers (R28).

@[simp] theorem leBytes_length (n v : Nat) : (leBytes n v).length = n := by
  induction n generalizing v with
  | zero => rfl
  | succ n ih => exact congrArg (· + 1) (ih _)

/-- Bytes of a number read back as the number, cut to their count. -/
theorem leNat_leBytes (n v : Nat) : leNat (leBytes n v) = v % 2 ^ (8 * n) := by
  induction n generalizing v with
  | zero => rw [Nat.mul_zero, Nat.pow_zero, Nat.mod_one]; rfl
  | succ n ih =>
    rw [leBytes, leNat, ih, BitVec.toNat_ofNat, Nat.mod_mod, Nat.mul_succ, Nat.add_comm (8 * n), Nat.pow_add, Nat.mod_mul]

/-- Bytes are those of the number that they read as. -/
theorem leBytes_leNat (l : List Byte) : leBytes l.length (leNat l) = l := by
  induction l with
  | nil => rfl
  | cons b t ih =>
    have hb := b.isLt
    have hlow : (b.toNat + 256 * leNat t) % 256 = b.toNat := by omega
    have hhigh : (b.toNat + 256 * leNat t) / 256 = leNat t := by omega
    rw [leNat, List.length_cons, leBytes, hlow, hhigh, ih, BitVec.ofNat_toNat, BitVec.setWidth_eq]

-- Fields side by side (R240).

theorem packFields_lt (ws vs : List Nat) : packFields (ws.zip vs) < 2 ^ ws.sum := by
  induction ws generalizing vs with
  | nil => exact Nat.one_pos
  | cons w ws ih =>
    cases vs with
    | nil => exact Nat.two_pow_pos _
    | cons v vs =>
      rw [List.zip_cons_cons, packFields, List.sum_cons, Nat.pow_add]
      have hlow := Nat.mod_lt v (Nat.two_pow_pos w)
      have hhigh := Nat.mul_le_mul_left (2 ^ w) (Nat.succ_le_of_lt (ih vs))
      rw [Nat.mul_succ] at hhigh
      omega

/-- A field reads back where the widths before it end, cut to its width. -/
theorem bitsAt_packFields {ws vs : List Nat} {k w v : Nat} (hw : ws[k]? = some w) (hv : vs[k]? = some v) :
    bitsAt (packFields (ws.zip vs)) (ws.take k).sum w = v % 2 ^ w := by
  induction ws generalizing vs k with
  | nil => cases hw
  | cons u ws ih =>
    cases vs with
    | nil => cases hv
    | cons x vs =>
      have hlow := Nat.mod_lt x (Nat.two_pow_pos u)
      cases k with
      | zero =>
        obtain rfl : u = w := Option.some.inj hw
        obtain rfl : x = v := Option.some.inj hv
        simp [bitsAt, packFields]
      | succ k =>
        have hskip : packFields ((u :: ws).zip (x :: vs)) >>> u = packFields (ws.zip vs) := by
          rw [List.zip_cons_cons, packFields, Nat.shiftRight_eq_div_pow, Nat.add_mul_div_left _ _ (Nat.two_pow_pos _),
            Nat.div_eq_of_lt hlow, Nat.zero_add]
        have htail := ih hw hv
        rwa [bitsAt, ← hskip, ← Nat.shiftRight_add] at htail

theorem bitAt_eq (w i : Nat) : bitAt w i = (bitsAt w i 1 == 1) := rfl

theorem toNat_mod_two (b : Bool) : (b.toNat % 2 ^ 1 == 1) = b := by cases b <;> rfl

/-- The widths of a header's fields, lowest first (R240). -/
def headerWidths : List Nat :=
  [4, 2, 1, 1, 16, 16, 16, 16, 4, 4, 16, 12, 2, 14, 4, 48, 40, 40, 32, 16, 32, 32, 3, 1, 8, 1, 67]

/-- What the header of a frame holds in them. -/
def headerValues (f : Frame) : List Nat :=
  [f.typ, f.vc, f.ackv.toNat, f.nak.toNat, f.lseq, f.ackSeq, f.srcDev, f.dstDev, f.srcCx, f.dstCx, f.job, f.len, f.crVc, f.crUnits,
    0, f.addr, f.offset, f.msgBytes, f.msgId, f.accord, f.collSeq, f.epoch, f.phase, f.rpostEn.toNat, f.rpostSem, f.pim.toNat, 0]

theorem headerOf_eq (f : Frame) : headerOf f = packFields (headerWidths.zip (headerValues f)) := rfl

theorem headerOf_lt (f : Frame) : headerOf f < 2 ^ (8 * 56) := by
  have hsum : headerWidths.sum = 8 * 56 := by decide
  rw [headerOf_eq, ← hsum]
  exact packFields_lt _ _

/-- A field of the header, by its place in the list of fields. -/
theorem header_field (f : Frame) (k : Nat) {lo w v : Nat} (hlo : (headerWidths.take k).sum = lo ∧ headerWidths[k]? = some w)
    (hv : (headerValues f)[k]? = some v) : bitsAt (headerOf f) lo w = v % 2 ^ w := by
  rw [headerOf_eq, ← hlo.1]
  exact bitsAt_packFields hlo.2 hv

-- The checksum (R240).

theorem crcBits_lt (k : Nat) {c : Nat} (h : c < 2 ^ 32) : crcBits k c < 2 ^ 32 := by
  induction k generalizing c with
  | zero => exact h
  | succ k ih =>
    refine ih ?_
    split
    · exact Nat.xor_lt_two_pow (by omega) (by decide)
    · omega

theorem crc32c_lt (bs : List Byte) : crc32c bs < 2 ^ 32 := by
  refine Nat.xor_lt_two_pow ?_ (by decide)
  refine List.foldlRecOn (motive := (· < 2 ^ 32)) bs _ (by decide) fun c hc b _ => ?_
  exact crcBits_lt 8 (Nat.xor_lt_two_pow hc (Nat.lt_trans b.isLt (by decide)))

-- Frames.

theorem coveredBytes_take (f : Frame) (t : List Byte) : (coveredBytes f ++ t).take 56 = leBytes 56 (headerOf f) := by
  rw [coveredBytes, List.append_assoc, List.append_assoc, List.take_left' (leBytes_length _ _)]

theorem coveredBytes_payload (f : Frame) (t : List Byte) : ((coveredBytes f ++ t).drop 56).take f.len = f.payload := by
  rw [coveredBytes, List.append_assoc, List.append_assoc, List.drop_left' (leBytes_length _ _)]
  exact List.take_left

theorem coveredBytes_length (f : Frame) : (coveredBytes f).length = 56 + (f.len + 63) / 64 * 64 := by
  simp only [coveredBytes, List.length_append, leBytes_length, List.length_replicate, Frame.len]
  omega

/-- The header as a receiver reads it. -/
theorem leNat_take_header (f : Frame) (t : List Byte) : leNat ((coveredBytes f ++ t).take 56) = headerOf f := by
  rw [coveredBytes_take, leNat_leBytes, Nat.mod_eq_of_lt (headerOf_lt f)]

/-- A frame whose fields fit their widths is read back from its header, LEN and payload. -/
theorem frame_of_header {f : Frame} (htyp : f.typ < 16) (hfit : fitFrame f = f) :
    ({ typ := bitsAt (headerOf f) 0 4, vc := bitsAt (headerOf f) 4 2, ackv := bitAt (headerOf f) 6, nak := bitAt (headerOf f) 7,
       lseq := bitsAt (headerOf f) 8 16, ackSeq := bitsAt (headerOf f) 24 16, srcDev := bitsAt (headerOf f) 40 16,
       dstDev := bitsAt (headerOf f) 56 16, srcCx := bitsAt (headerOf f) 72 4, dstCx := bitsAt (headerOf f) 76 4,
       job := bitsAt (headerOf f) 80 16, crVc := bitsAt (headerOf f) 108 2, crUnits := bitsAt (headerOf f) 110 14,
       addr := bitsAt (headerOf f) 128 48, offset := bitsAt (headerOf f) 176 40, msgBytes := bitsAt (headerOf f) 216 40,
       msgId := bitsAt (headerOf f) 256 32, accord := bitsAt (headerOf f) 288 16, collSeq := bitsAt (headerOf f) 304 32,
       epoch := bitsAt (headerOf f) 336 32, phase := bitsAt (headerOf f) 368 3, rpostEn := bitAt (headerOf f) 371,
       rpostSem := bitsAt (headerOf f) 372 8, pim := bitAt (headerOf f) 380, payload := f.payload } : Frame) = f := by
  have field := @header_field f
  simp only [bitAt_eq]
  rw [field 0 (v := f.typ) (by decide) rfl, field 1 (v := f.vc) (by decide) rfl, field 2 (v := f.ackv.toNat) (by decide) rfl,
    field 3 (v := f.nak.toNat) (by decide) rfl, field 4 (v := f.lseq) (by decide) rfl,
    field 5 (v := f.ackSeq) (by decide) rfl, field 6 (v := f.srcDev) (by decide) rfl,
    field 7 (v := f.dstDev) (by decide) rfl, field 8 (v := f.srcCx) (by decide) rfl, field 9 (v := f.dstCx) (by decide) rfl,
    field 10 (v := f.job) (by decide) rfl, field 12 (v := f.crVc) (by decide) rfl, field 13 (v := f.crUnits) (by decide) rfl,
    field 15 (v := f.addr) (by decide) rfl, field 16 (v := f.offset) (by decide) rfl,
    field 17 (v := f.msgBytes) (by decide) rfl, field 18 (v := f.msgId) (by decide) rfl,
    field 19 (v := f.accord) (by decide) rfl, field 20 (v := f.collSeq) (by decide) rfl,
    field 21 (v := f.epoch) (by decide) rfl, field 22 (v := f.phase) (by decide) rfl,
    field 23 (v := f.rpostEn.toNat) (by decide) rfl, field 24 (v := f.rpostSem) (by decide) rfl,
    field 25 (v := f.pim.toNat) (by decide) rfl]
  have htyp4 : f.typ % 2 ^ 4 = f.typ := Nat.mod_eq_of_lt htyp
  have hpayload : f.payload.take 2048 = f.payload := congrArg Frame.payload hfit
  refine Eq.trans ?_ hfit
  simp only [toNat_mod_two, htyp4]
  rw [fitFrame, hpayload] <;> rfl

/-- Covered bytes with a trailer of 8 bytes spell a frame where the trailer is the checksum. -/
theorem frameOfWire_covered {f : Frame} (htyp : f.typ < 16) (hfit : fitFrame f = f) {t : List Byte} (ht : t.length = 8) :
    frameOfWire (coveredBytes f ++ t) = if leNat t = crc32c (coveredBytes f) then some f else none := by
  have hlen : f.len ≤ 2048 := by
    rw [← hfit]
    exact List.length_take_le _ _
  have hn : bitsAt (headerOf f) 96 12 = f.len := by
    rw [header_field f 11 (v := f.len) (by decide) rfl, Nat.mod_eq_of_lt (by omega)]
  rw [frameOfWire, leNat_take_header, hn, ← coveredBytes_length, List.drop_left, List.take_left, coveredBytes_payload,
    frame_of_header htyp hfit]
  have hcount : ((coveredBytes f ++ t).length != (coveredBytes f).length + 8) = false := by
    rw [List.length_append, ht, bne_self_eq_false]
  rw [hcount, Bool.false_or]
  by_cases hcrc : leNat t = crc32c (coveredBytes f)
  · rw [if_pos hcrc, if_neg (by simpa using hcrc)]
  · rw [if_neg hcrc, if_pos (by simpa using hcrc)]

/-- Settles O8: a frame's header reads back field by field, and a trailer that reads as the checksum is the checksum's bytes. -/
theorem framesSpellThemselves : Obligations.FramesSpellThemselves := by
  intro f htyp hfit
  have hcrc : leNat (leBytes 8 (crc32c (coveredBytes f))) = crc32c (coveredBytes f) := by
    rw [leNat_leBytes, Nat.mod_eq_of_lt (Nat.lt_trans (crc32c_lt _) (by decide))]
  have hlen : (wireBytes f).length = 56 + (f.len + 63) / 64 * 64 + 8 := by
    rw [wireBytes, List.length_append, coveredBytes_length, leBytes_length]
  refine ⟨?_, by omega, by omega, by omega, fun t ht hne => ?_⟩
  · rw [wireBytes, frameOfWire_covered htyp hfit (leBytes_length _ _), if_pos hcrc]
  · rw [frameOfWire_covered htyp hfit ht, if_neg]
    intro heq
    exact hne (congrArg _ (by rw [← heq, ← ht, leBytes_leNat]))

end Sys2Proof.Machine
end

section
/-! PROOF. The passing of time (O2): two's-complement numbers of 64 bits, and one move of the clapper's offset. -/

namespace Sys2Proof.Machine

theorem signedOf_ge (v : Nat) : -2 ^ 63 ≤ signedOf 64 v := by
  have := Nat.mod_lt v (Nat.two_pow_pos 64)
  unfold signedOf
  split <;> omega

theorem signedOf_lt (v : Nat) : signedOf 64 v < 2 ^ 63 := by
  have := Nat.mod_lt v (Nat.two_pow_pos 64)
  unfold signedOf
  split <;> omega

theorem signedOf_mod (n v : Nat) : signedOf n (v % 2 ^ n) = signedOf n v := by
  rw [signedOf, Nat.mod_mod, signedOf]

/-- A signed number of 64 bits reads back from its pattern. -/
theorem signedOf_unsignedOf {v : Int} (hlo : -2 ^ 63 ≤ v) (hhi : v < 2 ^ 63) : signedOf 64 (unsignedOf 64 v) = v := by
  unfold signedOf unsignedOf
  split <;> omega

/-- One move of the offset: towards the goal by one, at every thousandth count, and not beyond it. -/
theorem slew_eq (off goal : Int) (n : Nat) :
    slew off goal n = if n % 1000 = 0 ∧ off < goal then off + 1 else if n % 1000 = 0 ∧ goal < off then off - 1 else off := by
  unfold slew
  by_cases h : n % 1000 = 0
  · simp only [h, ne_eq, not_true_eq_false, if_false, true_and]
  · simp only [h, ne_eq, not_false_eq_true, if_true, false_and, if_false]

/-- The offset stays between two signed numbers of 64 bits. -/
theorem slew_bounds {off goal lo hi : Int} (n : Nat) (h : lo ≤ off ∧ off < hi) (hg : lo ≤ goal ∧ goal < hi) :
    lo ≤ slew off goal n ∧ slew off goal n < hi := by
  unfold slew
  split
  · exact h
  · split
    · omega
    · split <;> omega

/-- A nanosecond later. -/
def State.later (s : State) : State := { s with tsu := { s.tsu with local_ := s.tsu.local_ + 1 } }

theorem tick_eq (s : State) :
    s.tick = if s.tsu.ran && signedOf 64 (s.rd R.TSU_OFFSET) != s.tsu.goal then
      s.later.wr R.TSU_OFFSET (unsignedOf 64 (slew (signedOf 64 (s.rd R.TSU_OFFSET)) s.tsu.goal (s.tsu.local_ + 1)))
    else s.later := rfl

/-- A nanosecond advances the count, and may write the offset. -/
theorem tick_cases (s : State) : s.tick = s.later ∨ ∃ v, s.tick = s.later.wr R.TSU_OFFSET v := by
  rw [tick_eq]
  split
  · exact .inr ⟨_, rfl⟩
  · exact .inl rfl

/-- The offset that a nanosecond leaves. -/
theorem tick_offset {s : State} (hs : s.regsWf = true) (hlo : -2 ^ 63 ≤ s.tsu.goal) (hhi : s.tsu.goal < 2 ^ 63) :
    signedOf 64 (s.tick.rd R.TSU_OFFSET) =
      if s.tsu.ran then slew (signedOf 64 (s.rd R.TSU_OFFSET)) s.tsu.goal (s.tsu.local_ + 1) else signedOf 64 (s.rd R.TSU_OFFSET) := by
  have hrange := slew_bounds (s.tsu.local_ + 1) ⟨signedOf_ge (s.rd R.TSU_OFFSET), signedOf_lt (s.rd R.TSU_OFFSET)⟩ ⟨hlo, hhi⟩
  have hlater : s.later.regsWf = true := hs
  rw [tick_eq]
  cases hran : s.tsu.ran with
  | false => rfl
  | true =>
    by_cases hgoal : signedOf 64 (s.rd R.TSU_OFFSET) = s.tsu.goal
    · have hstay : slew (signedOf 64 (s.rd R.TSU_OFFSET)) s.tsu.goal (s.tsu.local_ + 1) = signedOf 64 (s.rd R.TSU_OFFSET) := by
        simp [slew, hgoal]
      rw [hstay, if_pos rfl, if_neg (by simp [hgoal])]
      rfl
    · rw [if_pos (by simp [hgoal]), if_pos rfl, wr_rd_same hlater (by decide)]
      exact (signedOf_mod 64 _).trans (signedOf_unsignedOf hrange.1 hrange.2)

/-- Settles O2: a step on an empty queue is `State.tick`, and the offset moves by `slew`. -/
theorem idleStepsCountTime : Obligations.IdleStepsCountTime := by
  intro s off hs hoff hlo hhi
  have hidle : ({ s with pending := [] } : State).regsWf = true := hs
  have hlater : ({ s with pending := [] } : State).later.regsWf = true := hs
  have hoffset := tick_offset hidle hlo hhi
  rw [slew_eq] at hoffset
  refine ⟨_, rfl, ?_, ?_, fun a ha => ?_, hoffset.trans ?_⟩
  · rcases tick_cases { s with pending := [] } with h | ⟨v, h⟩ <;> rw [h] <;> rfl
  · rcases tick_cases { s with pending := [] } with h | ⟨v, h⟩ <;> rw [h] <;> exact ⟨_, rfl⟩
  · rcases tick_cases { s with pending := [] } with h | ⟨v, h⟩ <;> rw [h]
    · rfl
    · exact setWord_word_ne hlater _ ha
  · subst hoff
    show (if s.tsu.ran = true then _ else _) = _
    cases s.tsu.ran with
    | false => simp only [Bool.false_eq_true, if_false, false_and]; rfl
    | true => simp only [if_true, true_and]; rfl

end Sys2Proof.Machine
end

section
/-! PROOF. The block as a whole (O1, O3), memory and register fields (O4), exact sums in a ring row (O5), semaphores of the host (O32). -/

namespace Sys2Proof.Machine

/-- Settles O1: `step` at a queue that is not empty. -/
theorem stepRunsFrontCommand : Obligations.StepRunsFrontCommand := fun _ _ _ => rfl

-- Reset (R8).

theorem reset_word {a : Nat} (ha : a ≠ R.NT_PART_SETS.addr) : State.reset.word a = resetWord a := by
  have haddr : R.NT_PART_SETS.addr = 0x50100 := by decide
  rw [haddr] at ha
  show (if a = 0x50100 then _ else if a < 0x50100 then resetWord a else resetWord a) = resetWord a
  rw [if_neg ha, ite_self]

theorem reset_canon : State.reset.canon = true := by decide +kernel

/-- Settles O3: the registers by `reset_word`, the data by evaluation. -/
theorem resetIsTheReleasedBlock : Obligations.ResetIsTheReleasedBlock := by
  refine ⟨fun a ha => reset_word ha, fun _ => rfl, reset_canon, ?_, ?_, rfl, rfl, rfl, rfl, rfl, ?_⟩
  · decide +kernel
  · decide +kernel
  · decide +kernel

-- Memory.

theorem smGet_cellsOf (a : Nat) (bs : List Byte) (x : Nat) :
    smGet memDefault (cellsOf a bs) x = if a ≤ x then bs.getD (x - a) 0 else 0 := by
  induction bs generalizing a with
  | nil => simp [cellsOf, smGet, memDefault]
  | cons b t ih =>
    have hget : smGet memDefault (cellsOf a (b :: t)) x = if x = a then b else smGet memDefault (cellsOf (a + 1) t) x := by
      rw [cellsOf]
      split
      next hb =>
        split
        next hx => rw [hb, hx, smGet_below (cellsOf_wf _ _) (Nat.lt_succ_self a)]
        next => rfl
      next =>
        rw [smGet]
        split
        next => rfl
        next => exact ite_eq_right_iff.2 fun hlt => (smGet_below (cellsOf_wf _ _) (Nat.lt_succ_of_lt hlt)).symm
    rw [hget, ih]
    rcases Nat.lt_trichotomy x a with h | rfl | h
    · rw [if_neg (by omega), if_neg (by omega), if_neg (by omega)]
    · rw [if_pos rfl, if_pos (Nat.le_refl _), Nat.sub_self, List.getD_cons_zero]
    · have hsucc : x - a = (x - (a + 1)) + 1 := by omega
      rw [if_neg (by omega), if_pos (by omega), if_pos (by omega), hsucc, List.getD_cons_succ]

/-- A byte after a write is the byte written there, or the byte before. -/
theorem smGet_memWrite {m : List (Nat × Byte)} (h : memWf m = true) (a : Nat) (bs : List Byte) (x : Nat) :
    smGet memDefault (memWrite m a bs) x = if a ≤ x ∧ x < a + bs.length then bs.getD (x - a) 0 else smGet memDefault m x := by
  have hbelow : smWfFrom memDefault 0 (m.filter fun c => decide (c.1 < a)) = true := smWfFrom_filter h _
  have habove : smWfFrom memDefault (a + bs.length) (m.filter fun c => decide (a + bs.length ≤ c.1)) = true := smWfFrom_above h
  have hlow : ∀ c ∈ m.filter fun c => decide (c.1 < a), c.1 < a := fun c hc => of_decide_eq_true (List.mem_filter.1 hc).2
  have hmid : smWfFrom memDefault 0 ((m.filter fun c => decide (c.1 < a)) ++ cellsOf a bs) = true :=
    smWfFrom_append hbelow (cellsOf_wf a bs) hlow (Nat.zero_le a)
  have hin : ∀ c ∈ (m.filter fun c => decide (c.1 < a)) ++ cellsOf a bs, c.1 < a + bs.length := fun c hc =>
    (List.mem_append.1 hc).elim (fun hc => Nat.lt_add_right _ (hlow c hc)) (cellsOf_lt a bs c)
  rw [memWrite, smSplice, smGet_append hmid habove hin, smGet_append hbelow (cellsOf_wf a bs) hlow,
    smGet_filter h (fun k => decide (k < a)), smGet_filter h (fun k => decide (a + bs.length ≤ k)), smGet_cellsOf]
  rcases Nat.lt_or_ge x a with hx | hx
  · simp only [hx, Nat.lt_add_right, decide_true, if_true, Nat.not_le.2 hx, false_and, if_false]
  · rcases Nat.lt_or_ge x (a + bs.length) with hx' | hx'
    · simp only [hx, hx', Nat.not_lt.2 hx, and_self, if_true, if_false]
    · simp only [hx', Nat.not_lt.2 hx', decide_true, if_true, and_false, if_false]

theorem pwrite_of_good {s : State} (hb : s.bad = []) (a : Nat) (bs : List Byte) :
    s.pwrite a bs = { s with mem := memWrite s.mem a bs } := by
  simp [State.pwrite, hb]

theorem pread_eq {s : State} (h : s.canon = true) (a n : Nat) : s.pread a n = (List.range n).map fun i => s.byte (a + i) :=
  memRead_eq (canon_memWf h) a n

theorem pwrite_byte {s : State} (h : s.canon = true) (hb : s.bad = []) (a : Nat) (bs : List Byte) (x : Nat) :
    (s.pwrite a bs).byte x = if a ≤ x ∧ x < a + bs.length then bs.getD (x - a) 0 else s.byte x := by
  rw [pwrite_of_good hb]
  exact smGet_memWrite (canon_memWf h) a bs x

/-- What stands beside a write reads as before. -/
theorem pwrite_byte_outside {s : State} (h : s.canon = true) (hb : s.bad = []) {a x : Nat} {bs : List Byte}
    (hx : x < a ∨ a + bs.length ≤ x) : (s.pwrite a bs).byte x = s.byte x := by
  rw [pwrite_byte h hb, if_neg (by omega)]

/-- What was written reads back. -/
theorem pwrite_byte_inside {s : State} (h : s.canon = true) (hb : s.bad = []) (a : Nat) {bs : List Byte} {i : Nat}
    (hi : i < bs.length) : (s.pwrite a bs).byte (a + i) = bs[i] := by
  rw [pwrite_byte h hb, if_pos (by omega), Nat.add_sub_cancel_left, List.getD_eq_getElem?_getD, List.getElem?_eq_getElem hi,
    Option.getD_some]

theorem field_ok {f : Fld} (h : f ∈ fieldsOf f.blk) : f.ok = true := List.all_eq_true.1 (fields_ok f.blk) f h

/-- Settles O4: bytes by `smGet_memWrite`, fields by the laws of the register map. -/
theorem storesReadAsWritten : Obligations.StoresReadAsWritten := by
  refine ⟨fun s a bs hs hb => ?_, fun s f g v n i m j hs hf hg hn hm => ?_⟩
  · have hkeep := pwrite_canon hs a bs
    refine ⟨?_, hkeep, by rw [pwrite_of_good hb]; exact hb, by rw [pwrite_of_good hb],
      fun i hi => pwrite_byte_inside hs hb a hi, fun x hx => pwrite_byte_outside hs hb hx, fun x n hx => ?_⟩
    · rw [pread_eq hkeep]
      refine List.ext_getElem (by simp) fun i hi hi' => ?_
      rw [List.getElem_map, List.getElem_range, pwrite_byte_inside hs hb a hi']
    · rw [pread_eq hkeep, pread_eq hs]
      refine List.map_congr_left fun i hi => pwrite_byte_outside hs hb ?_
      have := List.mem_range.1 hi
      omega
  · have hw := canon_regsWf hs
    have hapart : f.lo + f.wid ≤ g.lo ∨ g.lo + g.wid ≤ f.lo → apart f.lo f.wid g.lo g.wid = true := fun h => by
      simpa [apart] using h
    exact ⟨wr_rd_same hw (field_ok hf) v n i, wr_canon hs f v n i, rfl,
      fun h => h.elim (fun h => wr_rd_ne hw f v n i m j (Ne.symm h)) fun h => wr_rd_apart hw (field_ok hf) v n i m j (hapart h),
      fun h => (addr_ne_of_blk h (field_ok hf) (field_ok hg) hn hm).symm⟩

-- Exact sums (R50).

/-- Two rows in flight leave the same in either order. -/
theorem RingRow.take_comm (r : RingRow) (f g : Flight) : (r.take f).take g = (r.take g).take f := by
  have hvals : ∀ u v w : List Int, ((((u.zip v).map fun p => p.1 + p.2).zip w).map fun p => p.1 + p.2) =
      ((((u.zip w).map fun p => p.1 + p.2).zip v).map fun p => p.1 + p.2) := by
    intro u
    induction u with
    | nil => intro v w; rfl
    | cons a u ih =>
      intro v w
      cases v with
      | nil => cases w <;> rfl
      | cons b v =>
        cases w with
        | nil => rfl
        | cons c w => exact List.cons_eq_cons.2 ⟨Int.add_right_comm a b c, ih v w⟩
  simp only [RingRow.take, hvals r.vals f.adds g.adds, Nat.add_right_comm r.cover f.cover g.cover]
  congr 1
  show r.computed ||| f.comp ||| g.comp = r.computed ||| g.comp ||| f.comp
  rw [Nat.or_assoc, Nat.or_comm f.comp, Nat.or_assoc]

theorem take_vals_length {r : RingRow} {f : Flight} (h : f.adds.length = r.vals.length) : (r.take f).vals.length = r.vals.length := by
  simp [RingRow.take, h]

theorem take_vals_nth {r : RingRow} {f : Flight} (h : f.adds.length = r.vals.length) (i : Nat) (hi : i < r.vals.length) :
    nth 0 (r.take f).vals i = nth 0 r.vals i + nth 0 f.adds i := by
  simp [nth, RingRow.take, hi, h]

/-- What rows in flight leave in a ring row, element by element. -/
theorem foldl_take {fs : List Flight} {r : RingRow} (h : ∀ f ∈ fs, f.adds.length = r.vals.length) :
    (fs.foldl RingRow.take r).vals = (List.range r.vals.length).map (fun i => nth 0 r.vals i + (fs.map fun f => nth 0 f.adds i).sum) ∧
      (fs.foldl RingRow.take r).cover = r.cover + (fs.map fun f => f.cover).sum := by
  induction fs generalizing r with
  | nil =>
    refine ⟨List.ext_getElem (by simp) fun i hi _ => ?_, rfl⟩
    have hi' : i < r.vals.length := hi
    simp [nth, hi']
  | cons f fs ih =>
    have hf := h f (List.mem_cons_self ..)
    have hlen := take_vals_length hf
    obtain ⟨hvals, hcover⟩ := ih (r := r.take f) fun g hg => (h g (List.mem_cons_of_mem _ hg)).trans hlen.symm
    rw [List.foldl_cons, hvals, hcover, hlen]
    refine ⟨List.map_congr_left fun i hi => ?_, ?_⟩
    · rw [take_vals_nth hf i (List.mem_range.1 hi), List.map_cons, List.sum_cons, Int.add_assoc]
    · rw [List.map_cons, List.sum_cons, ← Nat.add_assoc, RingRow.take]

/-- Settles O5: rows in flight commute, and each adds its partials. -/
theorem sumsDoNotDependOnOrder : Obligations.SumsDoNotDependOnOrder := fun r _ _ hperm hlen =>
  ⟨(hperm.foldl_eq' (fun f _ g _ q => RingRow.take_comm q f g) r).symm, foldl_take hlen⟩

-- Semaphores of the host (R151).

/-- Settles O32: the gate takes the write, and its value has the width of a semaphore. -/
theorem hostWritesSemaphores : Obligations.HostWritesSemaphores := by
  intro s c i v ht
  have hexec : exec (.hostSemaphoreWrite c i v) s = .next (if s.semOwned c i then s else (s.setSem c i (v.toNat % 2 ^ 32)).settle) := by
    show Host.Outcome.next (s.hostGate .CX c (0x1000 + 8 * i.val) fun s => hostSemWrite s c i (hw8 v.toNat)) = _
    rw [hostGate_taken ht, hostSemWrite, hw8_get (by decide)]
    rfl
  rw [hexec]
  exact ⟨fun h => by rw [h]; rfl, fun h => by rw [h]; rfl⟩

end Sys2Proof.Machine
end

section
/-! PROOF. Rounding onto the grid (O6): what a rounding shift, a comparison of exact values and one partial come to as rationals. -/

namespace Sys2Proof.Machine

-- Powers of two.

theorem two_pow_cast (k : Nat) : (((2 ^ k : Nat) : Int) : Rat) = 2 ^ (k : Int) := by
  rw [Rat.intCast_natCast, Rat.natCast_pow, Rat.zpow_natCast]
  rfl

theorem pow2_cast {k : Int} (h : 0 ≤ k) : (pow2 k : Rat) = 2 ^ k := by
  obtain ⟨n, rfl⟩ := Int.eq_ofNat_of_zero_le h
  exact two_pow_cast n

theorem zpow_two_pos (k : Int) : (0 : Rat) < 2 ^ k := Rat.zpow_pos (by decide)

/-- A finer power of two, from a coarser one. -/
theorem pow2_mul_zpow {a b : Int} (h : b ≤ a) : (pow2 (a - b) : Rat) * 2 ^ b = 2 ^ a := by
  rw [pow2_cast (by omega), ← Rat.zpow_add (by decide), Int.sub_add_cancel]

/-- Comparing exact values. -/
theorem Dy.lt_iff (x y : Dy) : Dy.lt x y = true ↔ (x.m : Rat) * 2 ^ x.e < y.m * 2 ^ y.e := by
  unfold Dy.lt
  split
  next h =>
    rw [decide_eq_true_iff, ← pow2_mul_zpow h, ← Rat.mul_assoc, Rat.mul_lt_mul_right (zpow_two_pos _), ← Rat.intCast_mul, Rat.intCast_lt_intCast]
  next h =>
    rw [decide_eq_true_iff, ← pow2_mul_zpow (Int.le_of_not_le h), ← Rat.mul_assoc, Rat.mul_lt_mul_right (zpow_two_pos _), ← Rat.intCast_mul,
      Rat.intCast_lt_intCast]

-- Rounding to the nearest, ties to even (R44).

/-- `q` steps of `g` are nearest to `v`, and even where two are. -/
structure Nearest (v g : Rat) (q : Int) : Prop where
  above : -(g / 2) ≤ v - q * g
  below : v - q * g ≤ g / 2
  even  : v - q * g = -(g / 2) ∨ v - q * g = g / 2 → q % 2 = 0

theorem rneShift_bounds (m : Int) (k : Nat) {d : Int} (hd : d = ((2 ^ k : Nat) : Int)) :
    -d ≤ 2 * (m - rneShift m k * d) ∧ 2 * (m - rneShift m k * d) ≤ d ∧
      (2 * (m - rneShift m k * d) = -d ∨ 2 * (m - rneShift m k * d) = d → rneShift m k % 2 = 0) := by
  have hpos : 0 < d := hd ▸ Int.natCast_pos.2 (Nat.two_pow_pos k)
  have hlow := Int.emod_nonneg m (Int.ne_of_gt hpos)
  have hhigh := Int.emod_lt_of_pos m hpos
  have hdiv := Int.emod_add_mul_ediv m d
  rw [Int.mul_comm] at hdiv
  have hnext : (m / d + 1) * d = m / d * d + d := by rw [Int.add_mul, Int.one_mul]
  simp only [rneShift, ← hd]
  split
  · omega
  · split
    · rw [hnext]
      omega
    · split
      · omega
      · rw [hnext]
        omega

theorem rneShift_nearest (m : Int) (k : Nat) : Nearest m (2 ^ (k : Int)) (rneShift m k) := by
  obtain ⟨d, hd⟩ : ∃ d, d = ((2 ^ k : Nat) : Int) := ⟨_, rfl⟩
  obtain ⟨hlo, hhi, heven⟩ := rneShift_bounds m k hd
  have hcast : ((2 * (m - rneShift m k * d) : Int) : Rat) = 2 * (m - rneShift m k * d) := by
    rw [Rat.intCast_mul, Rat.intCast_sub, Rat.intCast_mul]
    rfl
  rw [← two_pow_cast, ← hd]
  rw [← Rat.intCast_le_intCast, hcast, Rat.intCast_neg] at hlo
  rw [← Rat.intCast_le_intCast, hcast] at hhi
  rw [← Rat.intCast_inj, hcast, Rat.intCast_neg, ← Rat.intCast_inj (b := d), hcast] at heven
  refine ⟨by grind, by grind, fun h => heven (h.imp (fun h => ?_) fun h => ?_)⟩
  · grind
  · grind

/-- Rounding keeps its scale. -/
theorem Nearest.scale {v g c : Rat} {q : Int} (h : Nearest v g q) (hc : 0 < c) : Nearest (v * c) (g * c) q := by
  have hv : v * c - q * (g * c) = (v - q * g) * c := by grind
  have hg : g * c / 2 = g / 2 * c := by grind
  have hneg : -(g / 2 * c) = -(g / 2) * c := by grind
  have hcancel : ∀ {x y : Rat}, x * c = y * c → x = y := fun h =>
    Rat.le_antisymm (Rat.le_of_mul_le_mul_right (h ▸ Rat.le_refl) hc) (Rat.le_of_mul_le_mul_right (h ▸ Rat.le_refl) hc)
  refine ⟨?_, ?_, ?_⟩ <;> rw [hv, hg]
  · rw [hneg]
    exact Rat.mul_le_mul_of_nonneg_right h.above (Rat.le_of_lt hc)
  · exact Rat.mul_le_mul_of_nonneg_right h.below (Rat.le_of_lt hc)
  · rw [hneg]
    exact fun he => h.even (he.imp hcancel hcancel)

theorem roundSteps_nearest (m e g : Int) : Nearest (m * 2 ^ e) (2 ^ g) (roundSteps m e g) := by
  unfold roundSteps
  split
  next h =>
    have hexact : (m * 2 ^ e : Rat) - (m * pow2 (e - g) : Int) * 2 ^ g = 0 := by
      rw [Rat.intCast_mul, Rat.mul_assoc, pow2_mul_zpow h]
      grind
    have hpos := zpow_two_pos g
    refine ⟨?_, ?_, ?_⟩ <;> rw [hexact]
    · grind
    · grind
    · rintro (h | h) <;> grind
  next h =>
    have hscale := (rneShift_nearest m (g - e).toNat).scale (zpow_two_pos e)
    have hpow : (2 : Rat) ^ ((g - e).toNat : Int) * 2 ^ e = 2 ^ g := by
      rw [Int.toNat_of_nonneg (by omega), ← Rat.zpow_add (by decide), Int.sub_add_cancel]
    rwa [hpow] at hscale

/-- A whole number of steps within one step and a half of zero is one of three. -/
theorem steps_small {g : Rat} (hg : 0 < g) {q : Int} (hlo : -(3 / 2 * g) ≤ q * g) (hhi : q * g ≤ 3 / 2 * g) : q = -1 ∨ q = 0 ∨ q = 1 := by
  have hq1 : (q : Rat) < (2 : Int) := by
    refine Rat.lt_of_mul_lt_mul_right (c := g) ?_ (Rat.le_of_lt hg)
    rw [Rat.intCast_ofNat]
    grind
  have hq2 : ((-2 : Int) : Rat) < q := by
    refine Rat.lt_of_mul_lt_mul_right (c := g) ?_ (Rat.le_of_lt hg)
    rw [Rat.intCast_neg, Rat.intCast_ofNat]
    grind
  rw [Rat.intCast_lt_intCast] at hq1 hq2
  omega

/-- Zero is nearest exactly to what lies within half a step. -/
theorem Nearest.eq_zero_iff {v g : Rat} {q : Int} (h : Nearest v g q) (hg : 0 < g) : q = 0 ↔ -(g / 2) ≤ v ∧ v ≤ g / 2 := by
  have habove := h.above
  have hbelow := h.below
  constructor
  · rintro rfl
    rw [Rat.intCast_zero] at habove hbelow
    constructor <;> grind
  · rintro ⟨hlo, hhi⟩
    have heven := h.even
    obtain rfl | rfl | rfl := steps_small hg (q := q) (by grind) (by grind)
    · rw [Rat.intCast_neg, Rat.intCast_one] at heven habove
      exact absurd (heven (.inr (by grind))) (by decide)
    · rfl
    · rw [Rat.intCast_one] at heven hbelow habove
      exact absurd (heven (.inl (by grind))) (by decide)

-- One partial (R43 to R45).

theorem addPartial_eq (exch fixed : Bool) (a m e : Int) :
    addPartial exch fixed a m e =
      if fixed && Dy.lt ⟨(if exch then pow2 36 else pow2 96) - 1, gridExp exch a⟩ ⟨(m.natAbs : Int), e⟩ then
        ((if m < 0 then -((if exch then pow2 36 else pow2 96) - 1) else (if exch then pow2 36 else pow2 96) - 1) *
          (if exch then pow2 60 else 1), 0, 1)
      else (roundSteps m e (gridExp exch a) * (if exch then pow2 60 else 1), if m ≠ 0 ∧ roundSteps m e (gridExp exch a) = 0 then 1 else 0, 0) :=
  rfl

/-- The steps of an accumulation's number, as steps of its grid. -/
theorem grid_steps (exch : Bool) (a q : Int) :
    ((q * (if exch then pow2 60 else 1) : Int) : Rat) * 2 ^ (a - 95) = q * 2 ^ gridExp exch a := by
  cases exch with
  | false =>
    rw [if_neg Bool.false_ne_true, Int.mul_one]
    rfl
  | true =>
    have hstep := pow2_mul_zpow (a := a - 35) (b := a - 95) (by omega)
    rw [show a - 35 - (a - 95) = 60 by omega] at hstep
    rw [if_pos rfl, Rat.intCast_mul, Rat.mul_assoc, hstep]
    rfl

theorem limit_mul (p : Int) (x : Rat) : ((p - 1 : Int) : Rat) * x = p * x - x := by
  rw [Rat.intCast_sub, Rat.intCast_one]
  grind

/-- The largest magnitude that FIXED mode keeps (R45). -/
theorem grid_limit (exch : Bool) (a : Int) :
    (((if exch then pow2 36 else pow2 96) - 1 : Int) : Rat) * 2 ^ gridExp exch a = 2 ^ (a + 1) - 2 ^ gridExp exch a := by
  cases exch with
  | false =>
    have hstep := pow2_mul_zpow (a := a + 1) (b := a - 95) (by omega)
    rw [show a + 1 - (a - 95) = 96 by omega] at hstep
    rw [if_neg Bool.false_ne_true, limit_mul, ← hstep]
    rfl
  | true =>
    have hstep := pow2_mul_zpow (a := a + 1) (b := a - 35) (by omega)
    rw [show a + 1 - (a - 35) = 36 by omega] at hstep
    rw [if_pos rfl, limit_mul, ← hstep]
    rfl

/-- A magnitude passes a limit where the number passes it on one side. -/
theorem lt_natAbs_mul {l p : Rat} (hp : 0 < p) (m : Int) : l < ((m.natAbs : Int) : Rat) * p ↔ m * p < -l ∨ l < m * p := by
  rcases Int.le_total 0 m with hm | hm
  · have hmp : 0 ≤ (m : Rat) * p := Rat.mul_nonneg (Rat.intCast_nonneg.2 hm) (Rat.le_of_lt hp)
    rw [Int.natAbs_of_nonneg hm]
    grind
  · have hmp : (m : Rat) * p ≤ 0 := by
      have h := Rat.mul_le_mul_of_nonneg_right (Rat.intCast_nonpos.2 hm) (Rat.le_of_lt hp)
      rwa [Rat.zero_mul] at h
    rw [Int.ofNat_natAbs_of_nonpos hm, Rat.intCast_neg]
    grind

/-- A partial is past the limit of FIXED mode where its magnitude is. -/
theorem past_iff (exch : Bool) (a m e : Int) :
    Dy.lt ⟨(if exch then pow2 36 else pow2 96) - 1, gridExp exch a⟩ ⟨(m.natAbs : Int), e⟩ = true ↔
      (m * 2 ^ e : Rat) < -(2 ^ (a + 1) - 2 ^ gridExp exch a) ∨ (2 ^ (a + 1) - 2 ^ gridExp exch a : Rat) < m * 2 ^ e := by
  rw [Dy.lt_iff, grid_limit, lt_natAbs_mul (zpow_two_pos e)]

/-- Settles O6: one partial by `roundSteps_nearest`, its zero by `Nearest.eq_zero_iff`, the clamp by `past_iff`. -/
theorem partialsRoundOntoTheGrid : Obligations.PartialsRoundOntoTheGrid := by
  intro exch fixed a m e n low high v g top x hadd hv hg htop hx
  have hgrid : g = 2 ^ gridExp exch a := hg.trans (by cases exch <;> rfl)
  have hpos : 0 < g := hgrid ▸ zpow_two_pos _
  have hpast := past_iff exch a m e
  have hnear := roundSteps_nearest m e (gridExp exch a)
  rw [← hgrid, ← htop, ← hv] at hpast
  rw [← hgrid, ← hv] at hnear
  rw [addPartial_eq] at hadd
  refine ⟨fun ⟨hfix, hout⟩ => ?_, fun hin => ?_⟩
  · rw [if_pos (by rw [hfix, hpast.2 hout]; rfl)] at hadd
    obtain ⟨rfl, rfl, rfl⟩ := hadd
    refine ⟨?_, rfl, rfl⟩
    rw [hx, grid_steps, htop, hgrid]
    split
    · rw [Rat.intCast_neg, Rat.neg_mul, grid_limit]
    · rw [grid_limit]
  · have hkeep : ¬ (fixed && Dy.lt ⟨(if exch then pow2 36 else pow2 96) - 1, gridExp exch a⟩ ⟨(m.natAbs : Int), e⟩) = true := by
      rw [Bool.and_eq_true, hpast]
      rintro ⟨hfix, hout⟩
      rcases hin with h | ⟨hlo, hhi⟩
      · rw [hfix] at h
        cases h
      · rcases hout with h | h <;> grind
    rw [if_neg hkeep] at hadd
    obtain ⟨rfl, rfl, rfl⟩ := hadd
    have hxq : x = roundSteps m e (gridExp exch a) * g := by rw [hx, grid_steps, hgrid]
    refine ⟨rfl, ⟨_, hxq, hxq ▸ hnear.above, hxq ▸ hnear.below, hxq ▸ hnear.even⟩, fun ⟨hm, hlo, hhi⟩ => ?_, fun h => ?_⟩
    · have hzero := (hnear.eq_zero_iff hpos).2 ⟨hlo, hhi⟩
      exact ⟨by rw [hxq, hzero, Rat.intCast_zero, Rat.zero_mul], if_pos ⟨hm, hzero⟩⟩
    · refine if_neg fun ⟨hm, hzero⟩ => ?_
      obtain ⟨hlo, hhi⟩ := (hnear.eq_zero_iff hpos).1 hzero
      rcases h with h | h | h
      · exact hm h
      · grind
      · grind

end Sys2Proof.Machine
end

section
/-! PROOF. Dispatches (O9, O11, O12, O17, O18, O19): one law for each way a dispatch ends beside those of Laws/Streams, and the
commands that complete or wait at theirs. -/

namespace Sys2Proof.Machine

-- The ways in which a dispatch ends before its checks (R120, R124, R126).

section
variable {n : Nat} {want : Packet → Bool} {prep : State → Cmd → Res Cmd} {run : State → Cmd → State} {s : State} {w : Packet}

/-- An entry that cannot be read faults the context. -/
theorem dispatch_fetch_faults {k : Cause} (hd : s.canDispatch n = true) (hf : s.fetch n = .fault k) :
    dispatch n want prep run s = (s.faultCx (s.cxOf n) k (some (n, s.rd R.SP_PTRS_HEAD n))).settle := by
  simp only [dispatch, hd, hf, Bool.not_true, Bool.false_eq_true, if_false]

/-- An operation that is not listed is illegal. -/
theorem dispatch_unlisted (hd : s.canDispatch n = true) (hf : s.fetch n = .ok w) (hl : listedOpcs.contains (opc w) = false) :
    dispatch n want prep run s = (s.faultCx (s.cxOf n) illegal (some (n, s.rd R.SP_PTRS_HEAD n))).settle := by
  simp only [dispatch, hd, hf, hl, Bool.not_true, Bool.not_false, Bool.false_eq_true, if_false, if_true]

/-- A row that is not that of the command does nothing. -/
theorem dispatch_other_row (hd : s.canDispatch n = true) (hf : s.fetch n = .ok w) (hl : listedOpcs.contains (opc w) = true)
    (hw : want w = false) : dispatch n want prep run s = s := by
  simp only [dispatch, hd, hf, hl, hw, Bool.not_true, Bool.not_false, Bool.false_eq_true, if_false, if_true]

/-- A header with a reserved bit set is illegal. -/
theorem dispatch_bad_header (hd : s.canDispatch n = true) (hf : s.fetch n = .ok w) (hl : listedOpcs.contains (opc w) = true)
    (hw : want w = true) (hh : headerOk w = false) :
    dispatch n want prep run s = (s.faultCx (s.cxOf n) illegal (some (n, s.rd R.SP_PTRS_HEAD n))).settle := by
  simp only [dispatch, hd, hf, hl, hw, hh, Bool.not_true, Bool.not_false, Bool.false_eq_true, if_false, if_true]

/-- ORDER holds a command back behind earlier ones. -/
theorem dispatch_held (hd : s.canDispatch n = true) (hf : s.fetch n = .ok w) (hl : listedOpcs.contains (opc w) = true)
    (hw : want w = true) (hh : headerOk w = true) (ho : (pktBit w 17 && !(s.earlier n).isEmpty) = true) :
    dispatch n want prep run s = s.setHeld n true := by
  simp only [dispatch, hd, hf, hl, hw, hh, ho, Bool.not_true, Bool.false_eq_true, if_false, if_true]

/-- A command of a closed step is illegal. -/
theorem dispatch_closed {st : Nat} (hd : s.canDispatch n = true) (hf : s.fetch n = .ok w) (hl : listedOpcs.contains (opc w) = true)
    (hw : want w = true) (hh : headerOk w = true) (ho : (pktBit w 17 && !(s.earlier n).isEmpty) = false) (hop : opc w ≠ 0x51)
    (hst : (s.sp n).step = some st) (hc : s.stepClosed (s.cxOf n) st = true) :
    dispatch n want prep run s = (s.faultCx (s.cxOf n) illegal (some (n, s.rd R.SP_PTRS_HEAD n))).settle := by
  have hclosed : (opc w != 0x51 && (s.newCmd n w).step.any fun st => s.stepClosed (s.cxOf n) st) = true := by
    rw [Bool.and_eq_true, bne_iff_ne]
    exact ⟨hop, by rw [State.newCmd, hst]; exact hc⟩
  simp only [dispatch, hd, hf, hl, hw, hh, ho, hclosed, Bool.not_true, Bool.false_eq_true, if_false, if_true]

end

/-- A row of the table whose command is told by its operation code alone (R125): what it dispatches. -/
structure PlainRow (ev : Fin 32 → Instr) (op : Nat) (prep : State → Cmd → Res Cmd) : Prop where
  listed : op ∈ listedOpcs
  meaning : ∃ run, ∀ (sp : Fin 32) (s : State), exec (ev sp) s = .next (dispatch sp (fun w => opc w == op) prep run s)

/-- Settles O9: each row is a dispatch, and a dispatch ends in one of the ways above. -/
theorem commandsThatFailTheirChecksFault : Obligations.CommandsThatFailTheirChecksFault := by
  intro s sp w k ev op prep bad hrow hbad
  have hrows : ∀ {l : List ((Fin 32 → Instr) × Nat × (State → Cmd → Res Cmd))}, (ev, op, prep) ∈ l →
      (∀ r ∈ l, PlainRow r.1 r.2.1 r.2.2) → PlainRow ev op prep := fun hm h => h _ hm
  have hplain : PlainRow ev op prep := by
    refine hrows hrow ?_
    repeat refine List.forall_mem_cons.2 ⟨⟨by decide, _, fun _ _ => rfl⟩, ?_⟩
    exact List.forall_mem_nil _
  obtain ⟨hop, run, hexec⟩ := hplain
  subst hbad
  have hcontains : listedOpcs.contains op = true := List.contains_iff_mem.2 hop
  refine ⟨fun hd => ?_, fun hd hf => ?_, fun hd hf hl => ?_, fun hd hf hl hne => ?_, fun hd hf ho hh => ?_, fun hd hf ho hh hb he => ?_,
    fun hd hf ho hh hb hne ⟨st, hst, hc⟩ => ?_, fun hh ho hp => ?_, fun hh ho hp => ?_⟩ <;> rw [hexec]
  · rw [dispatch_idle hd]
  · rw [dispatch_fetch_faults hd hf]
  · rw [dispatch_unlisted hd hf (by simpa using hl)]
  · rw [dispatch_other_row hd hf (by simpa using hl) (by simpa using hne)]
  · rw [dispatch_bad_header hd hf (ho ▸ hcontains) (by simpa using ho) (by rwa [headerOk, Bool.and_eq_false_iff, beq_eq_false_iff_ne, beq_eq_false_iff_ne])]
  · rw [dispatch_held hd hf (ho ▸ hcontains) (by simpa using ho) hh (by simp [hb, he])]
  · rw [dispatch_closed hd hf (ho ▸ hcontains) (by simpa using ho) hh (by rcases hb with h | h <;> simp [h]) (ho ▸ hne) hst hc]
  · rw [dispatch_faults hh (ho ▸ hcontains) (by simpa using ho) hp]
  · rw [dispatch_waits hh (ho ▸ hcontains) (by simpa using ho) hp]

-- Dispatches that run their command.

theorem prep_same {prep : State → Cmd → Res Cmd} (hp : prep ∈ [prepPlain, prepWload, prepRows streamFieldsOk, prepRows wgradFieldsOk,
      prepDrain, prepConvgen, prepFinish, prepHcount, prepMove, prepList, prepPut, prepGet, prepColl, prepBarrier, prepSemWait, prepSemPost,
      prepWaitVersion, prepFence, prepCue, prepStepBegin, prepVerdict, prepCommit, prepDataCommit, prepUpdate, prepCast])
    {s : State} {x y : Cmd} (h : prep s x = .ok y) : SameCmd x y := by
  have keep : y = x → SameCmd x y := fun e => e ▸ SameCmd.refl x
  simp only [List.mem_cons, List.not_mem_nil, or_false] at hp
  rcases hp with rfl | rfl | rfl | rfl | rfl | rfl | rfl | rfl | rfl | rfl | rfl | rfl | rfl | rfl | rfl | rfl | rfl | rfl | rfl | rfl |
    rfl | rfl | rfl | rfl | rfl
  · exact keep (prepPlain_same h).1
  · exact prepWload_same h
  · exact prepRows_same h
  · exact prepRows_same h
  · exact prepDrain_same h
  · exact keep (prepConvgen_same h)
  · exact prepFinish_same h
  · exact prepHcount_same h
  · exact prepMove_same h
  · exact prepList_same h
  · exact prepPut_same h
  · exact prepGet_same h
  · exact prepColl_same h
  · exact keep (prepBarrier_same h)
  · exact keep (prepSemWait_same h)
  · exact keep (prepSemPost_same h)
  · exact keep (prepWaitVersion_same h)
  · exact keep (prepFence_same h)
  · exact keep (prepCue_same h)
  · exact keep (prepStepBegin_same h)
  · exact keep (prepVerdict_same h)
  · exact keep (prepCommit_same h)
  · exact keep (prepDataCommit_same h)
  · exact keep (prepUpdate_same h)
  · exact prepCast_same h

/-- Settles O11: every check of a dispatch keeps the command's place, and a dispatch does what `dispatched_spec` says. -/
theorem dispatchCountsHeadAndNothingElse : Obligations.DispatchCountsHeadAndNothingElse := by
  intro s sp w x prep hprep hx
  have hsame := prep_same hprep hx.made
  exact ⟨dispatched_spec hx.canon sp.isLt hsame, hsame.id, hsame.sp, hsame.cx, hsame.index, hsame.w⟩

/-- A command that starts is dispatched and does what its row says. -/
theorem Starts.answers {s : State} {sp : Nat} {w : Packet} {prep : State → Cmd → Res Cmd} {x : Cmd} (h : Starts s sp w prep x)
    {want : Packet → Bool} (hl : listedOpcs.contains (opc w) = true) (hw : want w = true) (run : State → Cmd → State) :
    Host.Outcome.next (φ := Fault) (ρ := Refusal) (dispatch sp want prep run s) = .next (run (s.dispatched x) x).settle := by
  rw [dispatch_runs h.head hl hw h.made]

/-- The same for a row told by its operation code. -/
theorem Starts.answers_op {s : State} {sp : Nat} {w : Packet} {prep : State → Cmd → Res Cmd} {x : Cmd} (h : Starts s sp w prep x)
    {op : Nat} (ho : opc w = op) (hl : listedOpcs.contains op = true) (run : State → Cmd → State) :
    Host.Outcome.next (φ := Fault) (ρ := Refusal) (dispatch sp (fun w => opc w == op) prep run s) =
      .next (run (s.dispatched x) x).settle :=
  h.answers (want := fun w => opc w == op) (ho ▸ hl) (beq_iff_eq.2 ho) run

/-- What a command says of itself after its checks is what stands at HEAD. -/
theorem Starts.dispatched {s : State} {sp : Nat} {w : Packet} {prep : State → Cmd → Res Cmd} {x : Cmd} (h : Starts s sp w prep x)
    (hsp : sp < 32) (hs : SameCmd (s.newCmd sp w) x) : Dispatched s (s.dispatched x) sp := dispatched_spec h.canon hsp hs

-- NOP, TAKE_POINT, CONVGEN and SEM_POST (R114, R125, R148, R285).

/-- A dispatch leaves the park that a context has been told. -/
theorem Dispatched.park {s u : State} {sp : Nat} (h : Dispatched s u sp) (c : Nat) : (u.cx c).park = (s.cx c).park := by
  have hcx := congrArg Ctx.park (h.cxs c)
  exact hcx

theorem runTakePoint_eq (s : State) (x : Cmd) :
    runTakePoint s x = (if (s.cx x.cx).park = .atPoint then s.updSp x.sp fun p => { p with halted := true } else s).complete x := by
  simp only [runTakePoint, completeNow, beq_iff_eq]

/-- What the checks of SEM_POST say of its sum (R148). -/
theorem prepSemPost_fits {s : State} {x y : Cmd} {w : Packet} (hw : x.w = w) (h : prepSemPost s x = .ok y) :
    s.sem (semOwner (pkt w 64 12)) (semIndex (pkt w 64 12)) + pkt w 96 32 < 2 ^ 32 := by
  subst hw
  obtain ⟨_, -, h⟩ := Res.bind_ok h
  obtain ⟨m, hm, h⟩ := Res.bind_ok h
  obtain ⟨_, hfit, -⟩ := Res.bind_ok h
  obtain ⟨_, -, hm⟩ := Res.bind_ok hm
  cases hm
  exact of_decide_eq_true (Bool.and_eq_true_iff.1 (Res.check_ok hfit)).2

theorem runSemPost_fits {s : State} {x : Cmd} {w : Packet} (hw : x.w = w) {m i v : Nat} (hm : m = semOwner (pkt w 64 12))
    (hi : i = semIndex (pkt w 64 12)) (hv : v = pkt w 96 32) (hfit : s.sem m i + v < 2 ^ 32) :
    runSemPost s x = ((s.setSem m i (s.sem m i + v)).count 0x070 0xFF m 1).complete x := by
  subst hw hm hi hv
  simp only [runSemPost, State.post, semValue, hfit, if_true, completeNow]

/-- Settles O12: the four rows run at their dispatch, and the post's sum is what the checks saw. -/
theorem commandsThatCompleteAtDispatch : Obligations.CommandsThatCompleteAtDispatch := by
  refine ⟨fun s sp w x => ⟨fun ho h => ?_, fun ho h => ?_, fun ho h => ?_⟩, fun s sp w x m i v hm hi hv ho h hn => ?_⟩
  · exact h.answers_op ho (by decide) completeNow
  · obtain rfl := (prepPlain_same h.made).1
    refine (h.answers_op ho (by decide) runTakePoint).trans ?_
    rw [runTakePoint_eq, (h.dispatched sp.isLt (.refl _)).park]
    rfl
  · obtain rfl := prepConvgen_same h.made
    exact h.answers_op ho (by decide) runConvgen
  · obtain rfl := prepSemPost_same h.made
    have hfit : s.sem m i + v < 2 ^ 32 := by
      rw [hm, hi, hv]
      exact prepSemPost_fits rfl h.made
    have hsem : (s.dispatched (s.newCmd sp w)).sem m i = s.sem m i :=
      (h.dispatched sp.isLt (.refl _)).sem sp.isLt hn (hm ▸ Nat.mod_lt _ (by decide)) (hi ▸ Nat.mod_lt _ (by decide))
    refine ⟨hfit, (h.answers_op ho (by decide) runSemPost).trans ?_⟩
    rw [runSemPost_fits (x := s.newCmd sp w) rfl hm hi hv (by rw [hsem]; exact hfit), hsem]

-- SEM_WAIT, WAIT_VERSION and FENCE (R126, R149 to R151).

/-- Settles O17: each of the three begins a wait, and only WAIT_VERSION is evaluated at once. -/
theorem waitsHoldTheirProcessor : Obligations.WaitsHoldTheirProcessor := by
  intro s sp w x u q hu hq
  subst hu hq
  refine ⟨fun ho h => ?_, fun ho h => ?_, fun ho h => ?_⟩
  · obtain rfl := prepSemWait_same h.made
    exact h.answers_op ho (by decide) runSemWait
  · obtain rfl := prepWaitVersion_same h.made
    exact h.answers_op ho (by decide) runWaitVersion
  · obtain rfl := prepFence_same h.made
    exact h.answers_op ho (by decide) runFence

-- STEP_BEGIN (R59, R66, R72, R152).

theorem cacheTables_regsWf {s : State} (h : s.regsWf = true) (c : Nat) : (s.cacheTables c).regsWf = true := by
  obtain ⟨hregs, -⟩ := s.cacheTables_keeps c
  rw [State.regsWf, hregs]
  exact h

/-- A dispatch keeps the canonical form of the registers. -/
theorem dispatched_regsWf {s : State} (h : s.regsWf = true) (x : Cmd) : (s.dispatched x).regsWf = true := by
  have hheld : (s.setHeld x.sp false).regsWf = true := h
  have hcounted : (s.counted x).regsWf = true := wr_regsWf (cacheTables_regsWf hheld x.cx) R.SP_PTRS_HEAD (x.index + 1) x.sp 0
  exact (reports_dispatched s x).regsWf hcounted

/-- The first step takes S and fixes the oldest step; S_INIT reads the same before and after S is written (R72). -/
theorem firstStep_eq {s : State} (hs : s.regsWf = true) (c n : Nat) :
    s.firstStep c n = (s.wr R.CX_LEARN_S (s.rd R.CX_LEARN_S_INIT c) c).updCx c fun y =>
      { y with first := some n, oldest := n, s0 := signedOf 8 (s.rd R.CX_LEARN_S_INIT c) } := by
  rw [State.firstStep, wr_rd_away hs (by decide) (by decide)]

section
variable {s : State} {x : Cmd}

theorem runStepBegin_plain (hl : s.isLearn x.cx = false) :
    runStepBegin s x = (s.updSp x.sp fun p => { p with step := some (pkt x.w 64 32) }).complete x := by
  simp only [runStepBegin, hl, Bool.not_false, if_true]
  rfl

theorem runStepBegin_first (hl : s.isLearn x.cx = true) (hf : (s.cx x.cx).first = none) :
    runStepBegin s x = (((s.firstStep x.cx (pkt x.w 64 32)).copyPim x.cx).updSp x.sp fun p =>
      { p with step := some (pkt x.w 64 32) }).complete x := by
  simp only [runStepBegin, hl, hf, Option.isNone_none, Bool.not_true, Bool.false_eq_true, if_false, if_true]
  rfl

theorem runStepBegin_near (hl : s.isLearn x.cx = true) (hf : (s.cx x.cx).first ≠ none) (hn : pkt x.w 64 32 ≤ (s.cx x.cx).oldest + 1) :
    runStepBegin s x = ((s.copyPim x.cx).updSp x.sp fun p => { p with step := some (pkt x.w 64 32) }).complete x := by
  have hfirst : (s.cx x.cx).first.isNone = false := Option.isNone_eq_false_iff.2 (Option.isSome_iff_ne_none.2 hf)
  have hstep : stepField x.w ≤ (s.cx x.cx).oldest + 1 := hn
  simp only [runStepBegin, hl, hfirst, hstep, Bool.not_true, Bool.false_eq_true, if_false, if_true]
  rfl

theorem runStepBegin_far (hl : s.isLearn x.cx = true) (hf : (s.cx x.cx).first ≠ none) (hn : (s.cx x.cx).oldest + 1 < pkt x.w 64 32) :
    runStepBegin s x = { s with cmds := s.cmds ++ [x] }.updSp x.sp fun p =>
      { p with wait := some (.step (pkt x.w 64 32)), waitCmd := some x.id } := by
  have hfirst : (s.cx x.cx).first.isNone = false := Option.isNone_eq_false_iff.2 (Option.isSome_iff_ne_none.2 hf)
  have hstep : ¬ stepField x.w ≤ (s.cx x.cx).oldest + 1 := Nat.not_le.2 hn
  simp only [runStepBegin, hl, hfirst, hstep, Bool.not_true, Bool.false_eq_true, if_false]
  rfl

end

/-- Settles O18: the four branches of `runStepBegin`. -/
theorem stepBeginSetsTheStep : Obligations.StepBeginSetsTheStep := by
  intro s u sp w x c n set ho h hu hc hn hset
  obtain rfl := prepStepBegin_same h.made
  have hexec : exec (.stepBegin sp) s = .next (runStepBegin u (s.newCmd sp w)).settle := hu ▸ h.answers_op ho (by decide) runStepBegin
  subst hc hn hset
  rw [hexec]
  refine ⟨fun hl => ?_, fun hl hf => ?_, fun hl hf ho => ?_, fun hl hf ho => ?_⟩
  · rw [runStepBegin_plain (x := s.newCmd sp w) hl]
    rfl
  · rw [runStepBegin_first (x := s.newCmd sp w) hl hf, firstStep_eq (hu ▸ dispatched_regsWf h.canon _)]
    rfl
  · rw [runStepBegin_near (x := s.newCmd sp w) hl hf ho]
    rfl
  · rw [runStepBegin_far (x := s.newCmd sp w) hl hf ho]
    rfl

-- CUE (R154, R372).

section
variable {s : State} {arrays load lead : Nat}

theorem takeCue_off (he : s.flag R.PWR_CFG_CUE_EN = false) :
    s.takeCue arrays load lead = if s.actedNow objPower then s.supCount else s := by
  simp only [State.takeCue, he, Bool.not_false, if_true]

theorem takeCue_short (he : s.flag R.PWR_CFG_CUE_EN = true) (hl : lead < 2000) : s.takeCue arrays load lead = s := by
  simp only [State.takeCue, he, hl, Bool.not_true, Bool.false_eq_true, if_false, if_true]

theorem takeCue_on (he : s.flag R.PWR_CFG_CUE_EN = true) (hl : 2000 ≤ lead) :
    s.takeCue arrays load lead = (List.range 8).foldl
      (fun (t : State) a => if bitAt arrays a && (t.arr a).ramp.stage == .gated then t.beginRamp a else t)
      (({ s with free := s.free + 1 }).updPwr fun p =>
        { p with cues := p.cues ++ [(⟨arrays, load, s.clock + lead, Config.freeValue s.free⟩ : CueRec)] }) := by
  simp only [State.takeCue, he, Nat.not_lt.2 hl, Bool.not_true, Bool.false_eq_true, if_false]
  rfl

end

/-- Settles O19: the three branches of `State.takeCue`. -/
theorem cueRampsArrays : Obligations.CueRampsArrays := by
  intro s u sp w x ho h hu
  obtain rfl := prepCue_same h.made
  have hexec : exec (.cue sp) s = .next ((u.takeCue (pkt w 64 8) (pkt w 72 8) (pkt w 80 32)).complete (s.newCmd sp w)).settle :=
    hu ▸ h.answers_op ho (by decide) runCue
  rw [hexec]
  refine ⟨fun he => ?_, fun he hl => ?_, fun he hl v hv => ?_⟩
  · rw [takeCue_off he]
  · rw [takeCue_short he hl]
  · rw [takeCue_on he hl, hv]

end Sys2Proof.Machine
end

section
/-! PROOF. Commands that join the commands in progress (O13 to O16, O20 to O22): what each row does once it is dispatched. -/

namespace Sys2Proof.Machine

-- What the stash takes from a dispatch leaves the commands in progress (R165).

theorem cmds_ite {p : Prop} [Decidable p] {a b : State} {l : List Cmd} (ha : a.cmds = l) (hb : b.cmds = l) :
    (if p then a else b).cmds = l := by
  split <;> assumption

theorem setSem_cmds (s : State) (c i v : Nat) : (s.setSem c i v).cmds = s.cmds := by
  obtain ⟨-, -, -, -, -, hcmds, -⟩ := s.pwrite_keeps (s.semAddr c i) (leBytes 8 v)
  exact cmds_ite hcmds rfl

theorem grantSlot_cmds (s : State) (c n : Nat) : (s.grantSlot c n).cmds = s.cmds := cmds_ite (setSem_cmds ..) rfl

theorem stashStore_cmds (s : State) (c i : Nat) : (s.stashStore c i).cmds = s.cmds := by
  unfold State.stashStore
  dsimp only
  split
  next h => exact (wrote_vwrite h).cmds
  next => rfl

theorem stashSet_cmds (s : State) (c i : Nat) (f : StashEntry → StashEntry) : (s.stashSet c i f).cmds = s.cmds :=
  cmds_ite (stashStore_cmds ..) ((reports_rush ..).cmds.trans (stashStore_cmds ..))

theorem openEntry_cmds (s : State) (c : Nat) (t : Touch) : (s.openEntry c t).cmds = s.cmds :=
  cmds_ite rfl (cmds_ite rfl (cmds_ite ((stashSet_cmds ..).trans (cmds_ite (grantSlot_cmds ..) rfl))
    (cmds_ite (grantSlot_cmds ..) rfl)))

theorem updCx_cmds (s : State) (c : Nat) (g : Ctx → Ctx) : (s.updCx c g).cmds = s.cmds := rfl

theorem countRead_cmds (s : State) (c : Nat) (t : Touch) : (s.countRead c t).cmds = s.cmds := by
  unfold State.countRead
  dsimp only
  exact cmds_ite rfl (cmds_ite ((updCx_cmds ..).trans ((stashSet_cmds ..).trans (cmds_ite (updCx_cmds ..) rfl)))
    ((stashSet_cmds ..).trans (cmds_ite (updCx_cmds ..) rfl)))

theorem stashDispatch_cmds (s : State) (c : Nat) (ts : List Touch) : (s.stashDispatch c ts).cmds = s.cmds := by
  unfold State.stashDispatch
  induction ts generalizing s with
  | nil => rfl
  | cons t ts ih => exact (ih _).trans ((countRead_cmds ..).trans (openEntry_cmds ..))

/-- A command joins the commands in progress behind those dispatched before it (R122). -/
theorem enqueue_cmds (s : State) (x : Cmd) : (enqueue s x).cmds = s.cmds ++ [x] := stashDispatch_cmds ..

-- WLOAD, STREAM, WGRAD and the DRAINs (R82, R88, R92, R104).

/-- A WLOAD dispatched: it has joined the commands in progress, and its handle is bound to it (R82). -/
def bindHandle (s : State) (x : Cmd) : State :=
  (enqueue s x).updCx x.cx fun c =>
    { c with binds := (c.binds.filter fun b => b.handle != pkt x.w 64 6) ++ [⟨pkt x.w 64 6, x.id, x.arrays, 2, tileOf x x.desc⟩] }

section
variable {s : State} {x : Cmd}

theorem runWload_eq (s : State) (x : Cmd) :
    runWload s x = if x.phase = .placing then bindHandle s x else
      match (bindHandle s x).reuseSlot x x.arrays with
      | some k => (bindHandle s x).satisfyReuse x x.arrays k
      | none => bindHandle s x := rfl

theorem runWload_placing (h : x.phase = .placing) : runWload s x = bindHandle s x := if_pos h

theorem runWload_reuse (h : x.phase ≠ .placing) {k : Nat} (hk : (bindHandle s x).reuseSlot x x.arrays = some k) :
    runWload s x = (bindHandle s x).satisfyReuse x x.arrays k := by
  rw [runWload_eq, if_neg h, hk]

theorem runWload_queued (h : x.phase ≠ .placing) (hk : (bindHandle s x).reuseSlot x x.arrays = none) :
    runWload s x = bindHandle s x := by
  rw [runWload_eq, if_neg h, hk]

end

/-- Settles O13: the rows join the commands in progress, and a WLOAD binds its handle as `runWload` says. -/
theorem arrayCommandsQueue : Obligations.ArrayCommandsQueue := by
  intro s sp w x
  refine ⟨fun ho h => ?_, fun ho h => h.answers_op ho (by decide) enqueue, fun ho h => h.answers_op ho (by decide) enqueue,
    fun ho h => ?_, fun u => enqueue_cmds u x, fun u hx => ?_⟩
  · obtain rfl : x.w = w := (prepWload_same h.made).w
    refine ⟨bindHandle (s.dispatched x) x, rfl, (h.answers_op ho (by decide) runWload).trans ?_⟩
    by_cases hp : x.phase = .placing
    · rw [runWload_placing hp, if_pos hp]
    · rw [if_neg hp]
      cases hk : (bindHandle (s.dispatched x) x).reuseSlot x x.arrays with
      | some k => rw [runWload_reuse hp hk]
      | none => rw [runWload_queued hp hk]
  · have hl : listedOpcs.contains (opc w) = true := ho ▸ by decide
    have hw : ∀ mode, drainMode w = mode → (opc w == 0x04 && drainMode w == mode) = true := fun mode hm => by simp [ho, hm]
    exact ⟨fun hm => h.answers hl (hw 0 hm) enqueue, fun hm => h.answers hl (hw 1 hm) enqueue,
      fun hm => h.answers hl (hw 2 hm) enqueue, fun hm => h.answers hl (hw 3 hm) enqueue⟩
  · rw [enqueue, hx]
    rfl

-- FINISH, HCOUNT, MOVE, GATHER and SCATTER (R139 to R141, R144, R145).

section
variable {s a t : State} {x : Cmd}

theorem tryFinish_ok (hready : s.stashReady x.cx x.stash = (a, true)) {f : FinDescs} {k : FinCounts} {after : List (Nat × Nat)}
    (hfin : (a.finTaken x).bind (fun f => (finAll a x f).bind fun r => .ok (f, r)) = .ok (f, k, after, t)) :
    tryFinish s x = ((t.updCmd x.id fun y => { y with phase := .finished, after := after }).finCount x f k).count 0x020 0 x.cx
      k.dst.total := by
  simp only [tryFinish, hready, hfin]

theorem tryHcount_ok (hready : s.stashReady x.cx x.stash = (a, true)) {k : Counts}
    (hrows : Res.fold (fun (k : Counts) j => (hcountRow a x.cx x.desc (pkt x.w 128 32 + j)).bind fun c => .ok (k.add c)) {}
      (List.range (min (pkt x.w 160 32) (x.desc.rows - pkt x.w 128 32))) = .ok k) :
    tryHcount s x = (a.updCmd x.id fun y => { y with phase := .finished }).countFor x.id x.desc.tid .w k := by
  simp only [tryHcount, hready, hrows]

theorem tryMover_ok (hready : s.stashReady x.cx x.stash = (a, true)) {cs : List (Nat × Nat × Nat)} (hcs : a.mvCopies x = .ok cs)
    (hcopy : a.copyAll x cs = (t, .ok ())) : tryMover s x = t.updCmd x.id fun y => { y with phase := .finished } := by
  simp only [tryMover, hready, hcs, hcopy]

theorem mvCopies_move (ho : opc x.w = 0x20) : s.mvCopies x = .ok [(mvSrc x.w, mvDst x.w, mvBytes x.w)] := if_pos ho

theorem mvCopies_list (ho : opc x.w ≠ 0x20) {cs : List (Nat × Nat × Nat)} (hcs : s.listCopies x = .ok cs)
    (hl : listOverlap x.w cs = false) : s.mvCopies x = .ok cs := by
  rw [State.mvCopies, if_neg ho, hcs, Res.bind, hl]
  rfl

theorem listOverlap_gather {w : Packet} (ho : opc w = 0x21) (cs : List (Nat × Nat × Nat)) :
    listOverlap w cs = cs.any fun q => overlaps q.1 q.2.2 (mvDst w) (mvRow w * mvCount w) := if_pos ho

theorem listOverlap_scatter {w : Packet} (ho : opc w = 0x22) (cs : List (Nat × Nat × Nat)) :
    listOverlap w cs = cs.any fun q => overlaps q.2.1 q.2.2 (mvSrc w) (mvRow w * mvCount w) := if_neg (by rw [ho]; decide)

end

/-- Settles O14: each row enqueues its command and then tries it, and the trial is the whole of its work. -/
theorem finishingAndCopyCommandsRun : Obligations.FinishingAndCopyCommandsRun := by
  refine ⟨fun s a t sp w x => ⟨fun ho h hlive hready f k after hfin => ?_, fun ho h hlive hready k hrows => ?_⟩,
    fun s a t sp w x cs hlive hready => ⟨fun ho h hcopy => ?_, fun ho h hcs hover hcopy => ?_, fun ho h hcs hover hcopy => ?_⟩⟩
  · refine (h.answers_op ho (by decide) runFinish).trans ?_
    rw [runFinish, if_pos hlive, tryFinish_ok hready hfin]
  · obtain rfl : x.w = w := (prepHcount_same h.made).w
    refine (h.answers_op ho (by decide) runHcount).trans ?_
    rw [runHcount, if_pos hlive, tryHcount_ok hready hrows]
  · obtain rfl : x.w = w := (prepMove_same h.made).w
    refine (h.answers_op ho (by decide) runMover).trans ?_
    rw [runMover, if_pos hlive, tryMover_ok hready (mvCopies_move ho) hcopy]
  · obtain rfl : x.w = w := (prepList_same h.made).w
    have hcopies := mvCopies_list (ho ▸ by decide) hcs ((listOverlap_gather ho cs).trans hover)
    refine (h.answers_op ho (by decide) runMover).trans ?_
    rw [runMover, if_pos hlive, tryMover_ok hready hcopies hcopy]
  · obtain rfl : x.w = w := (prepList_same h.made).w
    have hcopies := mvCopies_list (ho ▸ by decide) hcs ((listOverlap_scatter ho cs).trans hover)
    refine (h.answers_op ho (by decide) runMover).trans ?_
    rw [runMover, if_pos hlive, tryMover_ok hready hcopies hcopy]

-- PUT and GET (R144, R253, R254).

section
variable {s a : State} {x : Cmd}

theorem tryPut_ok (hready : s.stashReady x.cx x.stash = (a, true)) {bs : List Byte}
    (hread : a.vread x.cx (mvSrc x.w) (mvBytes x.w) = .ok bs) :
    tryPut s x = (a.updCmd x.id fun y => { y with phase := .running }).startPut (some x.id) x.cx (pkt x.w 96 16) (pkt x.w 112 4)
      (mvDst x.w) bs (if pktBit x.w 74 then some (pkt x.w 75 8) else none) false := by
  simp only [tryPut, hready, hread, mvTarget]

theorem tryGet_ok (hready : s.stashReady x.cx x.stash = (a, true)) {m : Msg}
    (hm : m = { id := a.nextMsg, cmd := some x.id, cx := x.cx, dev := pkt x.w 96 16, rcx := pkt x.w 112 4, isGet := true, src := mvSrc x.w,
                dst := mvDst x.w, bytes := mvBytes x.w, rpost := none, left := msgOffsets (mvBytes x.w),
                unsent := msgOffsets (mvBytes x.w), last := a.clock }) :
    tryGet s x = (a.updCmd x.id fun y => { y with phase := .running }).startMsg m (a.getFrames m) := by
  simp only [tryGet, hready, mvTarget, hm]

end

/-- Settles O15: a PUT reads its source at its dispatch (log entry 54), a GET asks for every piece of its range. -/
theorem putAndGetStartMessages : Obligations.PutAndGetStartMessages := by
  intro s a sp w x bs m hlive hready
  refine ⟨fun ho h hread => ?_, fun ho h hm => ?_⟩
  · obtain rfl : x.w = w := (prepPut_same h.made).w
    refine (h.answers_op ho (by decide) runPut).trans ?_
    rw [runPut, if_pos hlive, tryPut_ok hready hread]
  · obtain rfl : x.w = w := (prepGet_same h.made).w
    refine (h.answers_op ho (by decide) runGet).trans ?_
    rw [runGet, if_pos hlive, tryGet_ok hready hm]

-- The collectives and BARRIER (R146, R257, R258, R260).

section
variable {s a : State} {x : Cmd} {acc : Accord}

theorem tryColl_ok {k k' : Coll} (hk : s.colls.find? (fun k => k.cmd == some x.id) = some k)
    (hready : s.stashReady x.cx x.stash = (a, true)) (hstart : a.startColl x k = .ok k') :
    tryColl s x = (a.updCmd x.id fun y => { y with phase := .running }).enterColl k' := by
  simp only [tryColl, hk, hready, hstart]

theorem runColl_ok (hacc : (enqueue s x).commandAccord x.cx (pkt x.w 64 16) = .ok acc) {b : State}
    (hb : b = (enqueue s x).openColl { id := 0, cmd := some x.id, cx := x.cx, acc := acc, seq := 0, op := ceOp x.w })
    (hlive : b.cxLive x.cx = true) : runColl s x = tryColl b x := by
  simp only [runColl, hacc, ← hb, hlive, if_true]

theorem runBarrier_ok (hacc : (enqueue s { x with phase := .running }).commandAccord x.cx (pkt x.w 64 16) = .ok acc) :
    runBarrier s x = ((enqueue s { x with phase := .running }).openColl
      { id := 0, cmd := some x.id, cx := x.cx, acc := acc, seq := 0, op := .barrier }).enterVote x.id [] := by
  simp only [runBarrier, hacc]

end

/-- Settles O16: the four rows open their collective and enter it once it has started; BARRIER enters with an empty vote. -/
theorem collectivesEnterTheirRendezvous : Obligations.CollectivesEnterTheirRendezvous := by
  intro s a b sp w x acc k k'
  refine ⟨fun ho h hacc hb hlive hk hready hstart => ?_, fun ho h hacc => ?_⟩
  · obtain rfl : x.w = w := (prepColl_same h.made).w
    have hrun : runColl (s.dispatched x) x = (a.updCmd x.id fun y => { y with phase := .running }).enterColl k' :=
      (runColl_ok hacc hb hlive).trans (tryColl_ok hk hready hstart)
    have hrow : ∀ op, listedOpcs.contains op = true → opc x.w = op → _ := fun op hl ho =>
      (h.answers_op ho hl runColl).trans (congrArg (fun t : State => Host.Outcome.next t.settle) hrun)
    exact ⟨_, rfl, hrow 0x30 (by decide), hrow 0x31 (by decide), hrow 0x32 (by decide), hrow 0x33 (by decide)⟩
  · obtain rfl := prepBarrier_same h.made
    refine (h.answers_op ho (by decide) runBarrier).trans ?_
    rw [runBarrier_ok (x := s.newCmd sp w) hacc]

-- UPDATE, COMMIT and STEP_VERDICT (R153, R177, R179, R198, R258).

section
variable {s : State} {x : Cmd} {acc : Accord}

theorem runUpdate_alone (hu : udAccord x.w = 0xFFFF) : runUpdate s x = enqueue s x := if_pos hu

theorem runUpdate_joined (hu : udAccord x.w ≠ 0xFFFF) (hacc : (enqueue s x).commandAccord x.cx (udAccord x.w) = .ok acc) :
    runUpdate s x = (enqueue s x).openColl { id := 0, cmd := some x.id, cx := x.cx, acc := acc, seq := 0, op := .norms } := by
  simp only [runUpdate, hu, if_false, hacc]

theorem runVerdict_ok (hacc : (enqueue s { x with phase := .running }).commandAccord x.cx (pkt x.w 96 16) = .ok acc) :
    runVerdict s x = (enqueue s { x with phase := .running }).openColl
      { id := 0, cmd := some x.id, cx := x.cx, acc := acc, seq := 0, op := .verdict } := by
  simp only [runVerdict, vdAccord, hacc]

end

/-- Settles O20: the rows join the commands in progress, and those of an accord open its collective. -/
theorem trainingCommandsQueue : Obligations.TrainingCommandsQueue := by
  intro s sp w x acc
  refine ⟨fun ho hl h => ?_, fun ho h hu => ?_, fun ho h hu hacc => ?_, fun ho h hacc => ?_⟩
  · exact h.answers (want := fun w => opc w == 0x53 && cmLayer w != 0) (ho ▸ by decide) (by simp [ho, hl]) (fun s x => enqueue s x)
  · obtain rfl := prepUpdate_same h.made
    refine (h.answers_op ho (by decide) runUpdate).trans ?_
    rw [runUpdate_alone (x := s.newCmd sp w) hu]
  · obtain rfl := prepUpdate_same h.made
    refine (h.answers_op ho (by decide) runUpdate).trans ?_
    rw [runUpdate_joined (x := s.newCmd sp w) hu hacc]
  · obtain rfl := prepVerdict_same h.made
    refine (h.answers_op ho (by decide) runVerdict).trans ?_
    rw [runVerdict_ok (x := s.newCmd sp w) hacc]

section
variable {s : State} {x : Cmd}

theorem dataShadows_appending :
    ((s.dataShadows x).any fun h => s.appending x.cx (pageBytes * h.vpage)) =
      (s.cx x.cx).shadows.any fun h => h.step == cmStep x.w && h.byMove && !h.byUpdate && !h.print &&
        s.appending x.cx (pageBytes * h.vpage) := List.any_filter

theorem tryDataCommit_ok {t : State} {n : List Nat} (happ : ((s.dataShadows x).any fun h => s.appending x.cx (pageBytes * h.vpage)) = false)
    (hcommit : s.commitShadows x.cx (cmStep x.w) (s.dataShadows x) = .ok (t, n)) : tryDataCommit s x = cmDone t x := by
  simp only [tryDataCommit, happ, hcommit, Bool.false_eq_true, if_false]

end

/-- Settles O21: a data commit commits the shadows of its step's MOVEs at its dispatch. -/
theorem dataCommitActsAtDispatch : Obligations.DataCommitActsAtDispatch := by
  intro s u t sp w x n ho hl h hu happ hcommit
  obtain rfl := prepDataCommit_same h.made
  refine (h.answers (want := fun w => opc w == 0x53 && cmLayer w == 0) (ho ▸ by decide) (by simp [ho, hl])
    (fun s x => tryDataCommit (enqueue s x) x)).trans ?_
  rw [← hu, tryDataCommit_ok (x := s.newCmd sp w) (dataShadows_appending.trans happ) hcommit]
  rfl

-- CALLSHEET (R302, R340).

theorem tryCast_ok {s a t : State} {x : Cmd}
    (hturn : (s.cmds.any fun y => opc y.w == 0x60 && y.phase == .queued && decide (y.id < x.id)) = false)
    (hready : s.stashReady x.cx x.stash = (a, true)) (hres : (castRun a x).res = .ok ())
    (hstatus : (if csStatus x.w = 0 then .ok (castRun a x).s
      else (castRun a x).s.vwrite x.cx (csStatus x.w) (leBytes 4 (castRun a x).done ++ leBytes 4 (castRun a x).why)) = .ok t) :
    tryCast s x = (t.updCmd x.id fun y => { y with phase := .finished }).rush 8 x.cx x.sp 0x60 (pkt x.w 32 16) x.index t.builds := by
  simp only [tryCast, hturn, hready, hres, hstatus, Bool.false_eq_true, if_false]

/-- Settles O22: a CALLSHEET in its turn runs its operation, writes its status word and is finished. -/
theorem callsheetsRun : Obligations.CallsheetsRun := by
  intro s a t sp w x op r i hrow ho hop h hlive hturn hready hr hres hnone hstatus
  have hrows : ∀ {l : List (Nat × Instr)}, (op, i) ∈ l →
      (∀ r ∈ l, exec r.2 s = .next (dispatch sp (isCast r.1) prepCast runCast s)) → exec i s = .next (dispatch sp (isCast op) prepCast runCast s) :=
    fun hm h => h _ hm
  have hexec : exec i s = .next (dispatch sp (isCast op) prepCast runCast s) := by
    refine hrows hrow ?_
    repeat refine List.forall_mem_cons.2 ⟨rfl, ?_⟩
    exact List.forall_mem_nil _
  obtain rfl : x.w = w := (prepCast_same h.made).w
  subst hr
  have hword : (if csStatus x.w = 0 then .ok (castRun a x).s
      else (castRun a x).s.vwrite x.cx (csStatus x.w) (leBytes 4 (castRun a x).done ++ leBytes 4 (castRun a x).why)) = .ok t := by
    by_cases h0 : csStatus x.w = 0
    · rw [if_pos h0, hnone h0]
    · rw [if_neg h0, hstatus h0]
  refine hexec.trans ((h.answers (ho ▸ by decide) (by simp [isCast, ho, hop]) runCast).trans ?_)
  rw [runCast, if_pos hlive, tryCast_ok hturn hready hres hword]

end Sys2Proof.Machine
end

section
/-! PROOF. Completions (O23): what a finished command writes last, and what its completion leaves alone. -/

namespace Sys2Proof.Machine

/-- What a command keeps for its end is written to its context's memory (R139). -/
theorem wrote_writeAfter {s t : State} {c : Nat} {ws : List (Nat × Nat)} (h : s.writeAfter c ws = .ok t) : Wrote c s t := by
  induction ws generalizing s with
  | nil =>
    cases h
    exact .refl c _
  | cons w ws ih =>
    obtain ⟨u, hw, h⟩ := Res.bind_ok h
    exact (wrote_vwriteNat hw).trans (ih h)

theorem Wrote.cxLive {c : Nat} {s t : State} (h : Wrote c s t) (d : Nat) : t.cxLive d = s.cxLive d := by
  unfold State.cxLive State.cxState
  rw [rd_congr h.regs]

/-- A finished command of a context that exists completes at its COMMAND_COMPLETION. -/
theorem completionNow_finished {s : State} {id : Nat} {x : Cmd} (hx : s.cmd? id = some x) (hl : s.live = true)
    (hc : s.cxLive x.cx = true) (hp : x.phase = .finished) : completionNow s id = (finishCmd s x).settle := by
  have hqueued : ¬ CmdPhase.finished = CmdPhase.queued := by decide
  simp only [completionNow, hx, hl, hc, hp, hqueued, Bool.not_true, Bool.or_self, Bool.false_eq_true, if_false, if_true]

theorem finishCmd_ok {s t : State} {x : Cmd} (hw : s.writeAfter x.cx x.after = .ok t) :
    finishCmd s x =
      if (if opc x.w = 0x52 then t.applyVerdict x else t).cxLive x.cx then (if opc x.w = 0x52 then t.applyVerdict x else t).complete x
      else (if opc x.w = 0x52 then t.applyVerdict x else t) := by
  simp only [finishCmd, hw]

-- What a completion does (R124, R127, R148).

/-- A completed command has left: the stream slot that it released is unbound, and it stands no longer in progress. -/
def State.left (s : State) (x : Cmd) : State :=
  let s := if (opc x.w == 2 || opc x.w == 3) && pktBit x.w 154 then
      s.updCx x.cx fun c => { c with binds := c.binds.filter fun b => !(b.handle == pkt x.w 64 6 && b.load == x.source) }
    else s
  { s with cmds := s.cmds.filter fun y => y.id != x.id }

theorem left_keeps (s : State) (x : Cmd) :
    (s.left x).regs = s.regs ∧ (s.left x).mem = s.mem ∧ (s.left x).dbg = s.dbg ∧ (s.left x).arrs = s.arrs ∧ (s.left x).msgs = s.msgs ∧
      (s.left x).colls = s.colls ∧ (s.left x).cast = s.cast ∧ (s.left x).cmds = s.cmds.filter fun y => y.id != x.id := by
  unfold State.left
  split <;> exact ⟨rfl, rfl, rfl, rfl, rfl, rfl, rfl, rfl⟩

/-- The interrupt of a completion. -/
def State.interrupts (s : State) (x : Cmd) : State :=
  if s.cxState x.cx == 5 then s else if pktBit x.w 18 then s.msix (s.rd R.SP_RING_CTL_VECTOR x.sp) else s

theorem reports_interrupts (s : State) (x : Cmd) : Reports s (s.interrupts x) :=
  .ite (.refl s) (.ite (reports_msix s _ (bitsAt_lt _ _ 11)) (.refl s))

theorem complete_eq {s : State} {x : Cmd} (hcounts : x.counts = []) (hstash : x.stash = []) :
    s.complete x =
      (((s.left x).rush 1 x.cx x.sp (opc x.w) (pkt x.w 32 16) x.index (16 + x.sp)).headerPost x).interrupts x := by
  rw [State.complete, hcounts, hstash]
  rfl

/-- Reports leave a context's fields. -/
theorem Reports.rd_cx {s t : State} (h : Reports s t) (hs : s.regsWf = true) {c : Nat} (hc : c < 16) {f : Fld} {i : Nat} (hf : f.ok = true)
    (hb : f.blk = .CX) (hi : i < f.cnt) : t.rd f c i = s.rd f c i :=
  h.rd hs (reportReg_blk hf ⟨by rw [hb]; exact hc, hi⟩ (by rw [hb]; decide))

theorem Reports.semOwned {s t : State} (h : Reports s t) (hs : s.regsWf = true) {c : Nat} (hc : c < 16) (i : Nat) :
    t.semOwned c i = s.semOwned c i := by
  have hr : ∀ {f : Fld}, f.ok = true → f.blk = .CX → 0 < f.cnt → t.rd f c = s.rd f c := fun hf hb hi => h.rd_cx hs hc hf hb hi
  unfold State.semOwned State.flag
  rw [hr (f := R.CX_STASH_CTL_EN) (by decide) rfl (by decide), hr (f := R.CX_STASH_CTL_ADMIT_EN) (by decide) rfl (by decide),
    hr (f := R.CX_STASH_CTL_ADMIT_SEM) (by decide) rfl (by decide), hr (f := R.CX_CKPT_CTL_EN) (by decide) rfl (by decide),
    hr (f := R.CX_CKPT_CTL_GATE_SEM) (by decide) rfl (by decide)]

theorem Reports.semStored {s t : State} (h : Reports s t) (hs : s.regsWf = true) {c : Nat} (hc : c < 16) :
    t.semStored c = s.semStored c := by
  have hr : t.rd R.CX_STATUS_STATE c = s.rd R.CX_STATUS_STATE c := h.rd_cx hs hc (by decide) rfl (by decide)
  unfold State.semStored State.cxState
  rw [hr]

theorem sem_register {s : State} {c : Nat} (h : s.semStored c = false) (i : Nat) : s.sem c i = s.rd R.CX_SEM_VALUE c i :=
  if_neg (by rw [h]; decide)

theorem setSem_register {s : State} {c : Nat} (h : s.semStored c = false) (i v : Nat) : s.setSem c i v = s.wr R.CX_SEM_VALUE v c i :=
  if_neg (by rw [h]; decide)

theorem headerPost_none {s : State} {x : Cmd} (h : pktBit x.w 8 = false) : s.headerPost x = s := by
  rw [State.headerPost, h]
  rfl

/-- A header post adds 1 to a semaphore that stands in its register (R124, R148). -/
theorem headerPost_posts {s : State} {x : Cmd} {i : Nat} (hi : i = pkt x.w 9 8) (h : pktBit x.w 8 = true)
    (ho : s.semOwned x.cx i = false) (hst : s.semStored x.cx = false) (hfit : s.rd R.CX_SEM_VALUE x.cx i + 1 < 2 ^ 32) :
    s.headerPost x = (s.wr R.CX_SEM_VALUE (s.rd R.CX_SEM_VALUE x.cx i + 1) x.cx i).count 0x070 0xFF x.cx 1 := by
  subst hi
  simp only [State.headerPost, h, ho, State.post, sem_register hst, setSem_register hst, hfit, Bool.not_true, Bool.false_eq_true,
    if_false, if_true]

/-- A completion without a header post only reports once its command has left. -/
theorem reports_complete {s : State} {x : Cmd} (hcounts : x.counts = []) (hstash : x.stash = []) (h : pktBit x.w 8 = false) :
    Reports (s.left x) (s.complete x) := by
  rw [complete_eq hcounts hstash, headerPost_none h]
  exact (reports_rush ..).trans (reports_interrupts ..)

/-- One with a header post writes its semaphore between two reports. -/
theorem complete_posts {s : State} {x : Cmd} {i : Nat} (hs : s.regsWf = true) (hc : x.cx < 16) (hcounts : x.counts = [])
    (hstash : x.stash = []) (hi : i = pkt x.w 9 8) (h : pktBit x.w 8 = true) (ho : s.semOwned x.cx i = false)
    (hst : s.semStored x.cx = false) (hfit : s.sem x.cx i + 1 < 2 ^ 32) :
    ∃ u, Reports (s.left x) u ∧ Reports (u.wr R.CX_SEM_VALUE (s.rd R.CX_SEM_VALUE x.cx i + 1) x.cx i) (s.complete x) := by
  obtain ⟨hregs, -⟩ := left_keeps s x
  have hleft : (s.left x).regsWf = true := by rw [State.regsWf, hregs]; exact hs
  have hrush : Reports (s.left x) ((s.left x).rush 1 x.cx x.sp (opc x.w) (pkt x.w 32 16) x.index (16 + x.sp)) := reports_rush ..
  have hi256 : i < 256 := hi ▸ bitsAt_lt _ _ 8
  have hsem : ((s.left x).rush 1 x.cx x.sp (opc x.w) (pkt x.w 32 16) x.index (16 + x.sp)).rd R.CX_SEM_VALUE x.cx i =
      s.rd R.CX_SEM_VALUE x.cx i := (hrush.rd_cx hleft hc (by decide) rfl hi256).trans (rd_congr hregs ..)
  have hown : (s.left x).semOwned x.cx i = s.semOwned x.cx i := by
    simp only [State.semOwned, State.flag, rd_congr hregs]
  have hstored : (s.left x).semStored x.cx = s.semStored x.cx := by
    simp only [State.semStored, State.cxState, rd_congr hregs]
  refine ⟨_, hrush, ?_⟩
  rw [complete_eq hcounts hstash, headerPost_posts hi h ((hrush.semOwned hleft hc i).trans (hown.trans ho))
    ((hrush.semStored hleft hc).trans (hstored.trans hst)) (by rw [hsem, ← sem_register hst]; exact hfit), hsem]
  exact (reports_count ..).trans (reports_interrupts ..)

theorem noSpill_congr {s t : State} (hregs : t.regs = s.regs) (hdbg : t.dbg = s.dbg) (h : s.noSpill) : t.noSpill :=
  ⟨(rd_congr hregs ..).trans h.1, (congrArg Dbg.spillOk hdbg).trans h.2⟩

/-- A write to a context's register leaves spill off. -/
theorem noSpill_wr_cx {s : State} (hs : s.regsWf = true) {f : Fld} (hf : f.ok = true) (hb : f.blk = .CX) {v c i : Nat} (hc : c < 16)
    (hi : i < f.cnt) (h : s.noSpill) : (s.wr f v c i).noSpill :=
  ⟨(wr_rd_blk hs hf (by decide) (by rw [hb]; decide) v ⟨by rw [hb]; exact hc, hi⟩ ⟨by decide, by decide⟩).trans h.1, h.2⟩

/-- Settles O23: a finished command is written out and completed, and a completion is reports around one write of a semaphore. -/
theorem commandsCompleteOnce : Obligations.CommandsCompleteOnce := by
  refine ⟨fun s t id x hx hl hc hp hw => ?_, fun s t x i hs _ hc hcounts hstash hi ht hpost => ?_⟩
  · have hexec : exec (.commandCompletion id) s = .next (finishCmd s x).settle :=
      congrArg Host.Outcome.next (completionNow_finished hx hl hc hp)
    rw [hexec, finishCmd_ok hw]
    refine ⟨fun ho => ?_, fun ho hv => ?_⟩
    · rw [if_neg ho, if_pos ((wrote_writeAfter hw).cxLive x.cx ▸ hc)]
    · rw [if_pos ho, if_pos hv]
  · obtain ⟨hregs, hmem, hdbg, harrs, hmsgs, hcolls, hcast, hcmds⟩ := left_keeps s x
    have hleft : (s.left x).regsWf = true := by rw [State.regsWf, hregs]; exact hs
    have hspill : s.noSpill → (s.left x).noSpill := noSpill_congr hregs hdbg
    subst ht
    cases h8 : pktBit x.w 8 with
    | false =>
      have hr := reports_complete (s := s) hcounts hstash h8
      refine ⟨hr.cmds.trans hcmds, hr.arrs.trans harrs, hr.msgs.trans hmsgs, hr.colls.trans hcolls, hr.cast.trans hcast, nofun,
        fun a ha _ => (hr.word hleft a ha).trans (word_congr hregs a), fun hn => ?_⟩
      obtain ⟨hm, -⟩ := hr.memory hleft (hspill hn)
      exact hm.trans hmem
    | true =>
      obtain ⟨ho, hst, hfit⟩ := hpost h8
      have hi256 : i < 256 := hi ▸ bitsAt_lt _ _ 8
      obtain ⟨u, hu, hr⟩ := complete_posts hs hc hcounts hstash hi h8 ho hst hfit
      have huwf := hu.regsWf hleft
      have hwwf := wr_regsWf huwf R.CX_SEM_VALUE (s.rd R.CX_SEM_VALUE x.cx i + 1) x.cx i
      rw [sem_register hst] at hfit
      refine ⟨hr.cmds.trans (hu.cmds.trans hcmds), hr.arrs.trans (hu.arrs.trans harrs), hr.msgs.trans (hu.msgs.trans hmsgs),
        hr.colls.trans (hu.colls.trans hcolls), hr.cast.trans (hu.cast.trans hcast), fun _ => ?_, fun a ha hne => ?_, fun hn => ?_⟩
      · rw [hr.rd_cx hwwf hc (by decide) rfl hi256, wr_rd_same huwf (by decide)]
        exact Nat.mod_eq_of_lt hfit
      · exact (hr.word hwwf a ha).trans ((setWord_word_ne huwf _ (hne rfl)).trans ((hu.word hleft a ha).trans (word_congr hregs a)))
      · obtain ⟨hm, -, hun⟩ := hu.memory hleft (hspill hn)
        obtain ⟨hm', -⟩ := hr.memory hwwf (noSpill_wr_cx huwf (by decide) rfl hc hi256 hun)
        exact hm'.trans (hm.trans hmem)

end Sys2Proof.Machine
end

section
/-! PROOF. Tiles and rows (O24 to O27): loads of tiles into slots, rows that enter an array and reach its ring, and drains. -/

namespace Sys2Proof.Machine

-- A command in progress that is changed in place.

theorem find?_replaceFirst {α : Type} {p : α → Bool} {f : α → α} {l : List α} {x : α} (h : l.find? p = some x) (hf : p (f x) = true) :
    (replaceFirst p f l).find? p = some (f x) := by
  induction l with
  | nil => simp at h
  | cons y l ih =>
    cases hy : p y with
    | true =>
      obtain rfl : y = x := by simpa [hy] using h
      simp [replaceFirst, hy, hf]
    | false =>
      have h' : l.find? p = some x := by simpa [hy] using h
      simp [replaceFirst, hy, ih h']

theorem cmd?_id {s : State} {id : Nat} {x : Cmd} (h : s.cmd? id = some x) : x.id = id := by
  have := List.find?_some h
  simpa using this

/-- A change that keeps the number of a command in progress is what that command becomes. -/
theorem updCmd_cmd? {s : State} {id : Nat} {x : Cmd} {f : Cmd → Cmd} (h : s.cmd? id = some x) (hf : (f x).id = x.id) :
    (s.updCmd id f).cmd? id = some (f x) :=
  find?_replaceFirst h (by simpa [hf] using cmd?_id h)

-- What counting and the end of rows leave alone.

theorem markStep_keeps (s : State) (c : Nat) (st : Option Nat) :
    (s.markStep c st).arrs = s.arrs ∧ (s.markStep c st).mem = s.mem ∧ (s.markStep c st).cmds = s.cmds := by
  cases st with
  | none => exact ⟨rfl, rfl, rfl⟩
  | some n =>
    simp only [State.markStep]
    split
    · exact ⟨rfl, rfl, rfl⟩
    split
    · exact ⟨rfl, rfl, rfl⟩
    split <;> exact ⟨rfl, rfl, rfl⟩

theorem countFor_keeps (s : State) (id tid : Nat) (kind : Kind) (c : Counts) :
    (s.countFor id tid kind c).arrs = s.arrs ∧ (s.countFor id tid kind c).mem = s.mem := by
  unfold State.countFor
  cases s.cmd? id with
  | none => exact ⟨rfl, rfl⟩
  | some x =>
    dsimp only
    split
    · obtain ⟨harrs, hmem, -⟩ := markStep_keeps (s.updCmd id fun x => { x with counts := addCount x.counts tid c }) x.cx x.step
      exact ⟨harrs, hmem⟩
    · exact ⟨rfl, rfl⟩

/-- Counting for a command touches its counts alone among its fields. -/
theorem countFor_cmd? {s : State} {id : Nat} {x : Cmd} (h : s.cmd? id = some x) (tid : Nat) (kind : Kind) (c : Counts) :
    (s.countFor id tid kind c).cmd? id = some { x with counts := addCount x.counts tid c } := by
  have hu : (s.updCmd id fun x => { x with counts := addCount x.counts tid c }).cmd? id =
      some { x with counts := addCount x.counts tid c } := updCmd_cmd? h rfl
  simp only [State.countFor, h]
  split
  · rw [State.cmd?, (markStep_keeps _ _ _).2.2]
    exact hu
  · exact hu

theorem arr_congr {s t : State} (h : t.arrs = s.arrs) (j : Nat) : t.arr j = s.arr j := by rw [State.arr, State.arr, h]

theorem finishRows_keeps (s : State) (id : Nat) : (s.finishRows id).arrs = s.arrs ∧ (s.finishRows id).mem = s.mem := by
  unfold State.finishRows
  cases s.cmd? id with
  | none => exact ⟨rfl, rfl⟩
  | some x =>
    dsimp only
    split <;> exact ⟨rfl, rfl⟩

@[simp] theorem setSlot_slot (r : Arr) (k : Nat) (x : Slot) : (r.setSlot k x).slot k = x := by
  by_cases hk : k = 0 <;> simp [Arr.setSlot, Arr.slot, hk]

theorem setSlot_keeps (r : Arr) (k : Nat) (x : Slot) : (r.setSlot k x).ring = r.ring ∧ (r.setSlot k x).flight = r.flight := by
  unfold Arr.setSlot
  split <;> exact ⟨rfl, rfl⟩

/-- A slot that leaves its use changes no ring and no flight, no other array and no byte. -/
theorem leaveSlot_keeps (s : State) (a k : Nat) :
    ((s.leaveSlot a k).arr a).ring = (s.arr a).ring ∧ ((s.leaveSlot a k).arr a).flight = (s.arr a).flight ∧
      (∀ b, b % 8 ≠ a % 8 → (s.leaveSlot a k).arr b = s.arr b) ∧ (s.leaveSlot a k).mem = s.mem := by
  simp only [State.leaveSlot]
  split
  · exact ⟨rfl, rfl, fun _ _ => rfl, rfl⟩
  · refine ⟨?_, ?_, fun b hb => (State.updArr_arr ..).trans (if_neg hb), rfl⟩
    · rw [State.updArr_arr_same]
      split
      · exact (setSlot_keeps ..).1
      · rfl
    · rw [State.updArr_arr_same]
      split
      · exact (setSlot_keeps ..).2
      · rfl

-- A change of every array of a gang.

/-- `f` changes one array by `g` and leaves the other seven. -/
def ChangesArray (f : State → Nat → State) (g : Arr → Arr) : Prop :=
  ∀ s a j, (f s a).arr j = if j % 8 = a % 8 then g (s.arr a) else s.arr j

theorem ChangesArray.kept {f : State → Nat → State} {g : Arr → Arr} (hf : ChangesArray f g) {P : Arr → Prop} (hP : ∀ r, P (g r))
    (s : State) (l : List Nat) {j : Nat} (hj : P (s.arr j)) : P ((l.foldl f s).arr j) := by
  induction l generalizing s with
  | nil => exact hj
  | cons a l ih =>
    refine ih (f s a) ?_
    rw [hf]
    split
    · exact hP _
    · exact hj

/-- What the change of one array brings holds of every array of the gang at the end. -/
theorem ChangesArray.gang {f : State → Nat → State} {g : Arr → Arr} (hf : ChangesArray f g) {P : Arr → Prop} (hP : ∀ r, P (g r))
    (s : State) {l : List Nat} {j : Nat} (hj : j ∈ l) : P ((l.foldl f s).arr j) := by
  induction l generalizing s with
  | nil => simp at hj
  | cons a l ih =>
    rcases List.mem_cons.1 hj with rfl | hj
    · exact hf.kept hP (f s j) l (by rw [hf, if_pos rfl]; exact hP _)
    · exact ih (f s a) hj

/-- An array of no member of the gang stays as it is. -/
theorem ChangesArray.others {f : State → Nat → State} {g : Arr → Arr} (hf : ChangesArray f g) (s : State) {l : List Nat} {j : Nat}
    (hj : ∀ m ∈ l, m % 8 ≠ j % 8) : (l.foldl f s).arr j = s.arr j := by
  induction l generalizing s with
  | nil => rfl
  | cons a l ih =>
    rw [List.foldl_cons, ih (f s a) fun m hm => hj m (.tail _ hm), hf, if_neg fun h => hj a (.head _) h.symm]

/-- A tile enters one array's slot, and the commit is counted (R90). -/
def State.tileIn (k c : Nat) (t : Tile) (s : State) (a : Nat) : State :=
  (s.updArr a fun r => r.setSlot k { state := .ready, tile := t }).count 0x011 a c 1

theorem changesArray_tileIn (k c : Nat) (t : Tile) :
    ChangesArray (State.tileIn k c t) fun r => r.setSlot k { state := .ready, tile := t } := by
  intro s a j
  rw [State.tileIn, arr_congr (reports_count ..).arrs, State.updArr_arr]

theorem tilesIn_cmds (k c : Nat) (t : Tile) (s : State) (l : List Nat) : (l.foldl (State.tileIn k c t) s).cmds = s.cmds := by
  induction l generalizing s with
  | nil => rfl
  | cons a l ih => rw [List.foldl_cons, ih, State.tileIn, (reports_count ..).cmds]; rfl

theorem tilesIn_mem (k c : Nat) (t : Tile) {s : State} (hs : s.regsWf = true) (h : s.noSpill) (l : List Nat) :
    (l.foldl (State.tileIn k c t) s).mem = s.mem := by
  induction l generalizing s with
  | nil => rfl
  | cons a l ih =>
    have hc := reports_count (s.updArr a fun r => r.setSlot k { state := .ready, tile := t }) 0x011 a c 1
    obtain ⟨hmem, -, hno⟩ := hc.memory hs h
    rw [List.foldl_cons, State.tileIn, ih (hc.regsWf hs) hno, hmem]
    rfl

/-- A slot of one array begins to load (R87). -/
def State.loadIn (k : Nat) (t : Tile) (s : State) (a : Nat) : State :=
  s.updArr a fun r => { (r.setSlot k { state := .loading, tile := t }) with lastSlot := k }

theorem changesArray_loadIn (k : Nat) (t : Tile) :
    ChangesArray (State.loadIn k t) fun r => { (r.setSlot k { state := .loading, tile := t }) with lastSlot := k } :=
  fun s a j => State.updArr_arr (s := s) a j _

/-- A load that begins makes its slot LOADING in every array of its gang. -/
theorem beginLoad_loads (s : State) (x : Cmd) (k : Nat) {j : Nat} (hj : j ∈ x.arrays) :
    (((s.beginLoad x k).arr j).slot k).state = .loading ∧ ((s.beginLoad x k).arr j).lastSlot = k :=
  (changesArray_loadIn k (tileOf x x.desc)).gang (P := fun r => (r.slot k).state = .loading ∧ r.lastSlot = k)
    (fun r => ⟨congrArg Slot.state (setSlot_slot r k _), rfl⟩) _ hj

theorem placeWload_reuses {s : State} {id k : Nat} {x : Cmd} {m : List Nat} (hx : s.cmd? id = some x) (hrun : s.cmdRuns x = true)
    (hp : x.phase = .placing) (hm : s.placeOn x = some m) {a : State}
    (ha : a = s.updCmd id fun y => { y with phase := .queued, arrays := m }) :
    (a.reuseSlot x m = some k → placeWload s id = (a.satisfyReuse x m k).settle) ∧
      (a.reuseSlot x m = none → a.freeSlot m = some k → placeWload s id = (a.assignSlot x.cx id m k).settle) := by
  subst ha
  refine ⟨fun hk => ?_, fun hno hk => ?_⟩
  · simp only [placeWload, hx, hrun, hp, hm, hk, ne_eq, not_true, Bool.true_eq_false, or_self, if_false]
  · simp only [placeWload, hx, hrun, hp, hm, hno, hk, ne_eq, not_true, Bool.true_eq_false, or_self, if_false]

theorem beginWload_ready {s a : State} {id : Nat} {x : Cmd} (hx : s.cmd? id = some x) (hrun : s.cmdRuns x = true) (ho : opc x.w = 1)
    (hp : x.phase = .queued) (hl : s.loadHead x = true) (hst : s.stashReady x.cx x.stash = (a, true)) :
    (x.slot < 2 → beginWload s id = (a.beginLoad x x.slot).settle) ∧
      (∀ k, 2 ≤ x.slot → a.reuseSlot x x.arrays = some k → beginWload s id = (a.satisfyReuse x x.arrays k).settle) ∧
      (∀ k, 2 ≤ x.slot → a.reuseSlot x x.arrays = none → a.freeSlot x.arrays = some k → beginWload s id = (a.beginLoad x k).settle) := by
  refine ⟨fun h => ?_, fun k h hk => ?_, fun k h hno hk => ?_⟩
  · simp only [beginWload, hx, hrun, ho, hp, hl, hst, h, ne_eq, not_true, Bool.true_eq_false, or_self, if_false, if_true]
  · simp only [beginWload, hx, hrun, ho, hp, hl, hst, Nat.not_lt.2 h, hk, ne_eq, not_true, Bool.true_eq_false, or_self, if_false]
  · simp only [beginWload, hx, hrun, ho, hp, hl, hst, Nat.not_lt.2 h, hno, hk, ne_eq, not_true, Bool.true_eq_false, or_self, if_false]

theorem commitSlot_ok {s : State} {id : Nat} {x : Cmd} {t : Tile} (hx : s.cmd? id = some x) (hrun : s.cmdRuns x = true) (ho : opc x.w = 1)
    (hp : x.phase = .running) (ht : s.readTile (tileOf x x.desc) = .ok t) :
    commitSlot s id = (((x.arrays.foldl (State.tileIn x.slot x.cx t) s).updCmd id fun y => { y with phase := .finished }).countFor id
      x.desc.tid x.desc.kind { nonfin := t.nonfinCount }).settle := by
  simp only [commitSlot, hx, hrun, ho, hp, ht, ne_eq, not_true, Bool.true_eq_false, or_self, if_false]
  rfl

/-- Settles O24: each of the three rows reads its command, its phase and the order of loads, and the gang's arrays take the slot one
after another. -/
theorem weightLoadsFillSlots : Obligations.WeightLoadsFillSlots := by
  intro s a id k x m t hx hrun ho
  refine ⟨fun hp hm ha => ?_, fun hp hl hst => ⟨fun hslot hk => ?_, fun hk => ?_⟩, fun hp ht => ?_⟩
  · obtain ⟨hreuse, hfree⟩ := placeWload_reuses hx hrun hp hm ha (k := k)
    exact ⟨fun h => congrArg _ (hreuse h), fun h h' => congrArg _ (hfree h h')⟩
  · obtain ⟨-, hreuse, -⟩ := beginWload_ready hx hrun ho hp hl hst
    exact congrArg _ (hreuse k hslot hk)
  · obtain ⟨hfixed, -, hfree⟩ := beginWload_ready hx hrun ho hp hl hst
    refine ⟨a.beginLoad x k, congrArg Host.Outcome.next ?_, fun j hj => beginLoad_loads a x k hj⟩
    rcases hk with ⟨hslot, rfl⟩ | ⟨hslot, hno, hk⟩
    · exact hfixed hslot
    · exact hfree k hslot hno hk
  · refine ⟨_, congrArg Host.Outcome.next (commitSlot_ok hx hrun ho hp ht), ?_⟩
    obtain ⟨harrs, hmem⟩ := countFor_keeps ((x.arrays.foldl (State.tileIn x.slot x.cx t) s).updCmd id fun y => { y with phase := .finished })
      id x.desc.tid x.desc.kind { nonfin := t.nonfinCount }
    have hin := changesArray_tileIn x.slot x.cx t
    refine ⟨fun j hj => ?_, fun j hj => ?_, ?_, fun hno hs => hmem.trans (tilesIn_mem x.slot x.cx t hs hno x.arrays)⟩
    · rw [arr_congr harrs]
      exact hin.gang (P := fun r => (r.slot x.slot).state = .ready ∧ (r.slot x.slot).tile = t)
        (fun r => by rw [setSlot_slot]; exact ⟨rfl, rfl⟩) s hj
    · rw [arr_congr harrs]
      exact hin.others s hj
    · have hy : (x.arrays.foldl (State.tileIn x.slot x.cx t) s).cmd? id = some x := by rw [State.cmd?, tilesIn_cmds]; exact hx
      exact ⟨_, countFor_cmd? (updCmd_cmd? (f := fun y => { y with phase := .finished }) hy rfl) .., rfl⟩

/-- The state after a row's sums have reached their bin, before its counts (R99). -/
def State.rowArrived (s : State) (a : Nat) (f : Flight) (rest : List Flight) : State :=
  s.updArr a fun r =>
    { r with flight := rest, ring := replaceFirst (fun q => q.tagged f.cx f.tid f.row f.col0) (fun q => q.take f) r.ring }

/-- The kind of tensor that a flight's command makes its counts for. -/
def State.flightKind (s : State) (f : Flight) : Kind :=
  match s.cmd? f.cmd with
  | some x => if x.wgrad || x.igrad then .g else .a
  | none => .a

/-- The oldest flight's arrival, by whether its command is still in progress and may leave its slot. -/
theorem ringArrival_arrives {s u : State} {a : Nat} {f : Flight} {rest : List Flight} (hl : s.live = true)
    (hf : (s.arr a).flight = f :: rest)
    (hu : u = (s.rowArrived a f rest).countFor f.cmd f.tid ((s.rowArrived a f rest).flightKind f) { wlow := f.low, whigh := f.high }) :
    ringArrival s a = (u.finishRows f.cmd).settle ∨ ∃ k, ringArrival s a = ((u.leaveSlot a k).finishRows f.cmd).settle := by
  have hdef : ringArrival s a = ((match u.cmd? f.cmd with | some x => u.leaveSlot a x.slot | none => u).finishRows f.cmd).settle := by
    subst hu
    simp only [ringArrival, hl, hf, Bool.not_true, Bool.false_eq_true, if_false]
    rfl
  cases hx : u.cmd? f.cmd with
  | none => exact .inl (by rw [hdef, hx])
  | some x => exact .inr ⟨x.slot, by rw [hdef, hx]⟩

/-- Settles O26: counts, the slot's state and the end of the rows touch no ring, no flight and no byte. -/
theorem rowsArriveAtTheRing : Obligations.RowsArriveAtTheRing := by
  intro s a f rest hl hf
  obtain ⟨u, hu⟩ : ∃ u, u = (s.rowArrived a f rest).countFor f.cmd f.tid ((s.rowArrived a f rest).flightKind f)
    { wlow := f.low, whigh := f.high } := ⟨_, rfl⟩
  obtain ⟨harrs, hmem⟩ : u.arrs = (s.rowArrived a f rest).arrs ∧ u.mem = s.mem := hu ▸ countFor_keeps ..
  have hmine : (s.rowArrived a f rest).arr a =
      { s.arr a with
        flight := rest, ring := replaceFirst (fun q => q.tagged f.cx f.tid f.row f.col0) (fun q => q.take f) (s.arr a).ring } :=
    State.updArr_arr_same (s := s) a _
  have hothers : ∀ b < 8, b ≠ a.val → (s.rowArrived a f rest).arr b = s.arr b := fun b hb hne =>
    (State.updArr_arr ..).trans (if_neg (by have := a.isLt; omega))
  rcases ringArrival_arrives hl hf hu with h | ⟨k, h⟩
  · obtain ⟨hfarrs, hfmem⟩ := finishRows_keeps u f.cmd
    have hall : ∀ b, (u.finishRows f.cmd).arr b = (s.rowArrived a f rest).arr b := arr_congr (hfarrs.trans harrs)
    refine ⟨u.finishRows f.cmd, congrArg _ h, ?_, ?_, fun b hb hne => (hall b).trans (hothers b hb hne), hfmem.trans hmem⟩
    all_goals rw [hall, hmine]
    rfl
  · obtain ⟨hring, hflight, hrest, hlmem⟩ := leaveSlot_keeps u a k
    obtain ⟨hfarrs, hfmem⟩ := finishRows_keeps (u.leaveSlot a k) f.cmd
    refine ⟨(u.leaveSlot a k).finishRows f.cmd, congrArg _ h, ?_, ?_, fun b hb hne => ?_, hfmem.trans (hlmem.trans hmem)⟩
    · rw [arr_congr hfarrs, hflight, arr_congr harrs, hmine]
    · rw [arr_congr hfarrs, hring, arr_congr harrs, hmine]
      rfl
    · rw [arr_congr hfarrs, hrest b (by have := a.isLt; omega), arr_congr harrs, hothers b hb hne]

/-- Settles O25: a gated array begins its ramp; in a full one the row's sums, its slot and its bin are set at once, and its counts
touch no array. -/
theorem rowsEnterArrays : Obligations.RowsEnterArrays := by
  intro s a x e hx hmay hready
  refine ⟨fun hg => ?_, fun hfull he => ?_⟩
  · refine congrArg Host.Outcome.next ?_
    simp only [rowEntry, hx, hmay, hready, hg, Bool.true_eq_false, or_self, if_false]
  by_cases hgroups : e.groups = []
  · refine ⟨(s.updCmd x.id fun y => y.tookRow a).finishRows x.id, congrArg Host.Outcome.next ?_, fun _ => rfl, fun h => absurd hgroups h⟩
    simp only [rowEntry, hx, hmay, hready, hfull, he, hgroups, Bool.true_eq_false, or_self, if_false, List.isEmpty_nil, if_true]
  have hsome : e.groups.isEmpty = false := by simpa using hgroups
  have hrun : exec (.rowEntry a) s = .next (rowEntry s a) := rfl
  rw [hrun]
  simp only [rowEntry, hx, hmay, hready, hfull, he, hsome, Bool.true_eq_false, Bool.false_eq_true, or_self, if_false]
  refine ⟨_, rfl, fun h => absurd h hgroups, fun _ => ?_⟩
  simp only [arr_congr (countFor_keeps ..).1, arr_congr (reports_count ..).arrs, State.updArr_arr_same]
  refine ⟨congrArg Slot.state (setSlot_slot ((s.updCmd x.id fun y => y.tookRow a).arr a) x.slot _), rfl, ?_, _, rfl, rfl, rfl, rfl, rfl⟩
  cases e.bin <;> rfl

-- Drains (R101, R104, R107, R108).

/-- A DRAIN_ROW of a started DRAIN is a step of its mode. -/
theorem drainRow_runs {s b : State} {a : Nat} {x y : Cmd} (hx : s.drainHead a = some x) (hrun : s.cmdRuns x = true)
    (hst : s.stashReady x.cx x.stash = (b, true)) (hy : startDrain b x = .ok y) :
    drainRow s a = (if drainMode y.w = 3 then imageStep (b.updCmd y.id fun _ => y) y a
      else ringStep (b.updCmd y.id fun _ => y) y a).settle := by
  simp only [drainRow, hx, hrun, hst, hy, Bool.true_eq_false, if_false]

/-- The rows of the group in one ring, ready to be drained: what their mode does with them. -/
theorem ringStep_rows {d : State} {y : Cmd} {a : Nat} {rows : List RingRow} (hone : (d.holders y y.drainGroup).length ≤ 1)
    (hrows : y.drainGroup.filterMap (fun q => d.binOf y a q) = rows) (hlen : rows.length = y.drainGroup.length)
    (hready : rows.all (d.drainable a (drainMode y.w)) = true) :
    (drainMode y.w = 0 → (y.desc.kind = .g ∨ rows.all (fun q => !q.igrad) = true) → ringStep d y a = convertStep d y a rows) ∧
      (drainMode y.w ≠ 0 → ∀ r, rows = [r] → ringStep d y a = spillRow d y a r) := by
  have hno : (rows.any fun r => !d.drainable a (drainMode y.w) r) = false := by
    rw [List.any_eq_false]
    intro r hr
    simpa using List.all_eq_true.1 hready r hr
  have hnot : ¬ 1 < (d.holders y y.drainGroup).length := by omega
  refine ⟨fun hm hkind => ?_, fun hm r hr => ?_⟩
  · have hno' : (y.desc.kind != .g && rows.any fun r => r.igrad) = false := by
      rcases hkind with h | h
      · rw [h]; rfl
      · rw [Bool.and_eq_false_iff, List.any_eq_false]
        exact .inr fun r hr => by simpa using List.all_eq_true.1 h r hr
    rw [hm] at hno
    simp only [ringStep, hrows, hnot, hlen, hno, hm, hno', if_false, if_true, Nat.lt_irrefl, decide_false, Bool.or_self, Bool.false_eq_true]
  · subst hr
    simp only [ringStep, hrows, hnot, hlen, hno, hm, if_false, Nat.lt_irrefl, decide_false, Bool.or_self, Bool.false_eq_true]

theorem ringStep_one {d : State} {y : Cmd} {a : Nat} {r : RingRow} (hone : (d.holders y y.drainGroup).length ≤ 1)
    (hrows : y.drainGroup.filterMap (fun q => d.binOf y a q) = [r]) (hlen : y.drainGroup.length = 1)
    (hready : d.drainable a (drainMode y.w) r = true) (hmode : drainMode y.w ≠ 0) : ringStep d y a = spillRow d y a r :=
  (ringStep_rows hone hrows hlen.symm (by simpa using hready)).2 hmode r rfl

theorem convertStep_ok {d t : State} {y y' : Cmd} {a : Nat} {rows : List RingRow} {n : Counts}
    (hc : drainConvert d y rows = ((t, .ok ()), n, y')) :
    convertStep d y a rows = (((if drainMode y'.w = 0 then t.freeRows y' a rows else t).drainedGroup y' rows.length).countFor y'.id
      y'.desc.tid y'.desc.kind n).count 0x020 a y'.cx n.total := by
  rw [convertStep, hc]

/-- A conversion keeps the command's words. -/
theorem drainConvert_w {d t : State} {y y' : Cmd} {rows : List RingRow} {r : Res Unit} {n : Counts}
    (hc : drainConvert d y rows = ((t, r), n, y')) : y'.w = y.w := by
  simp only [drainConvert] at hc
  split at hc
  · obtain ⟨-, hy⟩ := Prod.mk.inj (Prod.mk.inj hc).2
    rw [hy]
  split at hc
  all_goals
    obtain ⟨-, rfl⟩ := Prod.mk.inj (Prod.mk.inj hc).2
    rfl

/-- Settles O27: one lemma per mode, of the rows of the group. -/
theorem drainsEmptyTheRing : Obligations.DrainsEmptyTheRing := by
  intro s b t a x y r im sum rows bs n y' hx hrun hst hy d hd
  have hexec : exec (.drainRow a) s = .next (if drainMode y.w = 3 then imageStep d y a else ringStep d y a).settle :=
    hd ▸ congrArg _ (drainRow_runs hx hrun hst hy)
  rw [hexec]
  refine ⟨fun hm hone hrows hlen hready hw => ?_, fun hm hone hrows hlen hready hr him ha he hk hc hsum hw => ?_,
    fun hm hone hrows hlen hready hkind hc => ?_, fun hm hrows hc => ?_⟩
  · rw [hm, if_neg (by decide), ringStep_one hone hrows hlen (hm ▸ hready) (by omega)]
    simp only [spillRow, hm, if_true, Res.bind, hw]
  · rw [hm, if_neg (by decide), ringStep_one hone hrows hlen (hm ▸ hready) (by omega)]
    subst him hsum
    simp only [ha, he, hk] at hw
    simp only [spillRow, hm, hr, Res.bind, ha, he, hk, Nat.not_lt.2 hc, bne_self_eq_false, decide_false, Bool.or_self,
      Bool.false_eq_true, if_false, show ¬ (2 = 1) by decide]
    rw [hw]
  · rw [hm, if_neg (by decide), (ringStep_rows hone hrows hlen (hm ▸ hready)).1 hm hkind, convertStep_ok hc, drainConvert_w hc, hm,
      if_pos rfl]
  · have hstep : imageStep d y a = convertStep d y a rows := by
      simp only [imageStep]
      rw [hrows]
    rw [hm, if_pos rfl, hstep, convertStep_ok hc, drainConvert_w hc, hm, if_neg (by decide)]

end Sys2Proof.Machine
end

section
/-! PROOF. Training (O28 to O30): the close of a step, the passes of an UPDATE, and commits. -/

namespace Sys2Proof.Machine

theorem beq_of_eq {α : Type} [BEq α] [LawfulBEq α] {a b : α} (h : a = b) : (a == b) = true := beq_iff_eq.2 h

/-- No command of a step is in progress but its STEP_VERDICT and commands that begin none. -/
theorem stepBusy_false {s : State} {c st : Nat}
    (h : ∀ y ∈ s.cmds, y.cx = c → y.step = some st → (opc y.w = 0x52 ∧ stepField y.w = st) ∨ opc y.w = 0x51) : s.stepBusy c st = false := by
  rw [State.stepBusy, List.any_eq_false]
  intro y hy hbusy
  simp only [Bool.and_eq_true, beq_iff_eq, Bool.not_eq_true', bne_iff_ne] at hbusy
  obtain ⟨⟨⟨hc, hst⟩, hnot⟩, hne⟩ := hbusy
  rcases h y hy hc hst with ⟨ho, hf⟩ | ho
  · rw [ho, hf] at hnot
    simp at hnot
  · exact hne ho

theorem enterVote_some {s : State} {id : Nat} {k : Coll} (h : s.colls.find? (fun k => k.cmd == some id) = some k) (v : List Byte) :
    s.enterVote id v = s.enterColl { k with vote := v } := by
  rw [State.enterVote, h]

/-- Settles O28: the step's other commands have completed, so the close goes on to the vote. -/
theorem stepCloseVotes : Obligations.StepCloseVotes := by
  intro s c x k n m hl hc hx hn hquiet hk hm
  refine congrArg Host.Outcome.next ?_
  have hbusy : s.stepBusy c n = false := stepBusy_false hquiet
  have hmark : (s.updCx c fun y => { y with closed := y.closed ++ [n] }).markOf c n = m := by
    rw [hm, State.markOf, State.updCx_cx_same]
    rfl
  have hn : stepField x.w = n := hn.symm
  simp only [stepCloseNow, hx, hl, hc, hn, hbusy, hmark, Bool.not_true, Bool.or_self, Bool.false_eq_true, if_false]
  rw [enterVote_some (s := s.updCx c fun y => { y with closed := y.closed ++ [n] }) hk]
  rfl

-- UPDATE (R181 to R187, R192, R200).

theorem updateBegin_begins {s : State} {id : Nat} {x : Cmd} (hx : s.cmd? id = some x) (ho : opc x.w = 0x55) (hp : x.phase = .queued)
    (hmet : s.udMet x = true) (hbusy : s.udBusy.length < 2) (hpass : ∀ y ∈ s.udBusy, y.phase ≠ .pass1)
    (hfirst : ∀ y ∈ s.udQueue, y.id < x.id → s.udMet y = false) : updateBeginNow s id = (udBegin s x).settle := by
  have hno : (s.udBusy.any fun y => y.phase == .pass1) = false := by
    rw [List.any_eq_false]
    exact fun y hy h => hpass y hy (beq_iff_eq.1 h)
  have hnone : (s.udQueue.any fun y => decide (y.id < x.id) && s.udMet y) = false := by
    rw [List.any_eq_false]
    intro y hy h
    simp only [Bool.and_eq_true, decide_eq_true_eq] at h
    exact absurd h.2 (by rw [hfirst y hy h.1]; decide)
  simp only [updateBeginNow, hx, ho, hp, hmet, hbusy, hno, hnone, BEq.rfl, decide_true, Bool.not_false, Bool.and_self, if_true]

theorem udBegin_ok {s : State} {x : Cmd} {r : LayerRec} {g : Group} (hparts : s.udParts x = .ok (r, g))
    (hskip : ((s.cx x.cx).verdictOf (udStep x.w)).any (fun q => q.skip) = false) :
    udBegin s x = s.updCmd x.id fun _ =>
      { x with phase := .pass1,
               upd := { t := r.t, s := ((s.cx x.cx).sFor (udStep x.w)).getD 0, anchor := g.anchor,
                        turn := (s.udBusy.map fun y => y.upd.turn).foldl max 0 + 1 } } := by
  simp only [udBegin, hparts]
  exact if_neg (by rw [Bool.not_eq_true]; exact hskip)

theorem udGoes_true {s : State} {x : Cmd} {p : CmdPhase} (hl : s.live = true) (hc : s.cxLive x.cx = true) (ho : opc x.w = 0x55)
    (hp : x.phase = p) : s.udGoes x p = true := by
  simp only [State.udGoes, hl, hc, ho, hp, BEq.rfl, Bool.and_self]

/-- What pass 1 leaves: its window counts, its bad blocks, the counts of the two moments, and its totals or its vote. -/
theorem udPass1_ok {s b : State} {x : Cmd} {r : LayerRec} {g : Group} {u : UdRun} (ht : s.udTaken x = .ok (r, g))
    (hu : pass1 (udConst x.seed r.master.tid x.upd.t x.upd.s g (udLambda x.w) fzero) x.cx (udStep x.w) r s = .ok u)
    (hb : b = (((u.s.updCmd x.id fun y => { y with upd := { y.upd with low := u.nw.low + u.ng.low + u.nu.low, high := u.nw.high + u.ng.high + u.nu.high, bad := u.bad } }).countFor
        x.id r.m1.tid .m u.k1).countFor x.id r.m2.tid .m u.k2).updCmd x.id (fun y => { y with phase := .exchange })) :
    udPass1 s x = if udAccord x.w = 0xFFFF then
        b.updCmd x.id fun y => { y with upd := { y.upd with w2 := u.nw.sum, g2 := u.ng.sum, u2 := u.nu.sum, exchanged := true } }
      else b.enterVote x.id (normVote u.nw.sum u.ng.sum u.nu.sum g.anchor) := by
  simp only [udPass1, ht, hu, udExchange, hb]

theorem udSkipped_ok {s v : State} {x : Cmd} (hv : s.writeNorms x x.upd fzero = .ok v) : udSkipped s x = udDone v x := by
  simp only [udSkipped, hv]

theorem udPass2_ok {s b v : State} {x : Cmd} {r : LayerRec} {g : Group} {u : UdRun} (ht : s.udTaken x = .ok (r, g))
    (hu : pass2 (udConst x.seed r.master.tid x.upd.t x.upd.s g (udLambda x.w) (fmul (udEta x.w) (trustRatio g x.upd.w2 x.upd.u2)))
      x.cx (udStep x.w) (udPrint x.w) r s = .ok u)
    (hb : u.s.vwriteNat x.cx (udLayer x.w + 168) 4 (nextT x.upd.t) (.update (udStep x.w) []) = .ok b)
    (hv : b.writeNorms x { x.upd with bad := x.upd.bad ++ u.bad } (trustRatio g x.upd.w2 x.upd.u2) = .ok v) :
    udPass2 s x = udDone ((v.countFor x.id r.master.tid .w u.kw).countFor x.id r.print.tid .p u.kp) x := by
  simp only [udPass2, ht, hu, hb, hv, Res.bind]

theorem pass2End_runs {s : State} {id : Nat} {x : Cmd} (hx : s.cmd? id = some x) (hl : s.live = true) (hc : s.cxLive x.cx = true)
    (ho : opc x.w = 0x55) (hp : x.phase = .exchange) (hex : x.upd.exchanged = true) (hturn : ∀ y ∈ s.udBusy, x.upd.turn ≤ y.upd.turn) :
    pass2EndNow s id = (if x.upd.skipped then udSkipped s x else udPass2 s x).settle := by
  have hall : (s.udBusy.all fun y => decide (x.upd.turn ≤ y.upd.turn)) = true := List.all_eq_true.2 fun y hy => decide_eq_true (hturn y hy)
  simp only [pass2EndNow, hx, udGoes_true hl hc ho hp, hex, hall, Bool.and_self, if_true]

theorem nextT_eq_min (t : Nat) : nextT t = min (t + 1) 0xFFFFFFFF := by
  unfold nextT stick
  split <;> omega

/-- Settles O29: each end of a pass meets its guard, and is then one equation. -/
theorem updatesRunInTwoPasses : Obligations.UpdatesRunInTwoPasses := by
  intro s b v id x r g u k done hx ho hl hc hdone
  subst hdone
  refine ⟨fun hp hmet hbusy hpass hfirst hparts hskip => congrArg Host.Outcome.next ?_, fun hp ht hu hb => ?_, fun hp hex hturn => ⟨fun hsk hv => congrArg Host.Outcome.next ?_,
    fun hsk ht hu hw hv => congrArg Host.Outcome.next ?_⟩⟩
  · rw [updateBegin_begins hx ho hp hmet hbusy hpass hfirst, udBegin_ok hparts hskip]
  · have hrun : pass1EndNow s id = (udPass1 s x).settle := by simp only [pass1EndNow, hx, udGoes_true hl hc ho hp, if_true]
    have hpass := udPass1_ok ht hu hb
    refine ⟨fun ha => congrArg Host.Outcome.next ?_, fun ha hk => congrArg Host.Outcome.next ?_⟩
    · rw [hrun, hpass, if_pos ha]
    · rw [hrun, hpass, if_neg ha, enterVote_some hk]
      rfl
  · rw [pass2End_runs hx hl hc ho hp hex hturn, hsk, if_pos rfl, udSkipped_ok hv]
    rfl
  · rw [pass2End_runs hx hl hc ho hp hex hturn, hsk, if_neg (by decide),
      udPass2_ok ht hu (nextT_eq_min x.upd.t ▸ hw) hv]
    rfl

-- COMMIT (R197 to R200, R321).

theorem any_appending_false {s : State} {c : Nat} {hs : List Shadow} (h : ∀ q ∈ hs, s.appending c (2 ^ 21 * q.vpage) = false) :
    (hs.any fun q => s.appending c (pageBytes * q.vpage)) = false := by
  rw [List.any_eq_false]
  intro q hq hb
  exact absurd hb (by rw [show pageBytes = 2 ^ 21 from rfl, h q hq]; decide)

theorem commitWaits_runs {s : State} {id : Nat} {x : Cmd} (hx : s.cmd? id = some x) (ho : opc x.w = 0x53) (hp : x.phase = .queued)
    (hrun : s.cmdRuns x = true) : commitWaitsNow s id = (tryAnyCommit s x).settle := by
  simp only [commitWaitsNow, hx, ho, hp, hrun, BEq.rfl, Bool.and_self, if_true]

theorem tryCommit_ok {s t : State} {x : Cmd} {r : LayerRec} (hready : s.cmReady x = true) (hr : s.cmRecord x = .ok r)
    (hold : s.sem x.cx (s.holdOf x.cx (cmPrint x.w) r.depth) = 0)
    (happ : ((s.cmShadows x r).any fun h => s.appending x.cx (pageBytes * h.vpage)) = false)
    (hact : s.cmActs x r (s.cmShadows x r) = .ok t) : tryCommit s x = (cmDone t x).pollOwner x.cx := by
  simp only [tryCommit, hready, hr, hold, happ, hact, Bool.not_true, Bool.false_eq_true, if_false, ne_eq, not_true, or_self]

/-- Settles O30: the waits are over, and the commit's acts follow one another. -/
theorem commitsPublish : Obligations.CommitsPublish := by
  intro s t id x r hs done hx ho hp hrun hdone
  have hcm : ∀ t, cmDone t x = done t := fun t => by rw [cmDone, ho, hdone]
  refine ⟨fun hlayer hready hr hhs hold happ a d e ha hd he hw => congrArg Host.Outcome.next ?_,
    fun hlayer hhs happ fs hc => congrArg Host.Outcome.next ?_⟩
  · have hacts : s.cmActs x r (s.cmShadows x r) = .ok t := by
      subst hhs hd he
      simp only [State.cmActs, ha, Res.bind]
      exact hw
    rw [commitWaits_runs hx ho hp hrun, tryAnyCommit, if_neg hlayer,
      tryCommit_ok hready hr hold (hhs ▸ any_appending_false happ) hacts, hcm]
  · subst hhs
    rw [commitWaits_runs hx ho hp hrun, tryAnyCommit, if_pos hlayer, tryDataCommit_ok (any_appending_false happ) hc, hcm]

end Sys2Proof.Machine
end

section
/-! PROOF. Registers (O33, O34): the host's 8-byte writes and its reads. -/

namespace Sys2Proof.Machine

/-- A write of 8 bytes puts each field's bits into it. -/
def hwFields (fs : List Fld) (v : Nat) : List (Fld × Nat) := fs.map fun f => (f, bitsAt v f.lo f.wid)

theorem puts_eq_wrAll (s : State) {fs : List Fld} (hfs : fs.all Fld.ok = true) (v n : Nat) :
    s.puts (hw8 v) fs n = s.wrAll (hwFields fs v) n := by
  induction fs generalizing s with
  | nil => rfl
  | cons f fs ih =>
    simp only [List.all_cons, Bool.and_eq_true] at hfs
    obtain ⟨hf, hfs⟩ := hfs
    have hfit : f.lo + f.wid ≤ 64 := by
      simp only [Fld.ok, Bool.and_eq_true, decide_eq_true_eq] at hf
      exact hf.1
    have hput : s.put (hw8 v) f n = s.wr f (bitsAt v f.lo f.wid) n := by rw [State.put, hw8_get hfit]
    show (s.put (hw8 v) f n).puts (hw8 v) fs n = _
    rw [ih _ hfs, hput]
    rfl

theorem wrAll_eq_regs (s : State) (l : List (Fld × Nat)) (n : Nat) : s.wrAll l n = { s with regs := (s.wrAll l n).regs } := by
  induction l generalizing s with
  | nil => rfl
  | cons p l ih => rw [wrAll_cons, ih]; rfl

-- The near cache and the collective engine.

/-- The fields that a host write of 8 bytes replaces in the near cache and the collective engine. -/
def plainFields : Blk → List Fld
  | .NCACHE => [R.NCACHE_CFG_HEART_WAYS]
  | _ => [R.CE_CFG_E2E_US, R.CE_CFG_COLL_MS, R.CE_CFG_READY_S]

/-- A write to offset 0 of either block replaces its RW fields. -/
theorem plainWrite_eq {b : Blk} (hb : b = .NCACHE ∨ b = .CE) (s : State) (v : Nat) :
    blockWrite s b 0 0 (hw8 v) = s.wrAll (hwFields (plainFields b) v) 0 := by
  rcases hb with rfl | rfl
  · simp [blockWrite, writeFields, fieldsOf, ncacheFields, Fld.at?, R.NCACHE_CFG_HEART_WAYS, writeField, hw8_get, plainFields, hwFields,
      Fld.entry]
    rfl
  · simp [blockWrite, writeFields, fieldsOf, ceFields, Fld.at?, R.CE_CFG_E2E_US, R.CE_CFG_COLL_MS, R.CE_CFG_READY_S, R.CE_STAT_STALE,
      R.CE_STAT_ABORTS, writeField, hw8_get, plainFields, hwFields, Fld.entry]
    rfl

/-- The RW fields of the two blocks stand at offset 0 of their block. -/
theorem plainFields_spec {f : Fld} (hb : f.blk = .NCACHE ∨ f.blk = .CE) (hf : f ∈ fieldsOf f.blk) (ha : f.acc = .RW) :
    f ∈ plainFields f.blk ∧ f.off = 0 ∧ f.sub = 0 ∧ f.cnt = 1 ∧ f.lo + f.wid ≤ 64 := by
  have key : ∀ b, b = .NCACHE ∨ b = .CE → ∀ f ∈ fieldsOf b, f.acc = .RW →
      f ∈ plainFields b ∧ f.off = 0 ∧ f.sub = 0 ∧ f.cnt = 1 ∧ f.lo + f.wid ≤ 64 := by
    rintro b (rfl | rfl) <;> decide
  exact key _ hb f hf ha

theorem plainFields_addr {b : Blk} (hb : b = .NCACHE ∨ b = .CE) : ∀ f ∈ plainFields b, f.addr 0 0 = blkBase b := by
  rcases hb with rfl | rfl <;> decide

theorem plainFields_pairwise {b : Blk} (hb : b = .NCACHE ∨ b = .CE) (v : Nat) :
    (hwFields (plainFields b) v).Pairwise fun p q => q.1.away p.1 = true := by
  have key : (plainFields b).Pairwise fun f g => g.away f = true := by rcases hb with rfl | rfl <;> decide
  exact List.pairwise_map.2 key

theorem plainFields_ok {b : Blk} (hb : b = .NCACHE ∨ b = .CE) : (plainFields b).all Fld.ok = true := by
  rcases hb with rfl | rfl <;> decide

theorem hostWrite_plain {s : State} {b : Blk} (hb : b = .NCACHE ∨ b = .CE) (h : s.takesWrites b 0 = true) (v : Word) :
    hostWrite s (blkBase b) 8 v.toNat = s.wrAll (hwFields (plainFields b) v.toNat) 0 := by
  have hat : blockAt (blkBase b / 8 * 8) = some (b, 0) ∧ blkBase b % 8 = 0 ∧ blkBase b / 8 * 8 - blkBase b - blkStride b * 0 = 0 := by
    rcases hb with rfl | rfl <;> decide
  obtain ⟨hat, h8, hoff⟩ := hat
  have hw : hwOf (blkBase b) 8 v.toNat = some (hw8 v.toNat) := by
    rw [hwOf, if_pos ⟨rfl, h8⟩, Nat.mod_eq_of_lt v.isLt, hw8]
  rw [hostWrite, hw, hat]
  simp only [hoff, hostGate_taken h, plainWrite_eq hb]

theorem hwOf_illFormed {off size : Nat} (h : (size = 8 ∧ off % 8 ≠ 0) ∨ (size = 4 ∧ off % 4 ≠ 0) ∨ (size ≠ 4 ∧ size ≠ 8)) (v : Nat) :
    hwOf off size v = none := by
  rw [hwOf, if_neg (by omega), if_neg (by omega)]

/-- Settles O33: a write to the register at offset 0 is a write of each RW field there, and an ill-formed access is none. -/
theorem registerWritesReplaceFields : Obligations.RegisterWritesReplaceFields := by
  intro s f i off size v hs
  refine ⟨fun hb hf ha hi htakes => ?_, fun hill => ⟨congrArg Host.Outcome.next ?_, fun hans hoff => congrArg Host.Outcome.next ?_⟩⟩
  · obtain ⟨hmem, hoff, hsub, hcnt, hfit⟩ := plainFields_spec hb hf ha
    obtain rfl : i = 0 := by omega
    rw [hoff, hsub] at htakes
    have haddr : f.addr 0 0 = blkBase f.blk := plainFields_addr hb f hmem
    have hin : (f, bitsAt v.toNat f.lo f.wid) ∈ hwFields (plainFields f.blk) v.toNat := List.mem_map_of_mem hmem
    have hok : ∀ p ∈ hwFields (plainFields f.blk) v.toNat, p.1.ok = true := by
      intro p hp
      obtain ⟨g, hg, rfl⟩ := List.mem_map.1 hp
      exact List.all_eq_true.1 (plainFields_ok hb) g hg
    refine ⟨_, congrArg Host.Outcome.next (haddr ▸ hostWrite_plain hb htakes v), ?_, fun a ha => ?_, wrAll_eq_regs ..⟩
    · rw [wrAll_rd_mem hs hok (plainFields_pairwise hb _) hin, Nat.mod_eq_of_lt (bitsAt_lt ..)]
    · refine wrAll_word_ne hs fun p hp => ?_
      obtain ⟨g, hg, rfl⟩ := List.mem_map.1 hp
      rw [plainFields_addr hb g hg, ← haddr]
      exact ha
  · rw [hostWrite, hwOf_illFormed hill]
  · rw [hostRead, hans, hwOf_illFormed hill, decide_eq_false (by omega)]
    rfl

-- Reads (R6, R405).

/-- Clearing fields of a register, one after another. -/
def State.clearFields (s : State) (a : Nat) (fs : List Fld) : State := fs.foldl (fun s f => s.setWord a (putField (s.word a) f.lo f.wid 0)) s

theorem clearFields_keeps (s : State) (a : Nat) (fs : List Fld) : (s.clearFields a fs).outs = s.outs ∧ (s.clearFields a fs).mem = s.mem := by
  induction fs generalizing s with
  | nil => exact ⟨rfl, rfl⟩
  | cons f fs ih => exact ih (s.setWord a (putField (s.word a) f.lo f.wid 0))

theorem clearFields_word_ne {s : State} (hs : s.regsWf = true) {a b : Nat} (hb : b ≠ a) (fs : List Fld) :
    (s.clearFields a fs).word b = s.word b := by
  induction fs generalizing s with
  | nil => rfl
  | cons f fs ih => exact (ih (setWord_regsWf hs ..)).trans (setWord_word_ne hs _ hb)

/-- A bit that is 0 stays 0 while fields are cleared. -/
theorem clearFields_testBit {s : State} (hs : s.regsWf = true) {a j : Nat} {fs : List Fld} (hfs : ∀ f ∈ fs, f.lo + f.wid ≤ 64)
    (hj : (s.word a).toNat.testBit j = false ∨ ∃ f ∈ fs, f.lo ≤ j ∧ j < f.lo + f.wid) :
    ((s.clearFields a fs).word a).toNat.testBit j = false := by
  induction fs generalizing s with
  | nil => exact hj.resolve_right (by simp)
  | cons f fs ih =>
    refine ih (setWord_regsWf hs ..) (fun g hg => hfs g (.tail _ hg)) ?_
    rw [setWord_word_same hs, putField_testBit _ _ _ (hfs f (.head _))]
    by_cases hin : f.lo ≤ j ∧ j < f.lo + f.wid
    · rw [if_neg (by omega), if_pos hin.2]
      exact .inl (Nat.zero_testBit _)
    · rcases hj with hj | ⟨g, hg, hgj⟩
      · refine .inl ?_
        split
        · exact hj
        · rw [if_neg (by omega)]
          exact hj
      · rcases List.mem_cons.1 hg with rfl | hg
        · exact absurd hgj hin
        · exact .inr ⟨g, hg, hgj⟩

theorem clearFields_zero {s : State} (hs : s.regsWf = true) {a : Nat} {fs : List Fld} (hfs : ∀ f ∈ fs, f.lo + f.wid ≤ 64) {f : Fld}
    (hf : f ∈ fs) : bitsAt ((s.clearFields a fs).word a).toNat f.lo f.wid = 0 := by
  apply Nat.eq_of_testBit_eq
  intro j
  rw [bitsAt_testBit, Nat.zero_testBit]
  by_cases hj : j < f.wid
  · rw [clearFields_testBit hs hfs (.inr ⟨f, hf, by omega, by omega⟩), Bool.and_false]
  · rw [decide_eq_false hj, Bool.false_and]

theorem fieldsAt_fit {a : Nat} {f : Fld} (hf : f ∈ fieldsAt a) : f.lo + f.wid ≤ 64 := by
  unfold fieldsAt at hf
  split at hf
  · simp at hf
  · next b n _ =>
    have hok := List.all_eq_true.1 (fields_ok b) f ((List.mem_filter.1 hf).1)
    simp only [Fld.ok, Bool.and_eq_true, decide_eq_true_eq] at hok
    exact hok.1

/-- The RC fields of a register. -/
def rcFields (a : Nat) : List Fld := (fieldsAt a).filter fun f => f.acc == .RC && decide (0 ≤ f.lo) && decide (f.lo + f.wid ≤ 0 + 64)

theorem clearRead_word (s : State) (a : Nat) : s.clearRead a 0 64 = if s.actsAt a then s.clearFields a (rcFields a) else s := by
  rw [State.clearRead]
  cases s.actsAt a <;> rfl

/-- Outside the window of the cut's image a read changes nothing but the count of free values. -/
theorem readWord_keeps (s : State) {a : Nat} (h : a < blkBase .DBG + imageWindow ∨ blkBase .DBG + imageWindow + 0x100000 ≤ a) :
    (s.readWord a).2.regs = s.regs ∧ (s.readWord a).2.outs = s.outs ∧ (s.readWord a).2.mem = s.mem := by
  rw [State.readWord, if_neg (by omega)]
  split <;> exact ⟨rfl, rfl, rfl⟩

theorem hostRead_word {s : State} {off : Nat} (hans : s.answers = true) (hoff : off < 0x4000000) (h8 : off % 8 = 0)
    (hserved : s.servedAt off = true) :
    hostRead s off 8 = ((s.readWord off).2.emit (.readData off (BitVec.ofNat 64 (s.readWord off).1))).clearRead off 0 64 := by
  have hw : hwOf off 8 0 = some ⟨0, 64, 0 % 2 ^ 64⟩ := by rw [hwOf, if_pos ⟨rfl, h8⟩]
  have hbits : ∀ v, BitVec.ofNat 64 (bitsAt v 0 64) = BitVec.ofNat 64 v := fun v =>
    BitVec.eq_of_toNat_eq (by simp [bitsAt])
  rw [hostRead, hans, decide_eq_false (by omega), hw]
  simp only [Nat.div_mul_cancel (Nat.dvd_of_mod_eq_zero h8), hserved, hbits, Bool.not_true, Bool.or_self, Bool.false_eq_true, if_false]

/-- Settles O34: a read changes no word before it clears the RC fields of its register. -/
theorem readsAnswerAndClear : Obligations.ReadsAnswerAndClear := by
  intro s off hs hans hoff h8 hserved hwin
  obtain ⟨hregs, houts, hmem⟩ := readWord_keeps s hwin
  refine ⟨_, congrArg Host.Outcome.next (hostRead_word hans hoff h8 hserved), ?_⟩
  obtain ⟨t, ht⟩ : ∃ t, t = (s.readWord off).2.emit (.readData off (BitVec.ofNat 64 (s.readWord off).1)) := ⟨_, rfl⟩
  have htregs : t.regs = s.regs := ht ▸ hregs
  have htouts : t.outs = s.outs ++ [.readData off (BitVec.ofNat 64 (s.readWord off).1)] := by rw [ht, ← houts]; rfl
  have htmem : t.mem = s.mem := ht ▸ hmem
  have htwf : t.regsWf = true := by rw [State.regsWf, htregs]; exact hs
  have hword : ∀ a, t.word a = s.word a := word_congr htregs
  have hacts : t.actsAt off = s.actsAt off := by
    unfold State.actsAt State.flag
    simp only [rd_congr htregs]
  rw [← ht, clearRead_word, hacts]
  have hfit : ∀ f ∈ rcFields off, f.lo + f.wid ≤ 64 := fun f hf => fieldsAt_fit ((List.mem_filter.1 hf).1)
  cases s.actsAt off with
  | false =>
    exact ⟨htouts, fun h => absurd h (by decide), fun a _ => hword a, fun _ => hword off, htmem⟩
  | true =>
    obtain ⟨hcouts, hcmem⟩ := clearFields_keeps t off (rcFields off)
    refine ⟨hcouts.trans htouts, fun _ f hf hrc => ?_, fun a ha => ?_, fun h => absurd h (by decide), hcmem.trans htmem⟩
    · refine clearFields_zero htwf hfit (List.mem_filter.2 ⟨hf, ?_⟩)
      have := fieldsAt_fit hf
      simp only [hrc, BEq.rfl, Nat.zero_le, decide_true, Nat.zero_add, this, Bool.and_self]
    · exact (clearFields_word_ne htwf ha _).trans (hword a)

end Sys2Proof.Machine
end

section
/-! PROOF. The stash (O35): its table, admissions, and the ends of its copies. -/

namespace Sys2Proof.Machine

/-- What a write of 8 bytes leaves in a one-bit field. -/
theorem hw8_after_one {f : Fld} (hf : f.lo + 1 ≤ 64) (hw : f.wid = 1) (s : State) (v : Word) (n i : Nat) :
    (s.after (hw8 v.toNat) f n i == 1) = v.getLsbD f.lo := by
  rw [← hw8_one hf hw, State.after, HW.one, hw8_get (hw ▸ hf)]
  rfl

/-- What the switching on of a stash writes to its context's registers (R163). -/
def stashOnWrites : List (Fld × Nat) :=
  [(R.CX_STASH_CTL_EN, 1), (R.CX_STASH_STAT_TABLE_ERR, 0), (R.CX_STASH_STAT_ERR_ENTRY, 0), (R.CX_STASH_COUNT_OFFLOADS, 0),
    (R.CX_STASH_COUNT_RECALLS, 0)]

theorem stashOnWrites_ok : ∀ p ∈ stashOnWrites, p.1.ok = true := by decide

theorem stashOnWrites_pairwise : stashOnWrites.Pairwise fun p q => q.1.away p.1 = true := by decide

/-- A stash that is switched on, before its entries' states are written out. -/
def State.stashTaken (s : State) (c : Nat) (es : List StashEntry) : State :=
  (s.wrAll stashOnWrites c).updCx c fun x => { x with stash := { entries := es } }

theorem stashOn_table {s : State} {c : Nat} {es : List StashEntry} (h : s.stashCheck c = .table es) :
    stashOn s c = (List.range es.length).foldl (fun s i => s.stashStore c i) (s.stashTaken c es) := by
  rw [stashOn, h]
  rfl

theorem stashTaken_spec {s : State} (hs : s.regsWf = true) (c : Nat) (es : List StashEntry) :
    ((s.stashTaken c es).cx c).stash.entries = es ∧ (s.stashTaken c es).flag R.CX_STASH_CTL_EN c = true ∧
      (s.stashTaken c es).flag R.CX_STASH_STAT_TABLE_ERR c = false ∧ (s.stashTaken c es).rd R.CX_STASH_COUNT_OFFLOADS c = 0 ∧
      (s.stashTaken c es).rd R.CX_STASH_COUNT_RECALLS c = 0 := by
  have hregs : (s.stashTaken c es).regs = (s.wrAll stashOnWrites c).regs := by simp only [State.stashTaken, State.updCx_keeps]
  have hrd : ∀ {f : Fld} {v : Nat}, (f, v) ∈ stashOnWrites → (s.stashTaken c es).rd f c = v % 2 ^ f.wid := fun hm =>
    (rd_congr hregs ..).trans <| wrAll_rd_mem hs stashOnWrites_ok stashOnWrites_pairwise hm
  refine ⟨by rw [State.stashTaken, State.updCx_cx_same], ?_, ?_, (hrd (f := R.CX_STASH_COUNT_OFFLOADS) (v := 0) (by decide)).trans (Nat.zero_mod _),
    (hrd (f := R.CX_STASH_COUNT_RECALLS) (v := 0) (by decide)).trans (Nat.zero_mod _)⟩
  · rw [State.flag, hrd (f := R.CX_STASH_CTL_EN) (v := 1) (by decide)]
    decide
  · rw [State.flag, hrd (f := R.CX_STASH_STAT_TABLE_ERR) (v := 0) (by decide), Nat.zero_mod]
    decide

/-- The write that sets EN of a context that exists takes the fields and checks the table. -/
theorem stashEnable_checks {s b : State} {c : Fin 16} {v : Word} (htakes : s.takesWrites .CX 0x140 = true)
    (hen : s.flag R.CX_STASH_CTL_EN c = false) (hv : v.getLsbD 0 = true)
    (hb : b = s.puts (hw8 v.toNat) [R.CX_STASH_CTL_LOW_WATER, R.CX_STASH_CTL_RECALL_PAGES, R.CX_STASH_CTL_ADMIT_EN,
      R.CX_STASH_CTL_ADMIT_SEM, R.CX_STASH_CTL_MB_SLOTS] c) (hl : b.cxLive c = true) :
    exec (.stashEnable c v) s = .next (stashOn b c).settle := by
  have hone : (hw8 v.toNat).one R.CX_STASH_CTL_EN = true := (hw8_one (by decide) rfl v).trans hv
  have hafter : (s.after (hw8 v.toNat) R.CX_STASH_CTL_EN c == 1) = true := (hw8_after_one (by decide) rfl s v c 0).trans hv
  have hputs : (s.puts (hw8 v.toNat) stashFree c).puts (hw8 v.toNat) stashFixed c = b := by rw [hb]; rfl
  refine congrArg Host.Outcome.next ((hostGate_taken htakes _).trans ?_)
  simp only [hen, hone, stashCtlWrite, hafter, hputs, hl, Bool.not_true, Bool.or_self, Bool.and_self, Bool.false_eq_true, if_false, if_true]

theorem admitNext_grants {s : State} {c n : Nat} (hl : s.live = true) (hc : s.cxState c = 3) (hen : s.flag R.CX_STASH_CTL_EN c = true)
    (hadm : s.flag R.CX_STASH_CTL_ADMIT_EN c = true) (hn : n = s.nextSlot c) (hok : s.admissible c n = true) :
    admitNext s c = (s.grantSlot c n).settle := by
  subst hn
  simp only [admitNext, hl, hc, hen, hadm, hok, bne_self_eq_false, Bool.not_true, Bool.or_self, Bool.false_eq_true, if_false, if_true]

theorem grantSlot_admits {s : State} {c : Nat} (hadm : s.flag R.CX_STASH_CTL_ADMIT_EN c = true) (n : Nat) :
    s.grantSlot c n = (s.updCx c fun x =>
      { x with stash := { x.stash with admitted := (s.cx c).stash.admitted + 1, entries := x.stash.entries.map fun e =>
          if e.mb = n then { e with held := true, admNo := (s.cx c).stash.admitted + 1 } else e } }).setSem c
            (s.rd R.CX_STASH_CTL_ADMIT_SEM c) (((s.cx c).stash.admitted + 1) % 2 ^ 32) := if_pos hadm

/-- Settles O35: the check, the grant and the two ends are one branch each. -/
theorem stashTablesAndCopies : Obligations.StashTablesAndCopies := by
  refine ⟨fun s b c v es k n => ⟨fun htakes hen hv hb hl hs => ⟨fun hno => ?_, fun htable => ?_⟩,
    fun hl hc hen hadm hn hok hk => congrArg Host.Outcome.next ?_⟩,
    fun s c i e hl hc => ⟨fun hin hfree hbad => congrArg Host.Outcome.next ?_, fun hin hbad => congrArg Host.Outcome.next ?_⟩⟩
  · rw [stashEnable_checks htakes hen hv hb hl, stashOn, hno]
  · exact ⟨b.stashTaken c es, by rw [stashEnable_checks htakes hen hv hb hl, stashOn_table htable], stashTaken_spec hs c es⟩
  · rw [admitNext_grants hl hc hen hadm hn hok, grantSlot_admits hadm, hk]
  · simp only [offloadEnd, hl, hc, hin, hbad, Nat.not_lt.2 hfree, bne_self_eq_false, Bool.not_true, Bool.or_self, Bool.false_eq_true, if_false]
  · simp only [recallEnd, hl, hc, hin, hbad, bne_self_eq_false, Bool.not_true, Bool.or_self, Bool.false_eq_true, if_false]
    rfl

end Sys2Proof.Machine
end

section
/-! PROOF. Contexts (O36, O38): how one is created, and its control fields. -/

namespace Sys2Proof.Machine

-- A write of 8 bytes to CXn.CTL.

theorem hwFields_ok {fs : List Fld} (h : fs.all Fld.ok = true) (v : Nat) : ∀ p ∈ hwFields fs v, p.1.ok = true := by
  intro p hp
  obtain ⟨g, hg, rfl⟩ := List.mem_map.1 hp
  exact List.all_eq_true.1 h g hg

theorem hwFields_away {fs : List Fld} {g : Fld} (h : fs.all (fun f => f.away g) = true) (v : Nat) : ∀ p ∈ hwFields fs v, p.1.away g = true := by
  intro p hp
  obtain ⟨f, hf, rfl⟩ := List.mem_map.1 hp
  exact List.all_eq_true.1 h f hf

/-- Of fields that share no bit, each takes its bits of the 8 bytes written. -/
theorem puts_rd {s : State} (hs : s.regsWf = true) {fs : List Fld} (hfs : fs.all Fld.ok = true)
    (ha : fs.Pairwise fun f g => g.away f = true) {f : Fld} (hf : f ∈ fs) (v n : Nat) :
    (s.puts (hw8 v) fs n).rd f n = bitsAt v f.lo f.wid := by
  have hin : (f, bitsAt v f.lo f.wid) ∈ hwFields fs v := List.mem_map_of_mem hf
  rw [puts_eq_wrAll _ hfs, wrAll_rd_mem hs (hwFields_ok hfs v) (List.pairwise_map.2 ha) hin, Nat.mod_eq_of_lt (bitsAt_lt ..)]

theorem puts_rd_away {s : State} (hs : s.regsWf = true) {fs : List Fld} (hfs : fs.all Fld.ok = true) {g : Fld}
    (ha : fs.all (fun f => f.away g) = true) (v n : Nat) : (s.puts (hw8 v) fs n).rd g n = s.rd g n := by
  rw [puts_eq_wrAll _ hfs, wrAll_rd_away hs (hwFields_ok hfs v) (hwFields_away ha v)]

theorem puts_word_ne {s : State} (hs : s.regsWf = true) {fs : List Fld} (hfs : fs.all Fld.ok = true) {n a : Nat}
    (ha : ∀ f ∈ fs, a ≠ f.addr n) (v : Nat) : (s.puts (hw8 v) fs n).word a = s.word a := by
  rw [puts_eq_wrAll _ hfs]
  refine wrAll_word_ne hs fun p hp => ?_
  obtain ⟨f, hf, rfl⟩ := List.mem_map.1 hp
  exact ha f hf

/-- Fields written to a context leave everything but the registers. -/
theorem puts_eq_regs (s : State) {fs : List Fld} (hfs : fs.all Fld.ok = true) (v n : Nat) :
    s.puts (hw8 v) fs n = { s with regs := (s.puts (hw8 v) fs n).regs } := by
  rw [puts_eq_wrAll _ hfs]
  exact wrAll_eq_regs ..

theorem wrAll_regsWf {s : State} (hs : s.regsWf = true) (l : List (Fld × Nat)) (n : Nat) : (s.wrAll l n).regsWf = true := by
  induction l generalizing s with
  | nil => exact hs
  | cons p l ih => exact ih (wr_regsWf hs ..)

theorem puts_regsWf {s : State} (hs : s.regsWf = true) {fs : List Fld} (hfs : fs.all Fld.ok = true) (v n : Nat) :
    (s.puts (hw8 v) fs n).regsWf = true := by
  rw [puts_eq_wrAll _ hfs]
  exact wrAll_regsWf hs ..

theorem bitsAt_eq_one (v : Word) (lo : Nat) : (bitsAt v.toNat lo 1 == 1) = v.getLsbD lo := by
  have hbit : bitsAt v.toNat lo 1 = (v.toNat.testBit lo).toNat := by
    rw [bitsAt, Nat.toNat_testBit, Nat.shiftRight_eq_div_pow, Nat.pow_one]
  rw [hbit, BitVec.getLsbD]
  cases v.toNat.testBit lo <;> rfl

/-- The fields of CXn.CTL that a host may replace while the context exists (R277). -/
def ctlRun : List Fld := [R.CX_CTL_RUN, R.CX_CTL_AT_POINT, R.CX_CTL_PRIO, R.CX_CTL_VECTOR]

theorem ctlRun_ok : ctlRun.all Fld.ok = true := by decide

theorem ctlRun_pairwise : ctlRun.Pairwise fun f g => g.away f = true := by decide

theorem ctl_one {f : Fld} (hf : f ∈ [R.CX_CTL_CREATE, R.CX_CTL_DESTROY, R.CX_CTL_XLT_INV]) (v : Word) :
    (hw8 v.toNat).one f = v.getLsbD f.lo := by
  have hfit : ∀ f ∈ [R.CX_CTL_CREATE, R.CX_CTL_DESTROY, R.CX_CTL_XLT_INV], f.lo + 1 ≤ 64 ∧ f.wid = 1 := by decide
  exact hw8_one (hfit f hf).1 (hfit f hf).2 v

theorem ctl_create (v : Word) : (hw8 v.toNat).one R.CX_CTL_CREATE = v.getLsbD 0 := ctl_one (by decide) v

theorem ctl_destroy (v : Word) : (hw8 v.toNat).one R.CX_CTL_DESTROY = v.getLsbD 1 := ctl_one (by decide) v

theorem ctl_xltInv (v : Word) : (hw8 v.toNat).one R.CX_CTL_XLT_INV = v.getLsbD 5 := ctl_one (by decide) v

theorem cxCtlWrite_run {s : State} {c : Nat} {v : Word} (hstate : s.cxState c ≠ 0) (h0 : v.getLsbD 0 = false) (h1 : v.getLsbD 1 = false) :
    cxCtlWrite s c (hw8 v.toNat) =
      (if v.getLsbD 5 then (s.puts (hw8 v.toNat) ctlRun c).setFlag R.CX_STATUS_INV_BUSY true c else s.puts (hw8 v.toNat) ctlRun c).settle := by
  have hno : (s.cxState c == 0) = false := by simpa using hstate
  simp only [cxCtlWrite, ctl_create, ctl_destroy, ctl_xltInv, h0, h1, hno, Bool.false_eq_true, if_false]
  rfl

/-- Settles O38: the four fields share CXn.CTL, and CLASS and NOPREEMPT share no bit with them. -/
theorem runAndTranslations : Obligations.RunAndTranslations := by
  intro s b c v hs hstate h0 h1 hb
  replace hb : b = s.puts (hw8 v.toNat) ctlRun c := hb
  have hrd : ∀ {f : Fld}, f ∈ ctlRun → b.rd f c = bitsAt v.toNat f.lo f.wid := fun hf => by
    rw [hb, puts_rd hs ctlRun_ok ctlRun_pairwise hf]
  have haway : ∀ {g : Fld}, ctlRun.all (fun f => f.away g) = true → b.rd g c = s.rd g c := fun ha => by
    rw [hb, puts_rd_away hs ctlRun_ok ha]
  have haddr : ∀ f ∈ ctlRun, f.addr c = R.CX_CTL_RUN.addr c := by
    intro f hf
    have hoff : ∀ f ∈ ctlRun, f.blk = R.CX_CTL_RUN.blk ∧ f.off = R.CX_CTL_RUN.off ∧ f.sub = R.CX_CTL_RUN.sub := by decide
    obtain ⟨hblk, hoff, hsub⟩ := hoff f hf
    rw [Fld.addr, Fld.addr, hblk, hoff, hsub]
  refine ⟨?_, ?_, hrd (f := R.CX_CTL_PRIO) (by decide), hrd (f := R.CX_CTL_VECTOR) (by decide), haway (by decide), haway (by decide),
    fun a ha => ?_, fun htakes h5 => congrArg Host.Outcome.next ?_, fun htakes h5 => congrArg Host.Outcome.next ?_,
    fun hl hinv => congrArg Host.Outcome.next ?_⟩
  · exact (congrArg (· == 1) (hrd (f := R.CX_CTL_RUN) (by decide))).trans (bitsAt_eq_one v 2)
  · exact (congrArg (· == 1) (hrd (f := R.CX_CTL_AT_POINT) (by decide))).trans (bitsAt_eq_one v 4)
  · rw [hb, puts_word_ne hs ctlRun_ok fun f hf => by rw [haddr f hf]; exact ha]
  · refine (hostGate_taken htakes _).trans ?_
    rw [cxCtlWrite_run hstate h0 h1, h5, hb]
    rfl
  · refine (hostGate_taken htakes _).trans ?_
    rw [ctl_xltInv, if_pos h5, cxCtlWrite_run hstate h0 h1, h5, hb]
    rfl
  · simp only [invDone, hinv, hl, Bool.and_self, if_true]
    rfl

-- Creation (R278, R446).

/-- What a creation writes to its context's registers. -/
def createWrites : List (Fld × Nat) := (createCleared.map fun f => (f, 0)) ++ [(R.CX_STATUS_STATE, 1)]

theorem createWrites_ok : ∀ p ∈ createWrites, p.1.ok = true := by decide

theorem createWrites_pairwise : createWrites.Pairwise fun p q => q.1.away p.1 = true := by decide

theorem foldl_updSp_keeps (s : State) (l : List Nat) (g : Spu → Spu) :
    (l.foldl (fun s n => s.updSp n g) s).regs = s.regs ∧ (l.foldl (fun s n => s.updSp n g) s).cmds = s.cmds ∧
      (l.foldl (fun s n => s.updSp n g) s).cxs = s.cxs := by
  induction l generalizing s with
  | nil => exact ⟨rfl, rfl, rfl⟩
  | cons a l ih => exact ih (s.updSp a g)

theorem foldl_wr_eq_wrAll (s : State) (fs : List Fld) (c : Nat) :
    fs.foldl (fun s f => s.wr f 0 c) s = s.wrAll (fs.map fun f => (f, 0)) c := by
  rw [State.wrAll, List.foldl_map]

theorem cx_congr {s t : State} (h : t.cxs = s.cxs) (d : Nat) : t.cx d = s.cx d := by rw [State.cx, State.cx, h]

/-- The processors of a created context stand at no step. -/
def State.freshSps (s : State) (c : Nat) : State :=
  (s.boundSps c).foldl (fun s n => s.updSp n fun u => { u with step := none, halted := false }) s

/-- A created context before its semaphores go to the store of its take area. -/
def State.freshCx (s : State) (c : Nat) : State :=
  let s := (createCleared.foldl (fun s f => s.wr f 0 c) s).freshSps c
  s.updCx c fun x =>
    { stash := x.stash, ckpt := x.ckpt,
      poolNear := poolOf (s.rdAddr R.CX_SHADOW_NEAR_BASE c) (s.rd R.CX_SHADOW_NEAR_PAGES c),
      poolSlow := poolOf (s.rdAddr R.CX_SHADOW_SLOW_BASE c) (s.rd R.CX_SHADOW_SLOW_PAGES c) }

theorem makeCx_eq (s : State) (c : Nat) :
    makeCx s c = (((s.freshCx c).pwrite (0x1000 + (s.freshCx c).rdAddr R.CX_TAKE_BASE c) (s.semImage c)).wr R.CX_STATUS_STATE 1 c).dropTranslations c :=
  rfl

theorem freshCx_keeps (s : State) (c : Nat) :
    (s.freshCx c).regs = (s.wrAll (createCleared.map fun f => (f, 0)) c).regs ∧ (s.freshCx c).cmds = s.cmds ∧
      (((s.freshCx c).cx c).take = { empty := true } ∧ ((s.freshCx c).cx c).binds = [] ∧ ((s.freshCx c).cx c).first = none ∧
        ((s.freshCx c).cx c).shadows = []) ∧ ∀ d, d % 16 ≠ c % 16 → (s.freshCx c).cx d = s.cx d := by
  have huall := foldl_wr_eq_wrAll s createCleared c
  obtain ⟨hregs, hcmds, hcxs⟩ := foldl_updSp_keeps (createCleared.foldl (fun s f => s.wr f 0 c) s)
    ((createCleared.foldl (fun s f => s.wr f 0 c) s).boundSps c) fun u => { u with step := none, halted := false }
  have hucxs : (createCleared.foldl (fun s f => s.wr f 0 c) s).cxs = s.cxs := by rw [huall, wrAll_eq_regs]
  refine ⟨hregs.trans (congrArg State.regs huall), hcmds.trans ((congrArg State.cmds huall).trans (wrAll_keeps ..).1), ?_, fun d hd => ?_⟩
  · rw [State.freshCx, State.updCx_cx_same]
    exact ⟨rfl, rfl, rfl, rfl⟩
  · rw [State.freshCx, State.updCx_cx, if_neg hd]
    exact cx_congr (hcxs.trans hucxs) d

theorem makeCx_spec {s : State} (hs : s.regsWf = true) {c : Nat} :
    (∀ {f : Fld} {v : Nat}, (f, v) ∈ createWrites → (makeCx s c).rd f c = v % 2 ^ f.wid) ∧ (makeCx s c).cmds = s.cmds ∧
      (((makeCx s c).cx c).take = { empty := true } ∧ ((makeCx s c).cx c).binds = [] ∧ ((makeCx s c).cx c).first = none ∧
        ((makeCx s c).cx c).shadows = []) ∧ ∀ d, d % 16 ≠ c % 16 → (makeCx s c).cx d = s.cx d := by
  obtain ⟨hregs, hcmds, hcx, hothers⟩ := freshCx_keeps s c
  obtain ⟨u, hu⟩ : ∃ u, u = (s.freshCx c).pwrite (0x1000 + (s.freshCx c).rdAddr R.CX_TAKE_BASE c) (s.semImage c) := ⟨_, rfl⟩
  obtain ⟨huregs, hucxs, hucmds⟩ : u.regs = (s.freshCx c).regs ∧ u.cxs = (s.freshCx c).cxs ∧ u.cmds = (s.freshCx c).cmds := by
    rw [hu]
    simp only [State.pwrite_keeps, and_self]
  have hdef : makeCx s c = (u.wr R.CX_STATUS_STATE 1 c).updCx c fun x => { x with ptmem := none } := hu ▸ makeCx_eq s c
  have hall : (makeCx s c).regs = (s.wrAll createWrites c).regs := by
    have happ : s.wrAll createWrites c = (s.wrAll (createCleared.map fun f => (f, 0)) c).wrAll [(R.CX_STATUS_STATE, 1)] c :=
      List.foldl_append
    rw [happ, hdef]
    exact wrAll_regs_congr (huregs.trans hregs) [(R.CX_STATUS_STATE, 1)] c
  have hwcx : ∀ d, (u.wr R.CX_STATUS_STATE 1 c).cx d = (s.freshCx c).cx d := cx_congr hucxs
  refine ⟨fun hm => ?_, ?_, ?_, fun d hd => ?_⟩
  · rw [rd_congr hall, wrAll_rd_mem hs createWrites_ok createWrites_pairwise hm]
  · rw [hdef]
    exact hucmds.trans hcmds
  · rw [hdef, State.updCx_cx_same, hwcx]
    exact hcx
  · rw [hdef, State.updCx_cx, if_neg hd, hwcx, hothers d hd]

/-- The fields of CXn.CTL that a write which creates a context takes (R277). -/
def ctlAll : List Fld := [R.CX_CTL_CLASS, R.CX_CTL_NOPREEMPT, R.CX_CTL_RUN, R.CX_CTL_AT_POINT, R.CX_CTL_PRIO, R.CX_CTL_VECTOR]

theorem ctlAll_ok : ctlAll.all Fld.ok = true := by decide

theorem create_runs {s b : State} {c : Fin 16} {v : Word} (hs : s.regsWf = true) (htakes : s.takesWrites .CX 0 = true)
    (hstate : s.cxState c = 0) (h0 : v.getLsbD 0 = true) (h1 : v.getLsbD 1 = false) (h5 : v.getLsbD 5 = false)
    (hb : b = s.puts (hw8 v.toNat) ctlAll c) :
    exec (.create c v) s = .next (if b.createCheck c = 0 then makeCx b c else b.wr R.CX_STATUS_CREATE_ERR (b.createCheck c) c).settle := by
  have hbstate : b.cxState c = 0 := by
    rw [State.cxState, hb, puts_rd_away hs ctlAll_ok (by decide)]
    exact hstate
  have hputs : (s.puts (hw8 v.toNat) [R.CX_CTL_CLASS, R.CX_CTL_NOPREEMPT] c).puts (hw8 v.toNat)
      [R.CX_CTL_RUN, R.CX_CTL_AT_POINT, R.CX_CTL_PRIO, R.CX_CTL_VECTOR] c = b := hb ▸ rfl
  refine congrArg Host.Outcome.next ((hostGate_taken htakes _).trans ?_)
  rw [ctl_create, if_pos h0]
  simp only [cxCtlWrite, ctl_create, ctl_destroy, ctl_xltInv, h0, h1, h5, hstate, BEq.rfl, Bool.false_eq_true, if_false, if_true, hputs]
  rw [createCx, hbstate, bne_self_eq_false]
  rfl

/-- Settles O36: the write takes its fields, and the checks decide between the creation and CREATE_ERR. -/
theorem createChecksAndCreates : Obligations.CreateChecksAndCreates := by
  intro s b c v hs htakes hstate h0 h1 h5 hb
  replace hb : b = s.puts (hw8 v.toNat) ctlAll c := hb
  have hwf : s.regsWf = true := ((canon_iff s).1 hs).1
  have hrun := create_runs hwf htakes hstate h0 h1 h5 hb
  refine ⟨fun hok => ⟨makeCx b c, by rw [hrun, if_pos hok], ?_⟩, fun hno => by rw [hrun, if_neg hno]⟩
  have hbwf : b.regsWf = true := hb ▸ puts_regsWf hwf ctlAll_ok _ _
  have hbregs : b = { s with regs := b.regs } := by
    have := puts_eq_regs s ctlAll_ok v.toNat c
    rwa [← hb] at this
  obtain ⟨hrd, hcmds, ⟨htake, hbinds, hfirst, hshadows⟩, hothers⟩ := makeCx_spec (s := b) hbwf (c := c)
  have hzero : ∀ {f : Fld}, (f, 0) ∈ createWrites → (makeCx b c).rd f c = 0 := fun hm => (hrd hm).trans (Nat.zero_mod _)
  refine ⟨hrd (f := R.CX_STATUS_STATE) (v := 1) (by decide), htake, hbinds, hfirst, hshadows, hzero (by decide), hzero (by decide),
    hzero (by decide), hzero (by decide), hzero (by decide), hzero (by decide), hzero (by decide), hzero (by decide), hzero (by decide),
    hzero (by decide), ?_, fun d hd hne => ?_⟩
  · rw [hcmds, hbregs]
  · rw [hothers d (by have := c.isLt; omega), hbregs]
    rfl

end Sys2Proof.Machine
end

section
/-! PROOF. Destruction (O37): what a teardown and a destruction leave of a context. -/

namespace Sys2Proof.Machine

/-- Two states hold the same commands, messages, collectives, contexts and casts. -/
structure SameWork (s t : State) : Prop where
  cmds : t.cmds = s.cmds
  msgs : t.msgs = s.msgs
  colls : t.colls = s.colls
  cxs : t.cxs = s.cxs
  cast : t.cast = s.cast

theorem SameWork.refl (s : State) : SameWork s s := ⟨rfl, rfl, rfl, rfl, rfl⟩

theorem SameWork.trans {s t u : State} (h : SameWork s t) (h' : SameWork t u) : SameWork s u :=
  ⟨h'.cmds.trans h.cmds, h'.msgs.trans h.msgs, h'.colls.trans h.colls, h'.cxs.trans h.cxs, h'.cast.trans h.cast⟩

theorem SameWork.ite {s t u : State} {p : Prop} [Decidable p] (h : SameWork s t) (h' : SameWork s u) : SameWork s (if p then t else u) := by
  split <;> assumption

theorem SameWork.fold {α : Type} {f : State → α → State} (hf : ∀ s a, SameWork s (f s a)) (s : State) (l : List α) :
    SameWork s (l.foldl f s) := by
  induction l generalizing s with
  | nil => exact .refl s
  | cons a l ih => exact (hf s a).trans (ih (f s a))

theorem Reports.sameWork {s t : State} (h : Reports s t) : SameWork s t := ⟨h.cmds, h.msgs, h.colls, h.cxs, h.cast⟩

theorem sameWork_wr (s : State) (f : Fld) (v n i : Nat) : SameWork s (s.wr f v n i) := ⟨rfl, rfl, rfl, rfl, rfl⟩

theorem sameWork_setSem (s : State) (c i v : Nat) : SameWork s (s.setSem c i v) := by
  unfold State.setSem
  refine .ite ?_ (sameWork_wr ..)
  constructor <;> simp only [State.pwriteNat, State.pwrite_keeps]

theorem sameWork_releaseHold (s : State) (c p : Nat) : SameWork s (s.releaseHold c p) := .ite (sameWork_setSem ..) (.refl s)

theorem sameWork_spillGone (s : State) (c : Nat) : SameWork s (s.spillGone c) := .ite ⟨rfl, rfl, rfl, rfl, rfl⟩ (.refl s)

theorem sameWork_markDead (s : State) (c : Nat) : SameWork s (s.markDead c) :=
  .fold (fun s _ => .ite (sameWork_wr ..) (.refl s)) s _

theorem sameWork_puts (s : State) (w : HW) (fs : List Fld) (n i : Nat) : SameWork s (s.puts w fs n i) := by
  refine .fold (fun s f => ?_) s fs
  unfold State.put
  split
  · exact sameWork_wr ..
  · exact .refl s

/-- No command, message or collective of a context is in progress. -/
structure Idle (t : State) (c : Nat) : Prop where
  cmds : ∀ x ∈ t.cmds, x.cx ≠ c
  msgs : ∀ m ∈ t.msgs, m.cx ≠ c
  colls : ∀ k ∈ t.colls, k.cx ≠ c

theorem Idle.of_eq {s t : State} {c : Nat} (h : Idle s c) (hcmds : t.cmds = s.cmds) (hmsgs : t.msgs = s.msgs)
    (hcolls : t.colls = s.colls) : Idle t c := ⟨hcmds ▸ h.cmds, hmsgs ▸ h.msgs, hcolls ▸ h.colls⟩

/-- Nothing of a context is left on the die: it is idle, holds no binding, and its take is empty. -/
structure Torn (t : State) (c : Nat) : Prop where
  idle : Idle t c
  binds : (t.cx c).binds = []
  take : (t.cx c).take = { empty := true }

theorem Torn.same {s t : State} {c : Nat} (ht : Torn s c) (h : SameWork s t) : Torn t c := by
  have hcx := cx_congr h.cxs c
  exact ⟨ht.idle.of_eq h.cmds h.msgs h.colls, hcx ▸ ht.binds, hcx ▸ ht.take⟩

/-- A change of the context that keeps its bindings and its take. -/
theorem Torn.updCx {s : State} {c : Nat} (ht : Torn s c) {g : Ctx → Ctx} (hb : (g (s.cx c)).binds = (s.cx c).binds)
    (htake : (g (s.cx c)).take = (s.cx c).take) : Torn (s.updCx c g) c :=
  ⟨ht.idle.of_eq rfl rfl rfl, by rw [State.updCx_cx_same, hb, ht.binds], by rw [State.updCx_cx_same, htake, ht.take]⟩

/-- A context whose bindings and take are dropped while it is idle. -/
theorem Idle.torn {s : State} {c : Nat} (h : Idle s c) {g : Ctx → Ctx} (hb : (g (s.cx c)).binds = []) (ht : (g (s.cx c)).take = {}) :
    Torn (s.updCx c g) c :=
  ⟨h.of_eq rfl rfl rfl, by rw [State.updCx_cx_same, hb], by rw [State.updCx_cx_same, ht]⟩

-- The collectives of a context are aborted one after another.

theorem abortColl_keeps (s : State) (k : Coll) :
    (s.abortColl k).colls = s.colls.filter (fun x => x.id != k.id) ∧ (s.abortColl k).cxs = s.cxs ∧ (s.abortColl k).msgs = s.msgs := by
  have h := reports_rush (({ s with colls := s.colls.filter fun x => x.id != k.id }.bump R.CE_STAT_ABORTS).sendFrames
    (k.acc.others.map (collAbortFrame ({ s with colls := s.colls.filter fun x => x.id != k.id }.bump R.CE_STAT_ABORTS) k)))
    5 k.cx 0 0 0 0 80
  exact ⟨h.colls, h.cxs, h.msgs⟩

theorem abortColls_gone {s : State} {l : List Coll} {k : Coll} (hk : k ∈ (l.foldl (fun s x => s.abortColl x) s).colls) :
    k ∈ s.colls ∧ k ∉ l := by
  induction l generalizing s with
  | nil => exact ⟨hk, List.not_mem_nil⟩
  | cons x l ih =>
    obtain ⟨hin, hnot⟩ := ih hk
    rw [(abortColl_keeps s x).1, List.mem_filter] at hin
    obtain ⟨hin, hne⟩ := hin
    refine ⟨hin, fun h => ?_⟩
    rcases List.mem_cons.1 h with rfl | h
    · simp at hne
    · exact hnot h

theorem clearArrays_keeps (s : State) (c : Nat) (l : List Nat) :
    (l.foldl (fun s a => s.clearArray c a) s).msgs = s.msgs ∧ (l.foldl (fun s a => s.clearArray c a) s).colls = s.colls := by
  induction l generalizing s with
  | nil => exact ⟨rfl, rfl⟩
  | cons a l ih =>
    obtain ⟨hmsgs, hcolls⟩ := ih (s.clearArray c a)
    have h := reports_count (s.updArr a fun x =>
      { x with ring := x.ring.filter fun r => r.cx != c,
               flight := x.flight.filter fun r => r.cx != c,
               slot0 := if s.pinnedBy c a 0 then {} else x.slot0,
               slot1 := if s.pinnedBy c a 1 then {} else x.slot1 }) 0x013 a c ((s.arr a).ring.filter fun r => r.cx == c).length
    exact ⟨hmsgs.trans h.msgs, hcolls.trans h.colls⟩

theorem discardShadows_idle {s : State} {c : Nat} (h : Idle s c) (p : Shadow → Bool) : Idle (s.discardShadows c p) c := by
  have hfold : ∀ (l : List Shadow) (s : State), (l.foldl (fun s h => s.discardShadow c h) s).cmds = s.cmds ∧
      (l.foldl (fun s h => s.discardShadow c h) s).msgs = s.msgs ∧ (l.foldl (fun s h => s.discardShadow c h) s).colls = s.colls := by
    intro l
    induction l with
    | nil => exact fun s => ⟨rfl, rfl, rfl⟩
    | cons a l ih => exact fun s => ih (s.discardShadow c a)
  obtain ⟨hcmds, hmsgs, hcolls⟩ := hfold ((s.cx c).shadows.filter p)
    (s.updCx c fun x => { x with shadows := x.shadows.filter fun h => !p h })
  exact h.of_eq hcmds hmsgs hcolls

-- A teardown in its four parts (R294).

/-- Dispatch stops: the fault's own registers and the processors of the context. -/
def State.tearStop (s : State) (c : Nat) (k : Cause) : State :=
  let s := match k.block with
    | some b => s.uncorrEvent b (some c) false
    | none => s
  let s := if s.semStored c then s.semLoad c else s
  let s := if k.pim then s.bump R.CX_NUMERIC_PIM_REFUSED 1 c else s
  (s.boundSps c).foldl (fun s n => s.markSp n k none) s

/-- Collectives, messages, arrays, commands and shadows of the context go. -/
def State.tearIdle (s : State) (c : Nat) : State :=
  let s := (s.colls.filter fun x => x.cx == c).foldl (fun s x => s.abortColl x) s
  let s := { s with msgs := s.msgs.filter fun m => m.cx != c, txWait := s.txWait.filter fun f => !requestOf c f }
  let s := (List.range 8).foldl (fun s a => s.clearArray c a) s
  let s := { s with cmds := s.cmds.filter fun x => x.cx != c }
  s.discardShadows c fun _ => true

/-- Its bindings, its take and what stood saved go. -/
def State.tearCx (s : State) (c : Nat) : State :=
  s.updCx c fun x =>
    { x with binds := [], take := {}, rings := [], tiles := [], park := .none,
             stash := { x.stash with entries := x.stash.entries.map StashEntry.release, demand := [] },
             ckpt := { x.ckpt with sends := [], journal := [], sealing := 0, sendOp := false,
                                   held := x.ckpt.held.filter fun h => decide (h.gen ≤ s.rd R.CX_CKPT_STAT_SEALED c) } }

/-- Its checkpoint operation ends, and its print holds and its spill. -/
def State.tearHolds (s : State) (c : Nat) : State :=
  let s := if s.flag R.CX_CKPT_OPSTAT_BUSY c then (s.setFlag R.CX_CKPT_OPSTAT_BUSY false c).wr R.CX_CKPT_OPSTAT_RESULT 4 c else s
  let s := (s.heldPrints c).foldl (fun s p => s.releaseHold c p) s
  s.spillGone c

/-- It is FAULTED, with its fault fields. -/
def State.tearFields (s : State) (c : Nat) (k : Cause) : State :=
  let s := s.wr R.CX_STATUS_STATE 5 c
  let s := s.setFlag R.CX_STATUS_WAIT_DEAD false c
  let s := s.wr R.CX_STATUS_FAULT_CODE k.code c
  let s := s.wr R.CX_STATUS_FAULT_SP 0 c
  let s := s.wr R.CX_FAULT_ADDR (if k.code = 2 ∨ k.code = 3 then k.addr else 0) c
  s.wr R.CX_FAULT_REASON (if k.code = 5 then k.reason else 0) c

/-- Its fault is reported. -/
def State.tearReport (s : State) (c : Nat) (k : Cause) : State :=
  let s := s.msix (s.rd R.CX_CTL_VECTOR c)
  let s := s.reelEvent 0x0A (blkIndex .CX + c) c (leBytes 1 k.code ++ leBytes 1 0 ++ leBytes 4 0 ++ leBytes 8 k.addr)
  let s := s.rush 3 c 0 0 0 0 k.code
  s.trigger 0 c

theorem faultCx_parts {s : State} {c : Nat} (h : s.cxLive c = true) (k : Cause) :
    s.faultCx c k = (((((s.tearStop c k).tearIdle c).tearCx c).tearHolds c).tearFields c k).tearReport c k := by
  unfold State.faultCx
  rw [h, Bool.not_true, if_neg (by decide)]
  rfl

theorem tearIdle_idle (s : State) (c : Nat) : Idle (s.tearIdle c) c := by
  unfold State.tearIdle
  obtain ⟨t, ht⟩ : ∃ t, t = (s.colls.filter fun x => x.cx == c).foldl (fun s x => s.abortColl x) s := ⟨_, rfl⟩
  have hcolls : ∀ x ∈ t.colls, x.cx ≠ c := fun x hx hc => by
    obtain ⟨hin, hnot⟩ := abortColls_gone (ht ▸ hx)
    exact hnot (List.mem_filter.2 ⟨hin, beq_iff_eq.2 hc⟩)
  obtain ⟨u, hu⟩ : ∃ u : State, u = { t with msgs := t.msgs.filter fun m => m.cx != c, txWait := t.txWait.filter fun f => !requestOf c f } := ⟨_, rfl⟩
  have humsgs : ∀ m ∈ u.msgs, m.cx ≠ c := fun m hm => by
    rw [hu] at hm
    simpa using (List.mem_filter.1 hm).2
  have hucolls : u.colls = t.colls := by rw [hu]
  obtain ⟨v, hv⟩ : ∃ v, v = (List.range 8).foldl (fun s a => s.clearArray c a) u := ⟨_, rfl⟩
  obtain ⟨hvm, hvk⟩ : v.msgs = u.msgs ∧ v.colls = u.colls := hv ▸ clearArrays_keeps u c (List.range 8)
  have hw : Idle { v with cmds := v.cmds.filter fun x => x.cx != c } c :=
    ⟨fun x hx => by simpa using (List.mem_filter.1 hx).2, fun m hm => humsgs m (hvm ▸ hm), fun k hk => hcolls k (hucolls ▸ hvk ▸ hk)⟩
  rw [← ht]
  dsimp only
  rw [← hu, ← hv]
  exact discardShadows_idle hw _

theorem sameWork_tearHolds (s : State) (c : Nat) : SameWork s (s.tearHolds c) :=
  ((SameWork.ite ((sameWork_wr ..).trans (sameWork_wr ..)) (.refl s)).trans (.fold (fun s p => sameWork_releaseHold s c p) _ _)).trans
    (sameWork_spillGone _ c)

theorem sameWork_tearFields (s : State) (c : Nat) (k : Cause) : SameWork s (s.tearFields c k) := ⟨rfl, rfl, rfl, rfl, rfl⟩

theorem reports_tearReport (s : State) (c : Nat) (k : Cause) : Reports s (s.tearReport c k) :=
  (((reports_msix s _ (bitsAt_lt _ _ 11)).trans (reports_reelEvent ..)).trans (reports_rush ..)).trans (reports_trigger ..)

/-- A teardown leaves nothing of a context that exists (R294). -/
theorem faultCx_torn {s : State} {c : Nat} (h : s.cxLive c = true) (k : Cause) : Torn (s.faultCx c k) c := by
  rw [faultCx_parts h]
  exact ((tearIdle_idle (s.tearStop c k) c).torn rfl rfl).same
    (((sameWork_tearHolds ..).trans (sameWork_tearFields ..)).trans (reports_tearReport ..).sameWork)

-- Destruction (R295).

/-- What a teardown leaves, for a context that exists. -/
theorem destroyCx_torn {s : State} {c : Nat} (h : s.cxLive c = true) (h0 : s.cxState c ≠ 0) : Torn (destroyCx s c) c := by
  have hno : (s.cxState c == 0) = false := by simpa using h0
  rw [destroyCx, hno, if_neg (by decide)]
  have hcast : Torn ((s.faultCx c { code := 9 }).freeCast c) c :=
    ⟨(faultCx_torn h _).idle.of_eq rfl rfl rfl, (faultCx_torn h _).binds, (faultCx_torn h _).take⟩
  exact (hcast.updCx (g := fun x => { x with ckpt := {} }) rfl rfl).same
    (((SameWork.fold (fun s f => sameWork_wr s f 0 c 0) _ _).trans (sameWork_wr ..)).trans (sameWork_markDead ..))

theorem destroyCx_cast {s : State} {c : Nat} (h0 : s.cxState c ≠ 0) :
    ∀ e ∈ (destroyCx s c).cast, e.cx ≠ c ∧ (e.scx = c → e.sres = false ∧ e.spages = []) := by
  have hno : (s.cxState c == 0) = false := by simpa using h0
  rw [destroyCx, hno, if_neg (by decide)]
  have hkept : SameWork (((s.faultCx c { code := 9 }).freeCast c).updCx c fun x => { x with ckpt := {} }) _ :=
    ((SameWork.fold (fun s f => sameWork_wr s f 0 c 0) _ [R.CX_CKPT_CTL_EN, R.CX_CKPT_STAT_GEN, R.CX_CKPT_STAT_SEALED]).trans
      (sameWork_wr _ R.CX_STATUS_STATE 0 c 0)).trans (sameWork_markDead _ c)
  intro e he
  rw [hkept.cast] at he
  obtain ⟨d, hd, rfl⟩ := List.mem_map.1 he
  have hne : d.cx ≠ c := by simpa using (List.mem_filter.1 hd).2
  split
  · exact ⟨hne, fun _ => ⟨rfl, rfl⟩⟩
  · next hsc => exact ⟨hne, fun h => absurd h hsc⟩

/-- WAIT_DEAD of other contexts shares no bit with a STATE. -/
theorem markDead_cxState {s : State} (hs : s.regsWf = true) (c d : Nat) : (s.markDead c).cxState d = s.cxState d := by
  have hfold : ∀ (l : List Nat) {s : State}, s.regsWf = true →
      (l.foldl (fun s x => if x != c && s.waitsOn x c then s.setFlag R.CX_STATUS_WAIT_DEAD true x else s) s).cxState d = s.cxState d := by
    intro l
    induction l with
    | nil => exact fun _ => rfl
    | cons x l ih =>
      intro s hs
      rw [List.foldl_cons]
      split
      · exact (ih (setFlag_regsWf hs ..)).trans (wr_rd_apart hs (by decide) _ _ _ _ _ (by decide))
      · exact ih hs
  exact hfold _ hs

/-- A destroyed context is FREE: only WAIT_DEAD of other contexts is written after it. -/
theorem destroyCx_free {s : State} {c : Nat} (hs : s.canon = true) (h0 : s.cxState c ≠ 0) : (destroyCx s c).cxState c = 0 := by
  have hno : (s.cxState c == 0) = false := by simpa using h0
  have hwf : (((s.faultCx c { code := 9 }).freeCast c).updCx c fun x => { x with ckpt := {} }).regsWf = true :=
    ((canon_iff _).1 (faultCx_canon s c { code := 9 } none hs)).1
  rw [destroyCx, hno, if_neg (by decide), markDead_cxState, State.cxState, wr_rd_same _ (by decide), Nat.zero_mod]
  · rw [foldl_wr_eq_wrAll]
    exact wrAll_regsWf hwf ..
  · refine wr_regsWf ?_ ..
    rw [foldl_wr_eq_wrAll]
    exact wrAll_regsWf hwf ..

theorem destroy_runs {s : State} {c : Fin 16} {v : Word} (hs : s.canon = true) (htakes : s.takesWrites .CX 0 = true)
    (hstate : s.cxState c ≠ 0) (h1 : v.getLsbD 1 = true) (h0 : v.getLsbD 0 = false) (h5 : v.getLsbD 5 = false) :
    exec (.destroy c v) s = .next ((destroyCx s c).puts (hw8 v.toNat) ctlAll c).settle := by
  have hfree : ((destroyCx s c).cxState c == 0) = true := beq_iff_eq.2 (destroyCx_free hs hstate)
  refine congrArg Host.Outcome.next ((hostGate_taken htakes _).trans ?_)
  rw [ctl_destroy, if_pos h1]
  simp only [cxCtlWrite, ctl_create, ctl_destroy, ctl_xltInv, h0, h1, h5, hfree, Bool.false_eq_true, if_false, if_true]
  rfl

/-- Settles O37: a destruction tears the context down, frees its casts and its state, and the write's fields touch none of them. -/
theorem destroyLeavesNothing : Obligations.DestroyLeavesNothing := by
  intro s c v hs htakes hstate h1 h0 h5
  refine ⟨_, destroy_runs hs htakes hstate h1 h0 h5, ?_, fun h => ?_, ?_⟩
  · rw [puts_rd_away ((canon_iff _).1 (destroyCx_canon s c hs)).1 ctlAll_ok (by decide)]
    exact destroyCx_free hs hstate
  · have hl : s.cxLive c = true := by
      rw [State.cxLive, Bool.and_eq_true, bne_iff_ne, bne_iff_ne]
      exact ⟨hstate, h⟩
    obtain ⟨⟨hcmds, hmsgs, hcolls⟩, hbinds, htake⟩ := (destroyCx_torn hl hstate).same (sameWork_puts _ (hw8 v.toNat) ctlAll c 0)
    exact ⟨hcmds, hmsgs, hcolls, hbinds, htake⟩
  · rw [(sameWork_puts (destroyCx s c) (hw8 v.toNat) ctlAll c 0).cast]
    exact destroyCx_cast hstate

end Sys2Proof.Machine
end

section
/-! PROOF. Frames (O40): how a port takes, drops or discards what arrives. -/

namespace Sys2Proof.Machine

section
variable {s : State} {p : Nat} {f : Frame} {typ : Nat} (h : Frame → State → State)

theorem receive_outOfOrder (htakes : s.portTakes p = true) (htyp : f.typ = typ) (hfit : fitFrame f = f)
    (hseq : f.lseq ≠ (s.port p).rxNext % 65536) : receive p f typ h s = (s.discardFrame p).settle := by
  simp only [receive, hfit, htakes, htyp, bne_self_eq_false, bne_iff_ne.2 hseq, Bool.not_true, Bool.or_self, Bool.false_eq_true, if_false, if_true]

theorem receive_wrongChannel (htakes : s.portTakes p = true) (htyp : f.typ = typ) (hfit : fitFrame f = f)
    (hseq : f.lseq = (s.port p).rxNext % 65536) (hvc : f.vc ≠ vcOf typ) : receive p f typ h s = ((s.takeFrame p f).dropFrame p).settle := by
  simp only [receive, hfit, htakes, htyp, hseq, bne_self_eq_false, bne_iff_ne.2 hvc, Bool.not_true, Bool.or_self, Bool.false_eq_true, if_false,
    if_true]

theorem receive_elsewhere (htakes : s.portTakes p = true) (htyp : f.typ = typ) (hfit : fitFrame f = f)
    (hseq : f.lseq = (s.port p).rxNext % 65536) (hvc : f.vc = vcOf typ) (hdst : f.dstDev ≠ (s.takeFrame p f).dev) :
    receive p f typ h s = (((s.takeFrame p f).dropFrame p).reelEvent 0x09 (blkIndex .LK + p) noCx
      (leBytes 1 p ++ leBytes 2 f.srcDev ++ leBytes 2 f.dstDev)).settle := by
  simp only [receive, hfit, htakes, htyp, hseq, hvc, bne_self_eq_false, Bool.not_true, Bool.or_self, Bool.false_eq_true, if_false]
  exact if_pos (bne_iff_ne.2 hdst)

/-- A frame that arrives and is for this device is handled. -/
theorem receive_arrives (ha : Arrives s p f typ) (hdev : (s.takeFrame p f).dev = s.dev) :
    receive p f typ h s = (h f (s.takeFrame p f)).settle := by
  have hdst : (f.dstDev != (s.takeFrame p f).dev) = false := by rw [hdev, ha.here, bne_self_eq_false]
  simp only [receive, ha.fits, ha.takes, ha.type, ha.order, ha.channel, bne_self_eq_false, Bool.not_true, Bool.or_self, Bool.false_eq_true,
    if_false, hdst]

end

/-- Every frame command is a receipt of its type. -/
theorem frame_receives {ev : Fin 18 → Frame → Instr} {typ : Nat}
    (h : (ev, typ) ∈ [(Instr.putData, 1), (Instr.getReq, 2), (Instr.post, 3), (Instr.putAck, 4), (Instr.getData, 5), (Instr.refuse, 6),
       (Instr.collData, 7), (Instr.collReady, 8), (Instr.collAbort, 9), (Instr.clapper, 12), (Instr.cut, 13), (Instr.loss, 14)])
    (s : State) (p : Fin 18) (f : Frame) : ∃ act, exec (ev p f) s = .next (receive p f typ act s) := by
  simp only [List.mem_cons, Prod.mk.injEq, List.not_mem_nil, or_false] at h
  rcases h with h | h | h | h | h | h | h | h | h | h | h | h
  all_goals
    obtain ⟨rfl, rfl⟩ := h
    exact ⟨_, rfl⟩

-- What taking a frame does to its port.

theorem acked_credited_keeps (q : Port) (up : Bool) (seq now vc units : Nat) :
    ((if up then q.acked seq now else q).credited vc units).rxNext = q.rxNext ∧
      ((if up then q.acked seq now else q).credited vc units).nakSent = q.nakSent ∧
      ((if up then q.acked seq now else q).credited vc units).ackOwed = q.ackOwed ∧
      ((if up then q.acked seq now else q).credited vc units).freed = q.freed := by
  cases up with
  | false => exact ⟨rfl, rfl, rfl, rfl⟩
  | true =>
    simp only [if_true, Port.acked, Port.credited]
    split <;> exact ⟨rfl, rfl, rfl, rfl⟩

theorem port_congr {s t : State} (h : t.ports = s.ports) (n : Nat) : t.port n = s.port n := by rw [State.port, State.port, h]

theorem takeFrame_port {s : State} {p : Nat} {f : Frame} (hnak : f.nak = false) :
    ((s.takeFrame p f).port p).rxNext = (s.port p).rxNext + 1 ∧ ((s.takeFrame p f).port p).nakSent = false ∧
      ((s.takeFrame p f).port p).ackOwed = true ∧
      ((s.takeFrame p f).port p).freed = (s.port p).freed.modify f.vc (fun n => n + (1 + (f.len + 63) / 64)) := by
  have hport : (s.takeFrame p f).port p = ((if f.ackv then
      ({ s.port p with rxNext := (s.port p).rxNext + 1, nakSent := false, ackOwed := true,
                       freed := (s.port p).freed.modify f.vc (· + frameUnits f) } : Port).acked f.ackSeq s.clock
      else { s.port p with rxNext := (s.port p).rxNext + 1, nakSent := false, ackOwed := true,
                           freed := (s.port p).freed.modify f.vc (· + frameUnits f) }).credited f.crVc f.crUnits) := by
    rw [State.takeFrame, port_congr (reports_count ..).ports, State.linkFields, hnak]
    simp only [Bool.false_eq_true, if_false, State.updPort_port_same]
    rfl
  obtain ⟨hrx, hns, hack, hfreed⟩ := acked_credited_keeps
    { s.port p with rxNext := (s.port p).rxNext + 1, nakSent := false, ackOwed := true,
                    freed := (s.port p).freed.modify f.vc (· + frameUnits f) } f.ackv f.ackSeq s.clock f.crVc f.crUnits
  rw [hport]
  exact ⟨hrx, hns, hack, hfreed⟩

theorem discardFrame_naks {s : State} {p : Nat} (h : (s.port p).nakSent = false) :
    s.discardFrame p = (s.updPort p fun q => { q with nakSent := true }).sendLink p true := by
  rw [State.discardFrame, h]
  rfl

theorem discardFrame_silent {s : State} {p : Nat} (h : (s.port p).nakSent = true) : s.discardFrame p = s := if_pos h

theorem sendLink_nakSent (s : State) (p : Nat) (nak : Bool) : ((s.sendLink p nak).port p).nakSent = (s.port p).nakSent := by
  have hports : (s.sendLink p nak).ports = (s.updPort p fun q => { q with ackOwed := false, crNext := (q.crNext + 1) % 4 }).ports := rfl
  rw [port_congr hports, State.updPort_port_same]

/-- Settles O40: the order, the channel and the target of a frame decide in turn. -/
theorem framesAreTakenOrDiscarded : Obligations.FramesAreTakenOrDiscarded := by
  refine ⟨fun s p f ev typ hev htakes htyp hfit => ?_, fun s p f htakes hfit => ?_⟩
  · obtain ⟨act, hexec⟩ := frame_receives hev s p f
    rw [hexec]
    refine ⟨fun hseq hnak => ?_, fun hseq hnak => ?_, fun hseq hvc => ?_, fun hseq hvc hdst => ?_, fun hnak => takeFrame_port hnak⟩
    · rw [receive_outOfOrder _ htakes htyp hfit hseq, discardFrame_silent hnak]
    · rw [receive_outOfOrder _ htakes htyp hfit hseq, discardFrame_naks hnak]
    · rw [receive_wrongChannel _ htakes htyp hfit hseq hvc]
      rfl
    · rw [receive_elsewhere _ htakes htyp hfit hseq hvc hdst]
      rfl
  · have hexec : ∀ why, exec (.frameDiscarded p why f) s = .next (frameDiscard s p why f) := fun _ => rfl
    simp only [hexec, frameDiscard, hfit, htakes, Bool.not_true, Bool.false_eq_true, if_false]
    refine ⟨trivial, trivial, fun hseq => ?_, fun hseq htyp => ?_, fun hseq h0 h15 hvc => ?_, fun hnak => discardFrame_silent hnak, fun hnak => ?_⟩
    · rw [if_pos (bne_iff_ne.2 hseq)]
    · rw [htyp, hseq, bne_self_eq_false, bne_self_eq_false]
      rfl
    · have hty : (f.typ == 0) = false := by simpa using h0
      have hch : (f.vc == vcOf f.typ) = false := by simpa using hvc
      rw [hty, hch, decide_eq_false (by omega), hseq, bne_self_eq_false]
      rfl
    · rw [discardFrame_naks hnak]
      refine ⟨?_, _, rfl, rfl, rfl⟩
      rw [sendLink_nakSent, State.updPort_port_same]

end Sys2Proof.Machine
end

section
/-! PROOF. Messages (O41 to O44): what a target does with a frame, what a sender hears, and the frames of collectives, time and cuts. -/

namespace Sys2Proof.Machine

-- The target's side (R252 to R255, R316).

theorem targetCheck_open {s : State} {f : Frame} (hl : s.cxLive f.dstCx = true) (hen : s.flag R.CX_REMOTE_EN f.dstCx = true)
    (hjob : s.rd R.CX_REMOTE_JOB f.dstCx = f.job) : s.targetCheck f = none := by
  simp only [State.targetCheck, hl, hen, hjob, bne_self_eq_false, Bool.not_true, Bool.false_eq_true, if_false]

theorem targetCheck_refused {s : State} {f : Frame} {k : Nat}
    (h : (s.cxLive f.dstCx = false ∧ k = 1) ∨ (s.cxLive f.dstCx = true ∧ s.flag R.CX_REMOTE_EN f.dstCx = false ∧ k = 2) ∨
      (s.cxLive f.dstCx = true ∧ s.flag R.CX_REMOTE_EN f.dstCx = true ∧ s.rd R.CX_REMOTE_JOB f.dstCx ≠ f.job ∧ k = 3)) :
    s.targetCheck f = some k := by
  rcases h with ⟨hl, rfl⟩ | ⟨hl, hen, rfl⟩ | ⟨hl, hen, hjob, rfl⟩
  · simp only [State.targetCheck, hl, Bool.not_false, if_true]
  · simp only [State.targetCheck, hl, hen, Bool.not_true, Bool.not_false, Bool.false_eq_true, if_false, if_true]
  · simp only [State.targetCheck, hl, hen, bne_iff_ne.2 hjob, Bool.not_true, Bool.false_eq_true, if_false, if_true]

theorem takePut_writes {s u : State} {f : Frame} (hc : s.targetCheck f = none) (hp : s.inParity f.dstCx f.addr f.len = false)
    (hu : s.vwriteFrom f.dstCx f.addr f.payload .plain = (u, .ok ())) : takePut f s = u.ack f := by
  simp only [takePut, hc, hp, hu, Bool.false_eq_true, if_false]

theorem takePut_xors {s u : State} {f : Frame} {old : List Byte} (hc : s.targetCheck f = none)
    (hp : s.inParity f.dstCx f.addr f.len = true) (hold : s.vread f.dstCx f.addr f.len = .ok old)
    (hu : s.vwrite f.dstCx f.addr ((old.zip f.payload).map fun q => q.1 ^^^ q.2) = .ok u) :
    takePut f s = (u.gotParity f.dstCx f.addr f.len).ack f := by
  simp only [takePut, hc, hp, State.takeParity, hold, xorBytes, hu, if_true]

theorem takeGet_answers {s : State} {f : Frame} {bs : List Byte} (hc : s.targetCheck f = none)
    (hbs : s.vread f.dstCx f.addr (min 2048 (f.msgBytes - f.offset)) = .ok bs) : takeGet f s = s.respond f 5 f.addr bs := by
  simp only [takeGet, hc, getBytes, hbs]

theorem takePost_posts {s : State} {f : Frame} (hc : s.targetCheck f = none) (ho : s.semOwned f.dstCx f.rpostSem = false) :
    (s.sem f.dstCx f.rpostSem + 1 < 2 ^ 32 →
      takePost f s = ((s.setSem f.dstCx f.rpostSem (s.sem f.dstCx f.rpostSem + 1)).count 0x070 0xFF f.dstCx 1).ack f) ∧
    (2 ^ 32 ≤ s.sem f.dstCx f.rpostSem + 1 → takePost f s = s.refuseFrame f 5) := by
  refine ⟨fun h => ?_, fun h => ?_⟩
  · simp only [takePost, hc, ho, State.post, h, Bool.false_eq_true, if_false, if_true]
  · simp only [takePost, hc, ho, State.post, Nat.not_lt.2 h, Bool.false_eq_true, if_false]

theorem refuseFrame_live {s : State} {f : Frame} (hl : s.cxLive f.dstCx = true) (r : Nat) :
    s.refuseFrame f r = ((s.bump R.CX_REMOTE_REFUSED 1 f.dstCx).count 0x0B0 0xFF f.dstCx 1).respond f 6 r [] := by
  rw [State.refuseFrame, if_pos hl]

/-- Settles O41: the target's check decides between the service and the refusal. -/
theorem targetsServeFrames : Obligations.TargetsServeFrames := by
  intro s t p f c typ answer ha ht hdev hc hanswer
  have hgo : ∀ act, receive p f typ act s = (act f t).settle := fun act => ht ▸ receive_arrives act ha (ht ▸ hdev)
  have hans : ∀ u k a bs, answer u k a bs = u.respond f k a bs := fun u k a bs => by rw [hanswer, hc]; rfl
  subst hc
  simp only [hans]
  refine ⟨fun hl hen hjob => ?_, fun k hk u hu => ?_⟩
  · have hopen := targetCheck_open hl hen hjob
    refine ⟨fun hty hp u hu => congrArg Host.Outcome.next ?_, fun hty hp u old hold hu => congrArg Host.Outcome.next ?_,
      fun hty bs hbs => congrArg Host.Outcome.next ?_, fun hty ho => ⟨fun h => congrArg Host.Outcome.next ?_,
        fun h => congrArg Host.Outcome.next ?_⟩⟩
    all_goals subst hty
    · rw [hgo, takePut_writes hopen hp hu]
      rfl
    · rw [hgo, takePut_xors hopen hp hold hu]
      rfl
    · rw [hgo, takeGet_answers hopen hbs]
    · rw [hgo, (takePost_posts hopen ho).1 h]
      rfl
    · rw [hgo, (takePost_posts hopen ho).2 h, refuseFrame_live hl]
  · have hrefused := targetCheck_refused hk
    subst hu
    refine ⟨fun hty => congrArg Host.Outcome.next ?_, fun hty => congrArg Host.Outcome.next ?_, fun hty => congrArg Host.Outcome.next ?_⟩
    all_goals
      subst hty
      rw [hgo]
    · simp only [takePut, hrefused, State.refuseFrame]
    · simp only [takeGet, hrefused, State.refuseFrame]
    · simp only [takePost, hrefused, State.refuseFrame]

-- The sender's side (R253, R254, R256).

section
variable {s : State} {p : Nat} {f : Frame} {m : Msg} (hm : s.msg? f.msgId = some m)
include hm

/-- An answer that is not the last one counts. -/
theorem takeAck_counts {o : Nat} (ho : o = if m.posted then m.bytes else f.offset) (hget : m.isGet = false) (haw : m.awaits o = true)
    (hleft : m.left.erase o ≠ []) : takeAck p f s = (s.answered m o).1 := by
  have hne : (m.left.erase o).isEmpty = false := by simpa using hleft
  subst ho
  simp only [takeAck, hm, hget, haw, State.answered, hne, Bool.not_true, Bool.not_false, Bool.or_self, Bool.false_eq_true, if_false, if_true]

/-- The last answer of a message without a POST to send ends it. -/
theorem takeAck_ends {o : Nat} (ho : o = if m.posted then m.bytes else f.offset) (hget : m.isGet = false) (haw : m.awaits o = true)
    (hleft : m.left.erase o = []) (hno : m.rpost = none ∨ m.posted = true) :
    takeAck p f s = (s.answered m o).1.msgDone (s.answered m o).2 := by
  subst ho
  simp only [takeAck, hm, hget, haw, State.answered, hleft, Bool.not_true, Bool.or_self, Bool.false_eq_true, if_false, List.isEmpty_nil]
  rcases hno with h | h
  · rw [h]
    cases m.posted <;> rfl
  · rw [h]

/-- The last PUT_ACK of a PUT with RPOST sends its POST. -/
theorem takeAck_posts {o n : Nat} (ho : o = if m.posted then m.bytes else f.offset) (hget : m.isGet = false) (haw : m.awaits o = true)
    (hleft : m.left.erase o = []) (hposted : m.posted = false) (hn : m.rpost = some n) :
    takeAck p f s = (s.answered m o).1.sendPost (s.answered m o).2 n := by
  rw [hposted, if_neg (by decide)] at ho
  subst ho
  simp only [takeAck, hm, hget, haw, State.answered, hleft, hposted, hn, Bool.not_true, Bool.or_self, Bool.false_eq_true, if_false,
    List.isEmpty_nil]

theorem takeData_writes {u : State} (hget : m.isGet = true) (haw : m.awaits f.offset = true) (hlen : f.len = min 2048 (m.bytes - f.offset))
    (hu : s.vwriteFrom m.cx (m.dst + f.offset) f.payload .plain = (u, .ok ())) :
    takeData p f s = if m.left.erase f.offset = [] then (u.answered m f.offset).1.msgDone (u.answered m f.offset).2
      else (u.answered m f.offset).1 := by
  simp only [takeData, hm, hget, haw, hlen, hu, State.answered, bne_self_eq_false, Bool.not_true, Bool.or_self, Bool.false_eq_true, if_false,
    List.isEmpty_iff]

end

/-- Settles O42: the answer leaves the message's open offsets, and what is left decides. -/
theorem sendersHearAnswers : Obligations.SendersHearAnswers := by
  intro s t u p f m typ o hear ha ht hdev hm ho hhear
  have hgo : ∀ act, receive p f typ act s = (act f t).settle := fun act => ht ▸ receive_arrives act ha (ht ▸ hdev)
  have hhear' : ∀ q : State, hear q = (q.answered m o).1 := fun q => by rw [hhear]; rfl
  simp only [hhear']
  refine ⟨fun hty hget haw => ⟨fun hleft => congrArg Host.Outcome.next ?_, fun hleft hno => congrArg Host.Outcome.next ?_,
    fun hleft hposted n hn => congrArg Host.Outcome.next ?_⟩, fun hty hget hposted haw hlen hu => congrArg Host.Outcome.next ?_,
    fun hty => congrArg Host.Outcome.next ?_, fun hty hid haw => congrArg Host.Outcome.next ?_⟩
  all_goals subst hty
  · rw [hgo, takeAck_counts hm ho hget haw hleft]
  · rw [hgo, takeAck_ends hm ho hget haw hleft hno, State.answered, hleft]
  · rw [hgo, takeAck_posts hm ho hget haw hleft hposted hn, State.answered, hleft]
  · rw [hposted, if_neg (by decide)] at ho
    subst ho
    rw [hgo, takeData_writes hm hget haw hlen hu]
    split
    · next hleft => rw [State.answered, hleft]
    · rfl
  · rw [hgo]
    simp only [takeRefuse, hm, State.failMsg]
  · rw [hgo]
    simp only [takeLoss, bne_iff_ne.2 hid, hm, haw, State.failMsg, frameLost, if_true]

-- Collectives (R59, R258 to R263).

theorem takeColl_stale {s : State} {f : Frame} (hl : s.cxLive f.dstCx = true) (hk : s.coll? f.dstCx f.accord f.collSeq = none) :
    takeColl f s = s.bump R.CE_STAT_STALE := by
  simp only [takeColl, hl, hk, State.stale, Bool.not_true, Bool.false_eq_true, if_false]

section
variable {s : State} {f : Frame} {k : Coll} {q : Nat} (hl : s.cxLive f.dstCx = true) (hk : s.coll? f.dstCx f.accord f.collSeq = some k)
include hl hk

theorem takeColl_epoch (hq : k.acc.rankOf f.srcDev f.srcCx = some q) (he : f.epoch ≠ k.acc.epoch) : takeColl f s = s.failColl k collFailed := by
  simp only [takeColl, hl, hk, hq, bne_iff_ne.2 he, Bool.not_true, Bool.false_eq_true, if_false, if_true]

theorem takeColl_pim (hq : k.acc.rankOf f.srcDev f.srcCx = some q) (he : f.epoch = k.acc.epoch)
    (hp : f.pim ≠ s.flag R.CX_NUMERIC_PIM_ACTIVE f.dstCx) : takeColl f s = s.failColl k illegal := by
  simp only [takeColl, hl, hk, hq, he, bne_iff_ne.2 hp, bne_self_eq_false, Bool.not_true, Bool.false_eq_true, if_false, if_true]

theorem takeColl_agrees (hq : k.acc.rankOf f.srcDev f.srcCx = some q) (he : f.epoch = k.acc.epoch)
    (hp : f.pim = s.flag R.CX_NUMERIC_PIM_ACTIVE f.dstCx) (hok : k.dataOk q f = true) {k' : Coll}
    (hk' : k' = { k with lastRx := s.clock, dataFrom := dedup (k.dataFrom ++ [q]) }) :
    takeColl f s = if k.isVote then
        s.collStep { k' with votes := k.votes ++ [(q, f.payload)] } (.ok (s, { k' with votes := k.votes ++ [(q, f.payload)] }))
      else s.collStep k' (s.takeUnits k' q f) := by
  subst hk'
  simp only [takeColl, hl, hk, hq, he, ← hp, hok, bne_self_eq_false, Bool.not_true, Bool.false_eq_true, if_false]
  rfl

theorem takeAbort_fails (he : f.epoch = k.acc.epoch) (hd : k.differs = false) (hph : f.phase < 4) :
    takeAbort f s = s.failColl k collFailed := by
  have hno : (k.differs || decide (4 ≤ f.phase)) = false := by rw [hd, decide_eq_false (by omega)]; rfl
  simp only [takeAbort, hl, hk, he, hno, Bool.not_true, Bool.false_eq_true, if_false, if_true]

end

section
variable {s : State} {f : Frame} {a : Accord} {v : AreaView} {r : Nat} (hl : s.cxLive f.dstCx = true)
  (ha : s.readAccord f.dstCx f.accord = .ok a) (hv : s.areaView f.dstCx a = .ok v) (hr : a.rankOf f.srcDev f.srcCx = some r)
include hl ha hv hr

theorem takeReady_stale (h : f.epoch ≠ a.epoch ∨ f.collSeq + 1 < v.next) : takeReady f s = s.bump R.CE_STAT_STALE := by
  have hbad : (f.epoch != a.epoch || decide (f.collSeq + 1 < v.next)) = true := by
    rw [Bool.or_eq_true, bne_iff_ne, decide_eq_true_eq]
    exact h
  simp only [takeReady, hl, ha, hv, hr, hbad, State.stale, Bool.not_true, Bool.false_eq_true, if_false, if_true]

theorem takeReady_sets {u : State} (he : f.epoch = a.epoch) (hseq : v.next ≤ f.collSeq)
    (hp : f.pim = s.flag R.CX_NUMERIC_PIM_ACTIVE f.dstCx) (hnone : s.coll? f.dstCx a.index f.collSeq = none)
    (harea : s.areaOk f.dstCx a = true) (hu : s.setReady f.dstCx a f.collSeq r = .ok u) : takeReady f s = u := by
  have hgood : (f.epoch != a.epoch || decide (f.collSeq + 1 < v.next)) = false := by
    rw [he, bne_self_eq_false, decide_eq_false (by omega)]
    rfl
  have hlate : decide (f.collSeq < v.next) = false := decide_eq_false (by omega)
  simp only [takeReady, hl, ha, hv, hr, hgood, ← hp, hlate, harea, State.recordReady, hnone, hu, bne_self_eq_false, Bool.not_true,
    Bool.and_false, Bool.false_eq_true, if_false]

end

/-- Settles O43: a frame meets its collective, its rank, its epoch and its PIM in turn. -/
theorem collectiveFramesMeetTheirCollective : Obligations.CollectiveFramesMeetTheirCollective := by
  intro s t p f k c q typ ha ht hdev hc hl
  have hgo : ∀ act, receive p f typ act s = (act f t).settle := fun act => ht ▸ receive_arrives act ha (ht ▸ hdev)
  subst hc
  refine ⟨fun hty hk => congrArg Host.Outcome.next ?_, fun hk hq => ⟨fun hty he => congrArg Host.Outcome.next ?_,
    fun hty he hp => congrArg Host.Outcome.next ?_, fun hty he hp hok k' hk' => ⟨fun hv => congrArg Host.Outcome.next ?_,
      fun hv => congrArg Host.Outcome.next ?_⟩, fun hty he hd hph => congrArg Host.Outcome.next ?_⟩,
    fun hty a v r u hacc hv hr => ⟨fun h => congrArg Host.Outcome.next ?_, fun he hseq hp hnone harea hu => congrArg Host.Outcome.next ?_⟩⟩
  all_goals
    subst hty
    rw [hgo]
  · rw [takeColl_stale hl hk]
  · rw [takeColl_epoch hl hk hq he]
    rfl
  · rw [takeColl_pim hl hk hq he hp]
    rfl
  · rw [takeColl_agrees hl hk hq he hp hok hk', hv, if_pos rfl]
  · rw [takeColl_agrees hl hk hq he hp hok hk', hv, if_neg (by decide)]
  · rw [takeAbort_fails hl hk he hd hph]
    rfl
  · rw [takeReady_stale hl hacc hv hr h]
  · rw [takeReady_sets hl hacc hv hr he hseq hp hnone harea hu]

-- Time and cuts (R337, R346, R348).

/-- Settles O44: the first byte of a CLAPPER frame says which it is, and ACCEPT whether a CUT frame acts. -/
theorem timeAndCutFrames : Obligations.TimeAndCutFrames := by
  intro s t p f n ha ht hdev hn
  have hgo : ∀ act, receive p f f.typ act s = (act f t).settle := fun act => ht ▸ receive_arrives act ha (ht ▸ hdev)
  subst hn
  refine ⟨fun hty h0 => congrArg Host.Outcome.next ?_, fun hty h0 hbusy hsrc hlen hfew => congrArg Host.Outcome.next ?_,
    fun hty hacc => congrArg Host.Outcome.next ?_, fun hty hacc => congrArg Host.Outcome.next ?_⟩
  all_goals
    rw [hty] at hgo
    rw [hgo]
  · simp only [clapTake, h0, if_true]
  · have hmore : (t.updTsu fun q => { q with samples := q.samples ++ [(leNat ((f.payload.drop 1).take 1), q.began, leNat ((f.payload.drop 16).take 8),
        leNat ((f.payload.drop 24).take 8), t.clock)] }).tsu.samples.length < 64 := by
      show (t.tsu.samples ++ [_]).length < 64
      rw [List.length_append, ← hlen]
      exact Nat.succ_lt_succ hfew
    have h1 : ¬ (1 : Nat) = 0 := by decide
    simp only [clapTake, h0, h1, State.clapReply, hbusy, hsrc, hlen, bne_self_eq_false, Bool.not_true, Bool.or_self, Bool.false_eq_true,
      if_false, if_true]
    rw [if_pos (hlen ▸ hmore)]
  · simp only [cutTake, hacc, if_true]
  · simp only [cutTake, hacc, Bool.false_eq_true, if_false]

end Sys2Proof.Machine
end

section
/-! PROOF. The fabric in time (O45, O47): how ports come UP, and the limits of messages, collectives and waits. -/

namespace Sys2Proof.Machine

theorem rollAgain_sends {s : State} {p : Nat} (hl : s.portsLive = true) (hstate : s.portState p = 2) (ht : (s.port p).lastAck + 10000 ≤ s.clock) :
    rollAgain s p = s.sendRoll p := by
  have hno : decide (s.clock < 10000 + (s.port p).lastAck) = false := decide_eq_false (by omega)
  simp only [rollAgain, hl, hstate, hno, bne_self_eq_false, Bool.not_true, Bool.or_self, Bool.false_eq_true, if_false]

theorem portLock_rolls {s : State} {p : Nat} (hl : s.portsLive = true) (hstate : s.portState p = 1) :
    portLock s p = ((s.wr R.LK_STATUS_LANES_OK 0xFF p).setPort p 2).sendRoll p := by
  simp only [portLock, hl, hstate, bne_self_eq_false, Bool.not_true, Bool.or_self, Bool.false_eq_true, if_false]

theorem trainTimeout_down {s : State} {p : Nat} (hl : s.portsLive = true) (hstate : s.portState p = 1)
    (ht : (s.port p).since + 50000000 ≤ s.clock) : trainTimeout s p = (s.portDown p false).rollEnd.settle := by
  have hno : decide (s.clock < 50000000 + (s.port p).since) = false := decide_eq_false (by omega)
  simp only [trainTimeout, hl, hstate, hno, bne_self_eq_false, Bool.not_true, Bool.or_self, Bool.false_eq_true, if_false]

/-- The seat of the first reply is kept. -/
theorem seat_kept {t : State} {d : Nat} (h : t.boot.seat = none ∨ t.boot.seat = some d) :
    (if t.boot.seat.isNone then { t with boot := { t.boot with seat := some d } } else t) = { t with boot := { t.boot with seat := some d } } := by
  rcases h with h | h
  · rw [h]
    rfl
  · rw [if_neg (by rw [h]; exact Bool.false_ne_true), ← h]

theorem rollReply_up {s t u : State} {p : Nat} {f : Frame} {r : Seat} (hl : s.portsLive = true) (hstate : s.portState p = 2)
    (htyp : f.typ = 11) (hfit : fitFrame f = f) (hseq : f.lseq = (s.port p).rxNext % 65536) (hplane : r.plane = p) (ht : t = s.takeFrame p f)
    (hseat : t.boot.seat = none ∨ t.boot.seat = some (seatDev r)) (hu : u = { t with boot := { t.boot with seat := some (seatDev r) } }) :
    rollReply s p f r = (((((u.wr R.LK_STATUS_PLANE r.plane p).wr R.LK_STATUS_PEER_PORT r.port p).writeSeat (seatDev r)).setPort p 3).updPort p
      fun q => { q with credits := [r.credit0, r.credit1, r.credit2, r.credit3] }).reseat.rollEnd.settle := by
  have hkept : (if t.boot.seat.isNone then { t with boot := { t.boot with seat := some (seatDev r) } } else t) = u := hu ▸ seat_kept hseat
  have hgood : (r.plane == p && ((u.wr R.LK_STATUS_PLANE r.plane p).wr R.LK_STATUS_PEER_PORT r.port p).boot.seat == some (seatDev r)) = true := by
    rw [hu, hplane]
    show (p == p && (some (seatDev r) == some (seatDev r))) = true
    rw [BEq.rfl, BEq.rfl]
    rfl
  simp only [rollReply, hfit, hl, hstate, htyp, hseq, ← ht, hkept, hgood, bne_self_eq_false, Bool.not_true, Bool.or_self, Bool.false_eq_true,
    if_false, if_true]

theorem seatTimeout_ends {s : State} (hl : s.portsLive = true)
    (h : ∀ q < 18, s.portState q ≠ 3 ∧ s.portState q ≠ 1 ∧ (s.port q).since + 100000000 ≤ s.clock) : seatTimeout s = s.reseat.rollEnd := by
  have hup : ((List.range 18).any fun p => s.portState p == 3 || s.portState p == 1) = false := by
    rw [List.any_eq_false]
    intro q hq
    obtain ⟨h3, h1, -⟩ := h q (List.mem_range.1 hq)
    simp [h3, h1]
  have hsince : ((List.range 18).any fun p => decide (s.clock < 100000000 + (s.port p).since)) = false := by
    rw [List.any_eq_false]
    intro q hq
    obtain ⟨-, -, hs⟩ := h q (List.mem_range.1 hq)
    simpa using by omega
  simp only [seatTimeout, hl, hup, hsince, Bool.not_true, Bool.or_self, Bool.false_eq_true, if_false]

/-- Settles O45: each event of a port meets its state and its time. -/
theorem portsTrainAndRoll : Obligations.PortsTrainAndRoll := by
  intro s p f r t u v roll hl hroll
  have hr : ∀ q : State, roll q = q.sendRoll p := fun q => by rw [hroll]; rfl
  simp only [hr]
  refine ⟨fun h => congrArg Host.Outcome.next ?_, fun h ht => congrArg Host.Outcome.next ?_, fun h ht => congrArg Host.Outcome.next ?_,
    fun h htyp hfit hseq hplane ht hseat hu => congrArg Host.Outcome.next ?_, fun htakes h hv hen => congrArg Host.Outcome.next ?_,
    fun h => congrArg Host.Outcome.next ?_⟩
  · rw [portLock_rolls hl h]
    rfl
  · rw [trainTimeout_down hl h ht]
  · rw [rollAgain_sends hl h ht]
  · rw [rollReply_up hl h htyp hfit hseq hplane ht hseat hu, hplane]
    rfl
  · have hone : (hw8 v.toNat).one R.LK_CTL_RETRY = true := (hw8_one (by decide) rfl v).trans hv
    have hput : s.put (hw8 v.toNat) R.LK_CTL_EN p = s.wr R.LK_CTL_EN (bitsAt v.toNat R.LK_CTL_EN.lo 1) p := by
      rw [State.put, hw8_get (by decide)]
      rfl
    have hwrite : lkCtlWrite s p (hw8 v.toNat) = (s.wr R.LK_CTL_EN (bitsAt v.toNat R.LK_CTL_EN.lo 1) p).train p := by
      simp only [lkCtlWrite, hone, hput, hen, BEq.rfl, Bool.and_self, if_true]
    rw [hostGate_taken (o := R.LK_CTL_EN.off) htakes, if_pos hone, hwrite]
  · exact seatTimeout_ends hl h

-- The limits of messages, collectives and waits (R150, R256, R259, R263).

theorem msgTimeout_fails {s : State} {id : Nat} {m : Msg} (hl : s.live = true) (hm : s.msgs.find? (fun m => m.id == id) = some m)
    (hsent : m.unsent.length < m.left.length) (ht : m.last + s.e2eNs ≤ s.clock) :
    msgTimeout s id = (s.faultCx m.cx { code := 7 } (s.cmdPlace m.cmd)).settle := by
  simp only [msgTimeout, hm, hl, hsent, ht, decide_true, Bool.and_self, if_true, State.failMsg]

theorem readyAgain_sends {s : State} {id : Nat} {k : Coll} (hl : s.live = true) (hk : s.colls.find? (fun k => k.id == id) = some k)
    (he : k.entered = true) (ht : k.readyAt + 1000000 ≤ s.clock) :
    readyAgain s id = ((s.sendReady k).1.setColl (s.sendReady k).2).settle := by
  have hno : decide (s.clock < 1000000 + k.readyAt) = false := decide_eq_false (by omega)
  simp only [readyAgain, hk, hl, he, hno, Bool.not_true, Bool.or_self, Bool.false_eq_true, if_false]

theorem collLate_fails {s : State} {id : Nat} {k : Coll} (hl : s.live = true) (hk : s.colls.find? (fun k => k.id == id) = some k)
    (he : k.entered = true) (hready : k.allReady = true)
    (ht : k.lastRx + (if s.rd R.CE_CFG_COLL_MS = 0 then 100 else s.rd R.CE_CFG_COLL_MS) * 1000000 ≤ s.clock) :
    collLate s id = (s.faultCx k.cx { code := 8 } (s.cmdPlace k.cmd)).settle := by
  simp only [collLate, hk, hl, he, hready, decide_eq_true ht, Bool.and_self, if_true]
  rfl

theorem readyLate_fails {s : State} {id : Nat} {k : Coll} (hl : s.live = true) (hk : s.colls.find? (fun k => k.id == id) = some k)
    (he : k.entered = true) (hready : k.allReady = false) (hn : s.rd R.CE_CFG_READY_S ≠ 0)
    (ht : k.began + s.rd R.CE_CFG_READY_S * 1000000000 ≤ s.clock) :
    readyLate s id = (s.faultCx k.cx { code := 8 } (s.cmdPlace k.cmd)).settle := by
  simp only [readyLate, hk, hl, he, hready, bne_iff_ne.2 hn, decide_eq_true ht, Bool.not_false, Bool.and_self, if_true]
  rfl

theorem pollVersion_reads {s : State} {n o tid p since v : Nat} (hw : (s.sp n).wait = some (.version o tid p since))
    (hc : s.cxState (s.rd R.SP_RING_CTL_CX n) = 3) (ho : s.cxLive o = true) (hv : s.vreadNat o (s.versionAddr o tid) 4 = .ok v) :
    s.pollVersion n = if p ≤ v then s.endWait n else s := by
  simp only [State.pollVersion, hw, hc, ho, hv, bne_self_eq_false, Bool.not_true, Bool.or_self, Bool.false_eq_true, if_false]

/-- Settles O47: each limit is a comparison with the clock, and a poll one with PRINT. -/
theorem fabricLimits : Obligations.FabricLimits := by
  intro s id m k sp hl
  refine ⟨fun hm hsent ht => congrArg Host.Outcome.next ?_, fun hk he => ⟨fun ht => congrArg Host.Outcome.next ?_,
    fun hready ht => congrArg Host.Outcome.next ?_, fun hready hn ht => congrArg Host.Outcome.next ?_⟩, fun o tid n since v hw hc ho hv => ?_⟩
  · exact msgTimeout_fails hl hm hsent ht
  · rw [readyAgain_sends hl hk he ht]
    rfl
  · exact collLate_fails hl hk he (by simpa [Coll.allReady] using hready) ht
  · exact readyLate_fails hl hk he (by simpa [Coll.allReady] using hready) hn ht
  · have hpoll := pollVersion_reads hw hc ho hv
    refine ⟨fun h => congrArg Host.Outcome.next ?_, fun h => congrArg Host.Outcome.next ?_⟩
    · rw [if_pos hl, hpoll, if_pos h]
    · rw [if_pos hl, hpoll, if_neg (Nat.not_le.2 h)]

end Sys2Proof.Machine
end

section
/-! PROOF. The memory tiers (O48): retrainings, scrubs and migrations of channels. -/

namespace Sys2Proof.Machine

-- Rows of failures.

theorem missCount_append_none {l m : List (Nat × Nat)} {q : Nat} (h : (l.find? fun p => p.1 == q) = none) :
    missCount (l ++ m) q = missCount m q := by
  rw [missCount, missCount, List.find?_append, h]
  rfl

theorem missCount_filter_same (l : List (Nat × Nat)) (ch : Nat) : ((l.filter fun p => p.1 != ch).find? fun p => p.1 == ch) = none := by
  rw [List.find?_eq_none]
  intro p hp
  simpa using (List.mem_filter.1 hp).2

/-- A success ends a channel's row of failures, and a failure adds one to it. -/
theorem missCount_missAfter (l : List (Nat × Nat)) (ch : Nat) (ok : Bool) :
    missCount (missAfter l ch ok) ch = if ok then 0 else missCount l ch + 1 := by
  cases ok with
  | true =>
    show missCount (l.filter fun p => p.1 != ch) ch = 0
    rw [missCount, missCount_filter_same]
    rfl
  | false =>
    show missCount ((l.filter fun p => p.1 != ch) ++ [(ch, missCount l ch + 1)]) ch = missCount l ch + 1
    rw [missCount_append_none (missCount_filter_same l ch)]
    simp [missCount]

theorem find?_filter_other (l : List (Nat × Nat)) {ch q : Nat} (h : q ≠ ch) :
    ((l.filter fun p => p.1 != ch).find? fun p => p.1 == q) = l.find? fun p => p.1 == q := by
  rw [List.find?_filter]
  congr 1
  funext p
  by_cases hp : p.1 = q
  · simp [hp, h]
  · simp [hp]

theorem missCount_missAfter_other (l : List (Nat × Nat)) {ch q : Nat} (ok : Bool) (h : q ≠ ch) :
    missCount (missAfter l ch ok) q = missCount l q := by
  have hkept : missCount (l.filter fun p => p.1 != ch) q = missCount l q := by rw [missCount, find?_filter_other l h, missCount]
  cases ok with
  | true => exact hkept
  | false =>
    show missCount ((l.filter fun p => p.1 != ch) ++ [(ch, missCount l ch + 1)]) q = missCount l q
    have hlast : ([(ch, missCount l ch + 1)] : List (Nat × Nat)).find? (fun p => p.1 == q) = none := by
      simpa using fun e : ch = q => h e.symm
    rw [← hkept, missCount, List.find?_append, hlast, Option.or_none, missCount]

-- Near channels (R222, R226, R228, R229).

theorem mayRetrain_free {s : State} {ph i : Nat} (hl : s.live = true) (hheld : s.nt.held = none) (hend : s.nt.holdEnd + 100000 ≤ s.clock)
    (htest : s.testing 5 ph = false) (hmig : ∀ m, s.nt.migration = some m → m.src ≠ ph) (ha : s.activeOf ph = some i)
    (hoff : i ∉ s.nt.offline) : s.mayRetrain ph = true := by
  have hno : (s.nt.migration.any fun m => m.src == ph) = false := by
    cases hm : s.nt.migration with
    | none => rfl
    | some m => simpa using hmig m hm
  have hlate : decide (100000 + s.nt.holdEnd ≤ s.clock) = true := decide_eq_true (by omega)
  simp [State.mayRetrain, hl, hheld, hlate, htest, hno, ha, hoff]

theorem mayRetrain_held {s : State} {ph : Nat} (hheld : s.nt.held ≠ none) : s.mayRetrain ph = false := by
  have hno : s.nt.held.isNone = false := by
    rw [Bool.eq_false_iff, ne_eq, Option.isNone_iff_eq_none]
    exact hheld
  simp only [State.mayRetrain, hno, Bool.and_false, Bool.false_and]

theorem retrainEnd_frees {s : State} {ph : Nat} {ok : Bool} (hl : s.live = true) (hheld : s.nt.held = some ph)
    (hfew : ok = true ∨ missCount s.nt.misses ph < 2) :
    retrainEndNow s ph ok =
      { s with nt := { s.nt with held := none, holdEnd := s.clock, misses := missAfter s.nt.misses ph ok } }.wr R.NT_RETRAIN_HOLDING 0 := by
  have hrow : ¬ 3 ≤ missCount (missAfter s.nt.misses ph ok) ph := by
    rw [missCount_missAfter]
    rcases hfew with rfl | h
    · rw [if_pos rfl]
      decide
    · split <;> omega
  simp only [retrainEndNow, hl, hheld, hrow, bne_self_eq_false, Bool.not_true, Bool.or_self, Bool.false_eq_true, if_false]
  rfl

/-- The one channel that waits migrates where its spare is free. -/
theorem nextMigration_starts {s : State} {ph : Nat} (hauto : s.flag R.NT_REPAIR_CFG_AUTO = true) (hmig : s.nt.migration = none)
    (hwait : s.nt.waiting = [ph]) (hspare : s.roleOf (spareOf ph) = 1) :
    s.nextMigration = ((s.updNt fun t => { t with waiting := [], migration := some { src := ph } }).wr R.NT_REPAIR_STAT_MIGRATING 1).wr
      R.NT_REPAIR_STAT_SRC ph := by
  have hfind : (sortBy id s.nt.waiting).find? (fun ph => s.roleOf (spareOf ph) == 1) = some ph := by
    rw [hwait]
    show ([ph] : List Nat).find? _ = some ph
    simp [hspare]
  have hfilter : s.nt.waiting.filter (· != ph) = [] := by simp [hwait]
  simp only [State.nextMigration, hauto, hmig, hfind, Option.isSome_none, Bool.not_true, Bool.or_self, Bool.false_eq_true, if_false,
    State.updNt, hfilter]
  rfl

theorem nearFailing_migrates {s : State} {ph i : Nat} (hrole : s.roleOf ph = 0) (ha : s.activeOf ph = some i)
    (hspare : (s.setRole ph 2).roleOf (spareOf ph) = 1) (hmig : s.nt.migration = none) (hwait : s.nt.waiting = [])
    (hauto : (s.setRole ph 2).flag R.NT_REPAIR_CFG_AUTO = true) :
    s.nearFailing ph = ({ s.setRole ph 2 with nt := { s.nt with migration := some { src := ph } } }.wr R.NT_REPAIR_STAT_MIGRATING 1).wr
      R.NT_REPAIR_STAT_SRC ph := by
  have hnt : (s.setRole ph 2).nt = s.nt := rfl
  have hbusy : ((s.setRole ph 2).nt.migration.any fun m => m.src / 17 == ph / 17) = false := by rw [hnt, hmig]; rfl
  simp only [State.nearFailing, hrole, ha, hspare, hbusy, bne_self_eq_false, Option.isNone_some, Bool.or_self, Bool.false_eq_true, if_false,
    and_self, if_true]
  rw [nextMigration_starts (s := (s.setRole ph 2).updNt fun t => { t with waiting := t.waiting ++ [ph] }) hauto hmig
    (by show s.nt.waiting ++ [ph] = [ph]; rw [hwait]; rfl) hspare]
  have hsame : { s.nt with waiting := [], migration := some { src := ph } } = { s.nt with migration := some { src := ph } } := by
    rw [← hwait]
  show (({ s.setRole ph 2 with nt := { s.nt with waiting := [], migration := some { src := ph } } } : State).wr _ 1).wr _ ph = _
  rw [hsame]

theorem spareTrained_decides {s : State} {m : Migration} (hl : s.live = true) (hm : s.nt.migration = some m) (hc : m.copying = false)
    (ok : Bool) : spareTrainedNow s ok =
      if ok then (s.updNt fun t => { t with migration := some { m with copying := true, since := s.clock } }).wr R.NT_REPAIR_STAT_PROGRESS 0
      else s.abandonMigration m.src := by
  simp only [spareTrainedNow, hm, hc, hl, Bool.not_true, Bool.or_self, Bool.false_eq_true, if_false]

theorem migrationEnd_replaces {s : State} {m : Migration} {i : Nat} (hl : s.live = true) (hm : s.nt.migration = some m)
    (hc : m.copying = true) (hbytes : channelBytes ≤ (s.clock - m.since) * s.copyRate) (hi : s.activeOf m.src = some i) :
    migrationEndNow s =
      (((((((((s.updNt fun t => { t with migration := none, phys := (i, 16) :: t.phys.filter fun p => p.1 != i }).setRole m.src 3).setRole
        (spareOf m.src) 0).setFlag R.NT_REPAIR_STAT_MIGRATING false).wr R.NT_REPAIR_STAT_PROGRESS 255).bump
          R.NT_REPAIR_STAT_SPARES_USED).migrationRecord m.src true).repairRecord (m.src / 17)).nextMigration) := by
  have hno : decide ((s.clock - m.since) * s.copyRate < channelBytes) = false := decide_eq_false (Nat.not_lt.2 hbytes)
  simp only [migrationEndNow, hm, hc, hl, hno, hi, Bool.not_true, Bool.or_self, Bool.false_eq_true, if_false]

-- Scrubs and slow channels.

theorem scrub_marks {s : State} {a : Nat} (hl : s.live = true) (h64 : a % 64 = 0) (hin : s.inNear a 64 = true) (hno : s.onSpare a = false) :
    scrubNow s a .uncorrectable = { s with bad := if a ∈ s.bad then s.bad else s.bad ++ [a] }.uncorrEvent a none false := by
  have hbad : (if s.bad.contains a then s.bad else s.bad ++ [a]) = if a ∈ s.bad then s.bad else s.bad ++ [a] := by
    simp only [List.contains_iff_mem]
  simp only [scrubNow, hl, h64, hin, hno, hbad, bne_self_eq_false, Bool.not_true, Bool.true_or, Bool.or_self, Bool.false_eq_true, if_false]

theorem scrub_clean {s : State} {a : Nat} {r : ScrubResult} (h : r ≠ .uncorrectable) : scrubNow s a r = s := by
  unfold scrubNow
  split
  · rfl
  · cases r with
    | uncorrectable => exact absurd rfl h
    | clean => rfl
    | corrected => rfl

theorem slowRetrainEnd_counts {s : State} {ch : Nat} {ok : Bool} (hl : s.live = true) (hheld : s.nt.slowHeld = some ch) {l : List (Nat × Nat)}
    (hmiss : l = missAfter s.nt.slowMisses ch ok) : slowRetrainEndNow s ch ok =
      if 3 ≤ missCount l ch then ((s.updNt fun t => { t with slowHeld := none, slowMisses := l }).slowFailing ch .retrain).updNt
        fun t => { t with slowOff := t.slowOff ++ [ch] }
      else s.updNt fun t => { t with slowHeld := none, slowMisses := l } := by
  subst hmiss
  simp only [slowRetrainEndNow, hl, hheld, bne_self_eq_false, Bool.not_true, Bool.or_self, Bool.false_eq_true, if_false]

/-- Settles O48: each event of a channel meets its guards, and rows of failures are counted channel by channel. -/
theorem channelsRetrainAndMigrate : Obligations.ChannelsRetrainAndMigrate := by
  refine ⟨fun s ph ch ok i hl => ⟨fun hheld hend htest hmig ha hoff => congrArg Host.Outcome.next ?_, fun hheld => congrArg Host.Outcome.next ?_,
      fun hheld hfew => ?_, fun hheld hch hoff => congrArg Host.Outcome.next ?_, fun hheld => ?_⟩,
    fun s ph ch why a i r m hl => ⟨fun h64 hin hno => congrArg Host.Outcome.next (scrub_marks hl h64 hin hno),
      fun hr => congrArg Host.Outcome.next (scrub_clean hr),
      fun hch hph hrole ha hspare hmig hwait hauto => congrArg Host.Outcome.next ?_, fun hch hpop => congrArg Host.Outcome.next ?_,
      fun hm hc => ⟨congrArg Host.Outcome.next ?_, congrArg Host.Outcome.next ?_⟩,
      fun hm hc hbytes hi => congrArg Host.Outcome.next ?_⟩⟩
  · rw [mayRetrain_free hl hheld hend htest hmig ha hoff]
    rfl
  · rw [mayRetrain_held hheld]
    rfl
  · exact ⟨_, congrArg Host.Outcome.next (retrainEnd_frees hl hheld hfew), missCount_missAfter .., fun q hq => missCount_missAfter_other _ ok hq⟩
  · have hlt : decide (ch.val < s.slowChannels) = true := decide_eq_true hch
    have hin : s.nt.slowOff.contains ch.val = false := by simpa using hoff
    rw [hl, hheld, hlt, hin]
    rfl
  · refine ⟨_, missCount_missAfter .., fun h => congrArg Host.Outcome.next ?_, fun h => congrArg Host.Outcome.next ?_⟩
    · rw [slowRetrainEnd_counts hl hheld rfl, if_neg (Nat.not_le.2 h)]
      rfl
    · rw [slowRetrainEnd_counts hl hheld rfl, if_pos h]
      rfl
  · subst hch
    simp only [channelFailingNow, hl, hph, Bool.not_true, Bool.false_eq_true, if_false, if_true]
    exact nearFailing_migrates hrole ha hspare hmig hwait hauto
  · have hslow : ch.val - 204 < s.slowChannels := by
      show ch.val - 204 < 4 * s.rd R.MGT_POPULATION_SLOW_PKGS
      omega
    simp only [channelFailingNow, hl, Nat.not_lt.2 hch, hslow, Bool.not_true, Bool.false_eq_true, if_false, if_true]
    cases why <;> rfl
  · rw [spareTrained_decides hl hm hc, if_pos rfl]
    rfl
  · rw [spareTrained_decides hl hm hc, if_neg (by decide)]
  · rw [migrationEnd_replaces hl hm hc hbytes hi]
    rfl

end Sys2Proof.Machine
end

section
/-! PROOF. The power controller (O50): ramps, gates, the ends of cues, and OPMAX. -/

namespace Sys2Proof.Machine

/-- A ramping stage goes to the next one. -/
theorem rampStage_after {r st : RampStage} (h : (r, st) ∈ [(RampStage.edges4, RampStage.edges8), (.edges8, .edges12), (.edges12, .full)]) :
    r.ramping = true ∧ r.after = st := by
  simp only [List.mem_cons, Prod.mk.injEq, List.not_mem_nil, or_false] at h
  rcases h with ⟨rfl, rfl⟩ | ⟨rfl, rfl⟩ | ⟨rfl, rfl⟩ <;> exact ⟨rfl, rfl⟩

theorem foldl_keeps {β α : Type} {f : State → α → State} {g : State → β} (hf : ∀ s a, g (f s a) = g s) (s : State) (l : List α) :
    g (l.foldl f s) = g s := by
  induction l generalizing s with
  | nil => rfl
  | cons a l ih => rw [List.foldl_cons, ih, hf]

/-- The end of a cue's lead changes the cues and the ramps alone. -/
theorem cueLeadEnd_keeps (s : State) :
    (cueLeadEndNow s).pwr = { s.pwr with cues := s.pwr.cues.filter fun q => decide (s.clock < q.until_) } ∧
      (cueLeadEndNow s).regs = s.regs ∧ (cueLeadEndNow s).mem = s.mem ∧ (cueLeadEndNow s).cmds = s.cmds := by
  refine ⟨?_, ?_, ?_, ?_⟩
  all_goals
    unfold cueLeadEndNow
    refine (foldl_keeps (fun s a => ?_) _ _).trans rfl
    split <;> rfl

/-- A write to PWR.CFG takes OPMAX and CUE_EN. -/
theorem pwrCfgWrite_eq (s : State) (v : Nat) :
    pwrCfgWrite s (hw8 v) = ((s.setOpmax (bitsAt v R.PWR_CFG_OPMAX.lo R.PWR_CFG_OPMAX.wid)).wr R.PWR_CFG_CUE_EN
      (bitsAt v R.PWR_CFG_CUE_EN.lo R.PWR_CFG_CUE_EN.wid)).act objPower := by
  rw [pwrCfgWrite, hw8_get (by decide)]
  simp only [State.put, hw8_get (show R.PWR_CFG_CUE_EN.lo + R.PWR_CFG_CUE_EN.wid ≤ 64 by decide)]

theorem pwrCfgWrite_spec {s : State} (hs : s.regsWf = true) (v : Word) :
    (pwrCfgWrite s (hw8 v.toNat)).rd R.PWR_CFG_OPMAX = bitsAt v.toNat R.PWR_CFG_OPMAX.lo R.PWR_CFG_OPMAX.wid ∧
      (pwrCfgWrite s (hw8 v.toNat)).flag R.PWR_CFG_CUE_EN = v.getLsbD R.PWR_CFG_CUE_EN.lo ∧
      (pwrCfgWrite s (hw8 v.toNat)).pwr.pos ≤ 18 - bitsAt v.toNat R.PWR_CFG_OPMAX.lo R.PWR_CFG_OPMAX.wid := by
  obtain ⟨n, hn⟩ : ∃ n, n = bitsAt v.toNat R.PWR_CFG_OPMAX.lo R.PWR_CFG_OPMAX.wid := ⟨_, rfl⟩
  have hn4 : n < 4 := hn ▸ bitsAt_lt _ _ 2
  rw [pwrCfgWrite_eq, ← hn]
  have hwf : (s.setOpmax n).regsWf = true := wr_regsWf hs R.PWR_CFG_OPMAX n 0 0
  refine ⟨?_, ?_, ?_⟩
  · refine (wr_rd_apart (s := s.setOpmax n) hwf (f := R.PWR_CFG_CUE_EN) (g := R.PWR_CFG_OPMAX) (by decide) _ 0 0 0 0 (by decide)).trans ?_
    exact (wr_rd_same hs (f := R.PWR_CFG_OPMAX) (by decide) n 0 0).trans (Nat.mod_eq_of_lt hn4)
  · have hrd := wr_rd_same (s := s.setOpmax n) hwf (f := R.PWR_CFG_CUE_EN) (by decide)
      (bitsAt v.toNat R.PWR_CFG_CUE_EN.lo R.PWR_CFG_CUE_EN.wid) 0 0
    rw [Nat.mod_eq_of_lt (bitsAt_lt ..)] at hrd
    exact (congrArg (· == 1) hrd).trans (bitsAt_eq_one v _)
  · show min (moveTop s.opmaxOf (n % 4) s.pwr.pos) (floorPos (n % 4)) ≤ 18 - n
    rw [Nat.mod_eq_of_lt hn4]
    exact Nat.min_le_right ..

/-- Settles O50: each event meets its stage and its time, and a write to PWR.CFG bounds the position by the new floor. -/
theorem rampsAndCuesGate : Obligations.RampsAndCuesGate := by
  intro s a v mw r st
  refine ⟨⟨_, rfl⟩, fun p hp => ?_, fun hl hr hst ht => congrArg Host.Outcome.next ?_, fun hl hfull hidle hcued ht => congrArg Host.Outcome.next ?_,
    fun hl hq => congrArg Host.Outcome.next ?_, ⟨_, rfl, cueLeadEnd_keeps s⟩, fun hs htakes => ?_⟩
  · subst hp
    rfl
  · obtain ⟨hramp, hafter⟩ := rampStage_after hst
    simp only [hl, hr, hramp, hafter, decide_eq_true ht, Bool.and_self, if_true]
  · have ht' : decide (5000 + (s.arr a).ramp.since ≤ s.clock) = true := decide_eq_true (by omega)
    simp only [hl, hfull, hidle, hcued, ht', BEq.rfl, Bool.not_false, Bool.and_self, if_true]
  · simp only [hl, hq, BEq.rfl, Bool.and_self, if_true]
  · obtain ⟨hopmax, hcue, hpos⟩ := pwrCfgWrite_spec hs v
    refine ⟨pwrCfgWrite s (hw8 v.toNat), congrArg Host.Outcome.next (hostGate_taken htakes _), hopmax, hcue, by rw [hopmax]; exact hpos, ?_⟩
    rw [pwrCfgWrite_eq]
    exact ⟨rfl, rfl, rfl⟩

end Sys2Proof.Machine
end

section
/-! PROOF. Observation (O51): counters, the clapper, and the recorder of rushes. -/

namespace Sys2Proof.Machine

theorem rd_of_word {s t : State} {f : Fld} {n i : Nat} (h : t.word (f.addr n i) = s.word (f.addr n i)) : t.rd f n i = s.rd f n i := by
  rw [State.rd, State.rd, h]

-- SNAP (R335).

/-- The open counters take values of their own, one after another. -/
def State.countUp (s : State) (is : List Nat) : State :=
  is.foldl (fun s i =>
    let (v, s) := s.takeFree
    s.wr R.PMC_CNT_VALUE v 0 i) s

theorem countUp_keeps (s : State) (is : List Nat) : (s.countUp is).mem = s.mem ∧ (s.countUp is).cmds = s.cmds ∧ (s.countUp is).dbg = s.dbg := by
  induction is generalizing s with
  | nil => exact ⟨rfl, rfl, rfl⟩
  | cons i is ih => exact ih _

theorem countUp_word {s : State} (hs : s.regsWf = true) {is : List Nat} {a : Nat} (ha : ∀ i ∈ is, a ≠ R.PMC_CNT_VALUE.addr 0 i) :
    (s.countUp is).word a = s.word a := by
  induction is generalizing s with
  | nil => rfl
  | cons i is ih =>
    obtain ⟨hi, his⟩ := List.forall_mem_cons.1 ha
    have hfree : (s.takeFree.2).regsWf = true := hs
    exact (ih (wr_regsWf hfree ..) his).trans (setWord_word_ne hfree _ hi)

/-- The fields that a write to PMC.CTL takes. -/
def pmcCtl : List Fld := [R.PMC_CTL_READ_SNAP, R.PMC_CTL_VECTOR]

theorem pmcCtl_ok : pmcCtl.all Fld.ok = true := by decide

theorem pmcCtl_pairwise : pmcCtl.Pairwise fun f g => g.away f = true := by decide

theorem pmcCtl_addr : ∀ f ∈ pmcCtl, f.addr 0 = 0x200000 := by decide

theorem snap_addr (i : Nat) : R.PMC_CNT_VALUE.addr 0 i = 0x202000 + 8 * i := by
  simp only [Fld.addr, R.PMC_CNT_VALUE, blkBase, blkStride, Nat.mul_zero, Nat.add_zero]

theorem sel_addr (i : Nat) : R.PMC_SEL_EN.addr 0 i ≠ 0x200000 ∧ R.PMC_SEL_SOURCE.addr 0 i ≠ 0x200000 := by
  constructor <;>
  · simp only [Fld.addr, R.PMC_SEL_EN, R.PMC_SEL_SOURCE, blkBase, blkStride]
    omega

theorem pmcCtlWrite_snaps {s u : State} {v : Word} (hv : v.getLsbD R.PMC_CTL_SNAP.lo = true)
    (hu : u = (s.puts (hw8 v.toNat) pmcCtl).countUp ((List.range 128).filter fun i => (s.puts (hw8 v.toNat) pmcCtl).counterOpen i)) :
    pmcCtlWrite s (hw8 v.toNat) = u.updDbg fun d => { d with snap := u.counters } := by
  have hone : (hw8 v.toNat).one R.PMC_CTL_SNAP = true := (hw8_one (by decide) rfl v).trans hv
  subst hu
  exact if_pos hone

theorem pmcCtl_counterOpen {s : State} (hs : s.regsWf = true) (v : Nat) (i : Nat) :
    (s.puts (hw8 v) pmcCtl).counterOpen i = s.counterOpen i := by
  obtain ⟨hen, hsrc⟩ := sel_addr i
  have hword : ∀ {a : Nat}, a ≠ 0x200000 → (s.puts (hw8 v) pmcCtl).word a = s.word a := fun ha =>
    puts_word_ne hs pmcCtl_ok (fun f hf => by rw [pmcCtl_addr f hf]; exact ha) v
  unfold State.counterOpen State.flag
  rw [rd_of_word (hword hen), rd_of_word (hword hsrc)]

theorem snap_copies {s : State} (hs : s.regsWf = true) {v : Word} (hv : v.getLsbD R.PMC_CTL_SNAP.lo = true) :
    ∃ t : State, pmcCtlWrite s (hw8 v.toNat) = t ∧ t.dbg.snap = t.counters ∧
      t.rd R.PMC_CTL_READ_SNAP = bitsAt v.toNat R.PMC_CTL_READ_SNAP.lo R.PMC_CTL_READ_SNAP.wid ∧
      t.rd R.PMC_CTL_VECTOR = bitsAt v.toNat R.PMC_CTL_VECTOR.lo R.PMC_CTL_VECTOR.wid ∧ t.mem = s.mem ∧ t.cmds = s.cmds ∧
      (∀ i < 128, s.counterOpen i = false → t.rd R.PMC_CNT_VALUE 0 i = s.rd R.PMC_CNT_VALUE 0 i) := by
  obtain ⟨w, hw⟩ : ∃ w, w = s.puts (hw8 v.toNat) pmcCtl := ⟨_, rfl⟩
  have hwwf : w.regsWf = true := hw ▸ puts_regsWf hs pmcCtl_ok v.toNat 0
  have hweq : w = { s with regs := w.regs } := hw ▸ puts_eq_regs s pmcCtl_ok v.toNat 0
  have hopen : ∀ i, w.counterOpen i = s.counterOpen i := fun i => hw ▸ pmcCtl_counterOpen hs v.toNat i
  obtain ⟨u, hu⟩ : ∃ u, u = w.countUp ((List.range 128).filter fun i => w.counterOpen i) := ⟨_, rfl⟩
  obtain ⟨hmem, hcmds, -⟩ := countUp_keeps w ((List.range 128).filter fun i => w.counterOpen i)
  have hrd : ∀ {f : Fld}, f ∈ pmcCtl → u.rd f = bitsAt v.toNat f.lo f.wid := fun {f} hf => by
    have hword : u.word (f.addr 0) = w.word (f.addr 0) := by
      rw [hu]
      refine countUp_word hwwf fun i _ => ?_
      rw [pmcCtl_addr f hf, snap_addr]
      omega
    rw [rd_of_word hword, hw, puts_rd hs pmcCtl_ok pmcCtl_pairwise hf]
  refine ⟨u.updDbg fun d => { d with snap := u.counters }, pmcCtlWrite_snaps hv (hw ▸ hu), rfl, hrd (f := R.PMC_CTL_READ_SNAP) (by decide),
    hrd (f := R.PMC_CTL_VECTOR) (by decide), ?_, ?_, fun i _ hi => ?_⟩
  · show u.mem = s.mem
    rw [hu, hmem, hweq]
  · show u.cmds = s.cmds
    rw [hu, hcmds, hweq]
  · refine rd_of_word ?_
    show u.word _ = _
    have hwword : w.word (R.PMC_CNT_VALUE.addr 0 i) = s.word (R.PMC_CNT_VALUE.addr 0 i) := by
      rw [hw]
      refine puts_word_ne hs pmcCtl_ok (fun f hf => ?_) v.toNat
      rw [pmcCtl_addr f hf, snap_addr]
      omega
    rw [hu, countUp_word hwwf fun j hj => ?_, hwword]
    intro he
    rw [snap_addr, snap_addr] at he
    obtain rfl : i = j := by omega
    have hj' := (List.mem_filter.1 hj).2
    rw [hopen, hi] at hj'
    exact absurd hj' (by decide)

-- The clapper (R337).

theorem clapRun_starts {s u : State} {v : Word} (hv : v.getLsbD R.TSU_CLAP_RUN.lo = true)
    (hu : u = s.wr R.TSU_CLAP_MASTER (bitsAt v.toNat R.TSU_CLAP_MASTER.lo R.TSU_CLAP_MASTER.wid)) :
    clapWrite s (hw8 v.toNat) = u.clapStart.settle := by
  have hone : (hw8 v.toNat).one R.TSU_CLAP_RUN = true := (hw8_one (by decide) rfl v).trans hv
  have hput : s.put (hw8 v.toNat) R.TSU_CLAP_MASTER = u := by rw [State.put, hw8_get (by decide), hu]
  rw [clapWrite, hput]
  exact if_pos hone

theorem anyUp_true {u : State} (h : ∃ p < 18, u.portState p = 3) : ((List.range 18).any fun p => u.portState p == 3) = true := by
  obtain ⟨p, hp, hup⟩ := h
  exact List.any_eq_true.2 ⟨p, List.mem_range.2 hp, beq_iff_eq.2 hup⟩

theorem anyUp_false {u : State} (h : ∀ p < 18, u.portState p ≠ 3) : ((List.range 18).any fun p => u.portState p == 3) = false := by
  rw [List.any_eq_false]
  exact fun p hp hup => h p (List.mem_range.1 hp) (beq_iff_eq.1 hup)

-- The recorder (R342, R343).

/-- The fields of RUSH_CTL that a write takes while EN is 1. -/
def rushFree : List Fld := [R.DBG_RUSH_CTL_EN, R.DBG_RUSH_CTL_CX_MASK]

theorem rushFree_ok : rushFree.all Fld.ok = true := by decide

theorem rushFree_pairwise : rushFree.Pairwise fun f g => g.away f = true := by decide

theorem rushCtlWrite_rearms {s u : State} (hs : s.regsWf = true) {v : Word} (hre : v.getLsbD R.DBG_RUSH_CTL_REARM.lo = true)
    (hv : v.getLsbD R.DBG_RUSH_CTL_EN.lo = true) (hen : s.flag R.DBG_RUSH_CTL_EN = true) (hu : u = s.puts (hw8 v.toNat) rushFree) :
    rushCtlWrite s (hw8 v.toNat) = u.rearmNow ∧ u.flag R.DBG_RUSH_CTL_EN = true := by
  have hone : (hw8 v.toNat).one R.DBG_RUSH_CTL_REARM = true := (hw8_one (by decide) rfl v).trans hre
  have huen : u.flag R.DBG_RUSH_CTL_EN = true := by
    have hrd : u.rd R.DBG_RUSH_CTL_EN = bitsAt v.toNat R.DBG_RUSH_CTL_EN.lo R.DBG_RUSH_CTL_EN.wid :=
      hu ▸ puts_rd hs rushFree_ok rushFree_pairwise (f := R.DBG_RUSH_CTL_EN) (by decide) v.toNat 0
    exact (congrArg (· == 1) hrd).trans ((bitsAt_eq_one v _).trans hv)
  have hputs : s.puts (hw8 v.toNat) [R.DBG_RUSH_CTL_EN, R.DBG_RUSH_CTL_CX_MASK] = u := hu.symm
  refine ⟨?_, huen⟩
  simp only [rushCtlWrite, hen, hputs, huen, hone, Bool.not_true, Bool.false_and, Bool.and_false, Bool.false_eq_true, if_false, if_true]

/-- REARM clears TRIGGERED, and starts a recorder again that was stopped or frozen. -/
theorem rearmNow_spec {u : State} (hs : u.regsWf = true) (hen : u.flag R.DBG_RUSH_CTL_EN = true) :
    u.rearmNow.flag R.DBG_RUSH_STAT_TRIGGERED = false ∧ u.rearmNow.dbg.left = none ∧
      u.rearmNow.rd R.DBG_RUSH_STAT_STATE = (if 2 ≤ u.rd R.DBG_RUSH_STAT_STATE then 1 else u.rd R.DBG_RUSH_STAT_STATE) ∧
      (∀ {g : Fld}, R.DBG_RUSH_STAT_TRIGGERED.away g = true → R.DBG_RUSH_STAT_STATE.away g = true → u.rearmNow.rd g = u.rd g) ∧
      u.rearmNow.dbg.rush = u.dbg.rush ∧ u.rearmNow.mem = u.mem ∧ u.rearmNow.cmds = u.cmds := by
  obtain ⟨w, hw⟩ : ∃ w, w = u.setFlag R.DBG_RUSH_STAT_TRIGGERED false := ⟨_, rfl⟩
  have hwwf : w.regsWf = true := hw ▸ setFlag_regsWf hs ..
  have haway : ∀ {g : Fld}, R.DBG_RUSH_STAT_TRIGGERED.away g = true → w.rd g = u.rd g := fun hg =>
    hw ▸ wr_rd_away hs (by decide) hg _ _ _ _
  have htrig : w.flag R.DBG_RUSH_STAT_TRIGGERED = false := by
    rw [hw]
    exact setFlag_flag_same hs (by decide) (by decide) _ _ _
  have hwen : w.flag R.DBG_RUSH_CTL_EN = true := by rw [State.flag, haway (by decide)]; exact hen
  have hwst : w.rd R.DBG_RUSH_STAT_STATE = u.rd R.DBG_RUSH_STAT_STATE := haway (by decide)
  have hwkeep : w.dbg = u.dbg ∧ w.mem = u.mem ∧ w.cmds = u.cmds := hw ▸ ⟨rfl, rfl, rfl⟩
  obtain ⟨hdbg, hmem, hcmds⟩ := hwkeep
  have hrush : w.dbg.rush = u.dbg.rush := congrArg Dbg.rush hdbg
  have hdef : u.rearmNow = if 2 ≤ w.rd R.DBG_RUSH_STAT_STATE then
      (w.wr R.DBG_RUSH_STAT_STATE (if w.flag R.DBG_RUSH_CTL_EN then 1 else 0)).updDbg fun d => { d with count := 0, left := none }
      else w.updDbg fun d => { d with left := none } := hw ▸ rfl
  rw [hdef, hwst, hwen, if_pos rfl]
  by_cases h2 : 2 ≤ u.rd R.DBG_RUSH_STAT_STATE
  · rw [if_pos h2, if_pos h2]
    refine ⟨?_, rfl, wr_rd_same hwwf (f := R.DBG_RUSH_STAT_STATE) (by decide) 1 0 0, fun hg hg' => ?_, hrush, hmem, hcmds⟩
    · exact (congrArg (· == 1) (wr_rd_away hwwf (f := R.DBG_RUSH_STAT_STATE) (g := R.DBG_RUSH_STAT_TRIGGERED) (by decide) (by decide) 1 0 0 0)).trans htrig
    · exact (wr_rd_away hwwf (f := R.DBG_RUSH_STAT_STATE) (by decide) hg' 1 0 0 0).trans (haway hg)
  · rw [if_neg h2, if_neg h2]
    exact ⟨htrig, rfl, hwst, fun hg _ => haway hg, hrush, hmem, hcmds⟩

theorem trigger_ignored {s : State} {k c : Nat} (h : bitAt (s.rd R.DBG_RUSH_TRIG_SOURCES) k = false ∨ s.flag R.DBG_RUSH_STAT_TRIGGERED = true) :
    s.trigger k c = s := by
  refine if_pos ?_
  rw [Bool.or_eq_true, Bool.not_eq_true']
  exact h

/-- A trigger that counts, while nothing is recorded and no cut follows, marks its place. -/
theorem trigger_marks {s : State} (hs : s.regsWf = true) {k c : Nat} (hsrc : bitAt (s.rd R.DBG_RUSH_TRIG_SOURCES) k = true)
    (htrig : s.flag R.DBG_RUSH_STAT_TRIGGERED = false) (hen : s.flag R.DBG_RUSH_CTL_EN = false)
    (hcut : s.flag R.DBG_RUSH_TRIG_CUT_ON_TRIG = false) :
    s.trigger k c = (s.wr R.DBG_RUSH_STAT_TRIGGERED 1).wr R.DBG_RUSH_POS_TRIG_SEQ (s.rd R.DBG_RUSH_POS_SEQ_NEXT) := by
  obtain ⟨w, hw⟩ : ∃ w, w = s.setFlag R.DBG_RUSH_STAT_TRIGGERED true := ⟨_, rfl⟩
  have hwwf : w.regsWf = true := hw ▸ setFlag_regsWf hs ..
  have hnext : w.rd R.DBG_RUSH_POS_SEQ_NEXT = s.rd R.DBG_RUSH_POS_SEQ_NEXT := hw ▸ wr_rd_away hs (by decide) (by decide) _ _ _ _
  have hflag : ∀ {f : Fld}, R.DBG_RUSH_STAT_TRIGGERED.away f = true → R.DBG_RUSH_POS_TRIG_SEQ.away f = true →
      (w.wr R.DBG_RUSH_POS_TRIG_SEQ (s.rd R.DBG_RUSH_POS_SEQ_NEXT)).flag f = s.flag f := fun h h' => by
    rw [State.flag, wr_rd_away hwwf (by decide) h', hw, State.setFlag, wr_rd_away hs (by decide) h]
    rfl
  have hwen := (hflag (f := R.DBG_RUSH_CTL_EN) (by decide) (by decide)).trans hen
  have hwcut := (hflag (f := R.DBG_RUSH_TRIG_CUT_ON_TRIG) (by decide) (by decide)).trans hcut
  simp only [State.trigger, hsrc, htrig, ← hw, hnext, hwen, hwcut, Bool.not_true, Bool.or_self, Bool.false_and, Bool.false_eq_true, if_false]
  rw [hw]
  rfl

/-- Settles O51: the four writes' fields are taken, and what follows each is one branch. -/
theorem countersClapperAndRushesObey : Obligations.CountersClapperAndRushesObey := by
  intro s v hs
  refine ⟨fun htakes hv => ?_, fun htakes hv u hu => ?_, fun hbusy ht => congrArg Host.Outcome.next ?_, fun htakes hre hv hen => ?_,
    fun htakes hv => congrArg Host.Outcome.next ?_, fun k c => ⟨trigger_ignored, fun hsrc htrig hen hcut => trigger_marks hs hsrc htrig hen hcut⟩⟩
  · obtain ⟨t, ht, hspec⟩ := snap_copies hs hv
    refine ⟨t, congrArg Host.Outcome.next ((hostGate_taken htakes _).trans ?_), hspec⟩
    rw [if_pos ((hw8_one (f := R.PMC_CTL_SNAP) (by decide) rfl v).trans hv), ht]
  · have hrun : exec (.clapperRun v) s = .next u.clapStart.settle := by
      refine congrArg Host.Outcome.next ((hostGate_taken htakes _).trans ?_)
      rw [if_pos ((hw8_one (f := R.TSU_CLAP_RUN) (by decide) rfl v).trans hv), clapRun_starts hv hu]
    rw [hrun]
    refine ⟨fun hb => ?_, fun hb hup => ?_, fun hb hup hm => ?_, fun hb hup hm => ?_⟩
    · rw [State.clapStart, if_pos hb]
    · rw [State.clapStart, hb, anyUp_false hup]
      rfl
    · rw [State.clapStart, hb, anyUp_true hup, if_neg Bool.false_ne_true, if_neg (by decide), if_pos hm]
      rfl
    · rw [State.clapStart, hb, anyUp_true hup, if_neg Bool.false_ne_true, if_neg (by decide), if_neg hm]
      rfl
  · have ht' : decide (10000000 + s.tsu.began ≤ s.clock) = true := decide_eq_true (by omega)
    rw [clapTimeout, hbusy, ht']
    rfl
  · obtain ⟨u, hu⟩ : ∃ u, u = s.puts (hw8 v.toNat) rushFree := ⟨_, rfl⟩
    obtain ⟨hrun, huen⟩ := rushCtlWrite_rearms hs hre hv hen hu
    have hueq : u = { s with regs := u.regs } := hu ▸ puts_eq_regs s rushFree_ok v.toNat 0
    have haway : ∀ {g : Fld}, rushFree.all (fun f => f.away g) = true → u.rd g = s.rd g := fun ha => by
      rw [hu, puts_rd_away hs rushFree_ok ha]
    obtain ⟨htrig, hleft, hstate, hrest, hrush, hmem, hcmds⟩ := rearmNow_spec (u := u) (hu ▸ puts_regsWf hs rushFree_ok _ _) huen
    refine ⟨u.rearmNow, congrArg Host.Outcome.next ((hostGate_taken htakes _).trans ?_), htrig, hleft, ?_, ?_, ?_, ?_, ?_, ?_, ?_⟩
    · rw [if_pos ((hw8_one (f := R.DBG_RUSH_CTL_REARM) (by decide) rfl v).trans hre), hrun]
    · rw [hstate, haway (by decide)]
    · rw [hrest (by decide) (by decide), hu, puts_rd hs rushFree_ok rushFree_pairwise (by decide)]
    · rw [hrest (by decide) (by decide), haway (by decide)]
    · rw [hrest (by decide) (by decide), haway (by decide)]
    · rw [hrush, hueq]
    · rw [hmem, hueq]
    · rw [hcmds, hueq]
  · refine (hostGate_taken htakes _).trans ?_
    have hone : (hw8 v.toNat).one R.DBG_RUSH_TRIG_NOW = true := (hw8_one (by decide) rfl v).trans hv
    rw [if_pos hone, rushTrigWrite, hone]
    rfl

end Sys2Proof.Machine
end

section
/-! PROOF. Cuts (O52): how they are armed, the freeze, and the read of the scan chains. -/

namespace Sys2Proof.Machine

-- Arming (R346, R347).

/-- What the arming of a cut writes. -/
def armWrites (t origin id : Nat) (byFrame late : Bool) : List (Fld × Nat) :=
  [(R.DBG_CUT_STAT_ARMED, 1), (R.DBG_CUT_T_T, t), (R.DBG_CUT_STAT_BY_FRAME, if byFrame then 1 else 0),
    (R.DBG_CUT_STAT_LATE, if late then 1 else 0), (R.DBG_CUT_STAT_ORIGIN, origin), (R.DBG_CUT_STAT_CUT_ID, id)]

/-- The fields that an arming writes. -/
def armFields : List Fld :=
  [R.DBG_CUT_STAT_ARMED, R.DBG_CUT_T_T, R.DBG_CUT_STAT_BY_FRAME, R.DBG_CUT_STAT_LATE, R.DBG_CUT_STAT_ORIGIN, R.DBG_CUT_STAT_CUT_ID]

theorem armFields_pairwise : armFields.Pairwise fun f g => g.away f = true := by decide

theorem armWrites_map (t origin id : Nat) (b l : Bool) : (armWrites t origin id b l).map Prod.fst = armFields := rfl

theorem armWrites_ok (t origin id : Nat) (b l : Bool) : ∀ p ∈ armWrites t origin id b l, p.1.ok = true := by
  intro p hp
  have hok : ∀ f ∈ armFields, f.ok = true := by decide
  exact hok _ (armWrites_map t origin id b l ▸ List.mem_map_of_mem hp)

theorem armWrites_pairwise (t origin id : Nat) (b l : Bool) : (armWrites t origin id b l).Pairwise fun p q => q.1.away p.1 = true := by
  have h := armFields_pairwise
  rwa [← armWrites_map t origin id b l, List.pairwise_map] at h

/-- A cut that is armed while none is, as its fields read. -/
structure ArmedCut (s u : State) (t origin id : Nat) (byFrame late : Bool) : Prop where
  armed : u.flag R.DBG_CUT_STAT_ARMED = true
  time : u.rd R.DBG_CUT_T_T = t
  late : u.flag R.DBG_CUT_STAT_LATE = late
  byFrame : u.flag R.DBG_CUT_STAT_BY_FRAME = byFrame
  origin : u.rd R.DBG_CUT_STAT_ORIGIN = origin
  id : u.rd R.DBG_CUT_STAT_CUT_ID = id
  dbg : u.dbg = s.dbg
  mem : u.mem = s.mem
  cmds : u.cmds = s.cmds

theorem armCut_writes {s : State} (hcut : s.flag R.DBG_CUT_STAT_CUT = false) (harm : s.flag R.DBG_CUT_STAT_ARMED = false)
    (t origin id : Nat) (b l : Bool) : s.armCut t origin id b l = s.wrAll (armWrites t origin id b l) 0 := by
  rw [State.armCut, hcut, harm]
  rfl

theorem armCut_armed {s : State} (hs : s.regsWf = true) (hcut : s.flag R.DBG_CUT_STAT_CUT = false)
    (harm : s.flag R.DBG_CUT_STAT_ARMED = false) {t origin id : Nat} (ht : t < 2 ^ 64) (ho : origin < 2 ^ 16) (hid : id < 2 ^ 32) (b l : Bool) :
    ArmedCut s (s.armCut t origin id b l) t origin id b l := by
  rw [armCut_writes hcut harm]
  have hrd : ∀ {f : Fld} {v : Nat}, (f, v) ∈ armWrites t origin id b l → (s.wrAll (armWrites t origin id b l) 0).rd f = v % 2 ^ f.wid := fun hm =>
    wrAll_rd_mem hs (armWrites_ok t origin id b l) (armWrites_pairwise ..) hm
  have hflag : ∀ {f : Fld} {x : Bool}, (f, if x then 1 else 0) ∈ armWrites t origin id b l → f.wid = 1 →
      (s.wrAll (armWrites t origin id b l) 0).flag f = x := fun {f x} hm hw => by
    rw [State.flag, hrd hm, hw]
    cases x <;> rfl
  have hkeep := wrAll_eq_regs s (armWrites t origin id b l) 0
  exact
    { armed := hflag (x := true) (by simp [armWrites]) rfl
      time := (hrd (by simp [armWrites])).trans (Nat.mod_eq_of_lt ht)
      late := hflag (by simp [armWrites]) rfl
      byFrame := hflag (by simp [armWrites]) rfl
      origin := (hrd (by simp [armWrites])).trans (Nat.mod_eq_of_lt ho)
      id := (hrd (by simp [armWrites])).trans (Nat.mod_eq_of_lt hid)
      dbg := by rw [hkeep]
      mem := by rw [hkeep]
      cmds := by rw [hkeep] }

/-- Of two armed cuts the earlier governs. -/
theorem armCut_later {s : State} (harm : s.flag R.DBG_CUT_STAT_ARMED = true) {t : Nat} (ht : s.rd R.DBG_CUT_T_T ≤ t)
    (origin id : Nat) (b l : Bool) : s.armCut t origin id b l = s := by
  rw [State.armCut, harm, decide_eq_true ht]
  split <;> rfl

/-- The fields of CUT_CTL that a write takes. -/
def cutCtl : List Fld := [R.DBG_CUT_CTL_ACCEPT, R.DBG_CUT_CTL_LEAD_NS, R.DBG_CUT_CTL_SET_COUNT, R.DBG_CUT_CTL_VECTOR]

theorem cutCtl_ok : cutCtl.all Fld.ok = true := by decide

theorem cutCtl_pairwise : cutCtl.Pairwise fun f g => g.away f = true := by decide

/-- A state that differs in registers alone, none of them of what a cut reads. -/
structure CutSame (s u : State) : Prop where
  only : u = { s with regs := u.regs }
  wf : u.regsWf = true
  cut : u.flag R.DBG_CUT_STAT_CUT = s.flag R.DBG_CUT_STAT_CUT
  armed : u.flag R.DBG_CUT_STAT_ARMED = s.flag R.DBG_CUT_STAT_ARMED
  offset : u.rd R.TSU_OFFSET = s.rd R.TSU_OFFSET
  dev : u.dev = s.dev

theorem CutSame.now {s u : State} (h : CutSame s u) : u.now = s.now := by
  rw [State.now, State.now, h.offset, h.only]

theorem CutSame.cutLead {s u : State} (h : CutSame s u) : u.cutLead = s.cutLead := by
  rw [State.cutLead, State.cutLead, h.only]

/-- Writes of DBG's own fields that share no bit with CUT_STAT. -/
theorem cutSame_of_words {s u : State} (honly : u = { s with regs := u.regs }) (hwf : u.regsWf = true)
    (hword : ∀ a, a = R.DBG_CUT_STAT_CUT.addr ∨ a = R.TSU_OFFSET.addr ∨ a = R.MGT_SEAT_DEV.addr → u.word a = s.word a) : CutSame s u where
  only := honly
  wf := hwf
  cut := congrArg (· == 1) (rd_of_word (hword (R.DBG_CUT_STAT_CUT.addr) (.inl rfl)))
  armed := congrArg (· == 1) (rd_of_word (f := R.DBG_CUT_STAT_ARMED) (hword (R.DBG_CUT_STAT_CUT.addr) (.inl rfl)))
  offset := rd_of_word (hword (R.TSU_OFFSET.addr) (.inr (.inl rfl)))
  dev := rd_of_word (f := R.MGT_SEAT_DEV) (hword (R.MGT_SEAT_DEV.addr) (.inr (.inr rfl)))

theorem cutSame_cutCtl {s : State} (hs : s.regsWf = true) (v : Nat) : CutSame s (s.puts (hw8 v) cutCtl) := by
  refine cutSame_of_words (puts_eq_regs s cutCtl_ok v 0) (puts_regsWf hs cutCtl_ok v 0) fun a ha => puts_word_ne hs cutCtl_ok (fun f hf => ?_) v
  have haddr : ∀ f ∈ cutCtl, f.addr 0 ≠ R.DBG_CUT_STAT_CUT.addr ∧ f.addr 0 ≠ R.TSU_OFFSET.addr ∧ f.addr 0 ≠ R.MGT_SEAT_DEV.addr := by decide
  obtain ⟨hstat, hoff, hdev⟩ := haddr f hf
  rcases ha with rfl | rfl | rfl
  · exact hstat.symm
  · exact hoff.symm
  · exact hdev.symm

theorem cutSame_cutAt {s : State} (hs : s.regsWf = true) (t : Nat) : CutSame s (s.wr R.DBG_CUT_AT_AT t) := by
  refine cutSame_of_words rfl (wr_regsWf hs ..) fun a ha => setWord_word_ne hs _ ?_
  have haddr : R.DBG_CUT_STAT_CUT.addr ≠ R.DBG_CUT_AT_AT.addr ∧ R.TSU_OFFSET.addr ≠ R.DBG_CUT_AT_AT.addr ∧
      R.MGT_SEAT_DEV.addr ≠ R.DBG_CUT_AT_AT.addr := by decide
  obtain ⟨hstat, hoff, hdev⟩ := haddr
  rcases ha with rfl | rfl | rfl
  · exact hstat
  · exact hoff
  · exact hdev

theorem dev_lt (s : State) : s.dev < 2 ^ 16 := bitsAt_lt _ _ 16

/-- The count of cuts goes up. -/
def State.nextCut (s : State) : State := { s with dbg := { s.dbg with cuts := s.dbg.cuts + 1 } }

theorem orderCut_here {s : State} (h : s.rd R.DBG_CUT_CTL_SET_COUNT = 0) :
    s.orderCut = s.nextCut.armCut (s.now + s.cutLead) s.dev (s.dbg.cuts + 1) false false := by
  have hset : s.nextCut.rd R.DBG_CUT_CTL_SET_COUNT = 0 := h
  rw [State.orderCut]
  exact if_pos hset

/-- A timed cut is armed at its time, or late. -/
theorem armTimed_eq (s : State) (t origin id : Nat) (b : Bool) :
    s.armTimed t origin id b = s.armCut (if t < s.now + s.cutLead then s.now + s.cutLead else t) origin id b (decide (t < s.now + s.cutLead)) := by
  rw [State.armTimed]
  by_cases h : t < s.now + s.cutLead
  · rw [if_pos h, if_pos h, decide_eq_true h]
  · rw [if_neg h, if_neg h, decide_eq_false h]

theorem cutNow_runs {s : State} {v : Word} (htakes : s.takesWrites .DBG R.DBG_CUT_CTL_NOW.off = true)
    (hv : v.getLsbD R.DBG_CUT_CTL_NOW.lo = true) (hacted : s.cutNowActed = false) :
    exec (.cutNow v) s = .next ((s.puts (hw8 v.toNat) cutCtl).orderCut.act objCut).settle := by
  have hone : (hw8 v.toNat).one R.DBG_CUT_CTL_NOW = true := (hw8_one (by decide) rfl v).trans hv
  refine congrArg Host.Outcome.next ((hostGate_taken htakes _).trans ?_)
  rw [if_pos hone, cutCtlWrite, hone, hacted]
  rfl

theorem cutAt_runs {s : State} {v : Word} (htakes : s.takesWrites .DBG R.DBG_CUT_AT_AT.off = true) (hv : v.toNat ≠ 0)
    (hset : ((s.wr R.DBG_CUT_AT_AT v.toNat).nextCut.armTimed v.toNat (s.wr R.DBG_CUT_AT_AT v.toNat).nextCut.dev
      (s.dbg.cuts + 1) false).rd R.DBG_CUT_CTL_SET_COUNT = 0) :
    exec (.cutAt v) s = .next ((s.wr R.DBG_CUT_AT_AT v.toNat).nextCut.armTimed v.toNat (s.wr R.DBG_CUT_AT_AT v.toNat).nextCut.dev
      (s.dbg.cuts + 1) false).settle := by
  have hget : (hw8 v.toNat).get R.DBG_CUT_AT_AT = some v.toNat := by
    rw [hw8_get (by decide)]
    exact congrArg some (Nat.mod_eq_of_lt v.isLt)
  refine congrArg Host.Outcome.next ((hostGate_taken htakes _).trans ?_)
  simp only [cutAtWrite, hget, hv, if_false]
  exact congrArg State.settle (if_pos hset)

theorem armCut_setCount {s : State} (hs : s.regsWf = true) (t origin id : Nat) (b l : Bool) :
    (s.armCut t origin id b l).rd R.DBG_CUT_CTL_SET_COUNT = s.rd R.DBG_CUT_CTL_SET_COUNT := by
  have haway : ∀ f ∈ armFields, f.away R.DBG_CUT_CTL_SET_COUNT = true := by decide
  have hwr : (s.wrAll (armWrites t origin id b l) 0).rd R.DBG_CUT_CTL_SET_COUNT = s.rd R.DBG_CUT_CTL_SET_COUNT :=
    wrAll_rd_away hs (armWrites_ok t origin id b l) fun p hp => haway _ (armWrites_map t origin id b l ▸ List.mem_map_of_mem hp)
  have hdef : s.armCut t origin id b l = if s.flag R.DBG_CUT_STAT_CUT then s
      else if s.flag R.DBG_CUT_STAT_ARMED && decide (s.rd R.DBG_CUT_T_T ≤ t) then s else s.wrAll (armWrites t origin id b l) 0 := rfl
  rw [hdef]
  split
  · rfl
  split
  · rfl
  · exact hwr

-- The freeze (R347).

theorem cutFreeze_cuts {s : State} (harm : s.flag R.DBG_CUT_STAT_ARMED = true) (hcut : s.flag R.DBG_CUT_STAT_CUT = false)
    (ht : s.rd R.DBG_CUT_T_T ≤ s.now) (hstop : s.recd.stopped = false) (hst : s.rd R.MGT_START_STATE = 2 ∨ s.rd R.MGT_START_STATE = 3)
    {a b : State} (ha : a = (s.wr R.DBG_CUT_STAT_CUT 1).wr R.DBG_CUT_STAT_ARMED 0)
    (hb : b = a.reelEvent 0x0C (blkIndex .DBG) 0xFF (leBytes 8 (a.rd R.DBG_CUT_T_T) ++ leBytes 2 (a.rd R.DBG_CUT_STAT_ORIGIN) ++
      leBytes 4 (a.rd R.DBG_CUT_STAT_CUT_ID) ++ leBytes 1 (a.rd R.DBG_CUT_STAT_LATE))) :
    cutFreezeNow s = (if s.rd R.MGT_START_STATE = 2 then ((b.msix (b.rd R.DBG_CUT_CTL_VECTOR)).trigger 5 0).setStart stCut
      else (b.msix (b.rd R.DBG_CUT_CTL_VECTOR)).trigger 5 0).keepRegs := by
  have hlate : decide (s.now < s.rd R.DBG_CUT_T_T) = false := decide_eq_false (Nat.not_lt.2 ht)
  have hstate : (s.rd R.MGT_START_STATE != 2 && s.rd R.MGT_START_STATE != 3) = false := by
    rcases hst with h | h <;> rw [h] <;> rfl
  subst hb ha
  simp only [cutFreezeNow, harm, hcut, hlate, hstate, hstop, Bool.not_true, Bool.or_self, Bool.false_eq_true, if_false]
  rfl

-- The scan chains (R350).

/-- The blocks that BAR0 lists before DBG. -/
def blksBeforeDbg : List Blk := [.MGT, .PX, .PWR, .TSU, .BST, .NT, .NCACHE, .XLT, .CE, .UD, .SEC, .PMC, .CAST]

/-- DBG's own window of BAR0. -/
theorem blockAt_dbg {o : Nat} (ho : o < 0x200000) : blockAt (blkBase .DBG + o) = some (.DBG, 0) := by
  have hbase : blkBase .DBG = 0x600000 := rfl
  have hend : (if blkStride .DBG = 0 then blkSize .DBG else blkStride .DBG) * blkCount .DBG = 0x200000 := rfl
  have hbelow : ∀ b ∈ blksBeforeDbg, blkBase b + (if blkStride b = 0 then blkSize b else blkStride b) * blkCount b ≤ blkBase .DBG := by decide
  refine Option.map_eq_some_iff.2 ⟨.DBG, List.find?_eq_some_iff_append.2 ⟨?_, blksBeforeDbg, [.REC, .MSIX, .MA, .SP, .LK, .CX], rfl, fun b hb => ?_⟩, ?_⟩
  · rw [Bool.and_eq_true, decide_eq_true_eq, decide_eq_true_eq, hend, hbase]
    omega
  · have := hbelow b hb
    rw [Bool.not_eq_true', Bool.and_eq_false_iff, decide_eq_false_iff_not, decide_eq_false_iff_not]
    omega
  · rw [if_pos (by decide)]

/-- The image window of DBG holds no register. -/
theorem fieldsAt_image {o : Nat} (hlo : 0x100000 ≤ o) (ho : o < 0x200000) : fieldsAt (blkBase .DBG + o) = [] := by
  have hplain : ∀ f ∈ dbgFields, f.sub = 0 ∧ f.off < 0x100000 := by decide
  rw [fieldsAt, blockAt_dbg ho]
  refine List.filter_eq_nil_iff.2 fun f hf hat => ?_
  obtain ⟨hsub, hoff⟩ := hplain f hf
  have hzero : blkBase .DBG + o - blkBase .DBG - blkStride .DBG * 0 = o := by omega
  rw [hzero, Fld.at?, if_pos hsub, beq_iff_eq] at hat
  omega

theorem clearRead_image (s : State) {o : Nat} (hlo : 0x100000 ≤ o) (ho : o < 0x200000) :
    s.clearRead (blkBase .DBG + o) 0 64 = s := by
  rw [clearRead_word, rcFields, fieldsAt_image hlo ho]
  split <;> rfl

/-- A read of section 7 shifts the chains and answers a free value. -/
theorem imageRead_scan {s : State} (hsec : s.rd R.DBG_IMAGE_SEL_SECTION = 7) (hgrant : s.scanGranted = true) (o : Nat) :
    s.imageRead o = (s.updDbg fun d => { d with shifted := true }).takeFree := by
  have hopen : s.sectionOpen 7 = true := hgrant
  have hsize : s.sectionSize 7 = none := rfl
  have hword : ∀ p, s.sectionWord 7 p = none := fun p => by
    unfold State.sectionWord
    cases s.dbg.shifted <;> rfl
  simp only [State.imageRead, hsec, hopen, hsize, hword, Bool.not_true, Bool.or_self, Bool.false_eq_true, if_false]
  rfl

theorem scanRead_shifts {s : State} {off : Nat} (hst : s.rd R.MGT_START_STATE = 4) (hd3 : s.boot.d3hot = false) (hstop : s.recd.stopped = false)
    (hsec : s.rd R.DBG_IMAGE_SEL_SECTION = 7) (hgrant : s.scanGranted = true) :
    ∃ (a : Nat) (x : Word), scanRead s off = ((s.updDbg fun d => { d with shifted := true }).takeFree.2).emit (.readData a x) := by
  obtain ⟨o, ho⟩ : ∃ o, o = imageWindow + off % 0x100000 / 8 * 8 := ⟨_, rfl⟩
  have himage : imageWindow = 0x100000 := rfl
  have hbase : blkBase .DBG = 0x600000 := rfl
  have haddr : blkBase .DBG + imageWindow + off % 0x100000 / 8 * 8 = blkBase .DBG + o := by rw [ho, Nat.add_assoc]
  have hans : s.answers = true := by
    rw [State.answers, hst, hd3, hstop]
    rfl
  have hserved : s.servedAt (blkBase .DBG + o) = true := by
    rw [State.servedAt, blockAt_dbg (by omega)]
    show s.serves .DBG = true
    rw [State.serves, hst]
    rfl
  have hread : s.readWord (blkBase .DBG + o) = (s.updDbg fun d => { d with shifted := true }).takeFree := by
    rw [State.readWord, if_pos (by omega), imageRead_scan hsec hgrant]
  refine ⟨blkBase .DBG + o, BitVec.ofNat 64 ((s.updDbg fun d => { d with shifted := true }).takeFree.1), ?_⟩
  rw [scanRead, if_pos hsec, haddr, hostRead_word hans (by omega) (by omega) hserved, clearRead_image _ (by omega) (by omega), hread]

theorem sectionWord_shifted {s : State} (h : s.dbg.shifted = true) {k : Nat} (hk : k ∈ [1, 2, 4, 5, 6]) (o : Nat) :
    s.sectionWord k o = some 0 := by
  have hsec : (k == 1 || k == 2 || k == 4 || k == 5 || k == 6) = true := by
    simp only [List.mem_cons, List.not_mem_nil, or_false] at hk
    simp only [Bool.or_eq_true, beq_iff_eq]
    omega
  unfold State.sectionWord
  rw [h, hsec]
  rfl

/-- Settles O52: the orders come to one arming, the freeze to its record, and the read to the shift. -/
theorem cutsArmFreezeAndAreRead : Obligations.CutsArmFreezeAndAreRead := by
  refine ⟨fun s v at_ hs hcut harm hcuts hnow => ⟨fun htakes hv hacted hset => ?_, fun htakes hat hne hset => ?_⟩,
    fun s t origin k b l harm ht => armCut_later harm ht origin k b l,
    fun s a b harm hcut ht hstop ha hb => ⟨fun hst => congrArg Host.Outcome.next ?_, fun hst => congrArg Host.Outcome.next ?_⟩,
    fun s off hst hd3 hstop hsec hgrant => ?_⟩
  · obtain ⟨w, hw⟩ : ∃ w, w = s.puts (hw8 v.toNat) cutCtl := ⟨_, rfl⟩
    have hsame : CutSame s w := hw ▸ cutSame_cutCtl hs v.toNat
    have hcount : w.rd R.DBG_CUT_CTL_SET_COUNT = 0 := by
      rw [hw, puts_rd hs cutCtl_ok cutCtl_pairwise (f := R.DBG_CUT_CTL_SET_COUNT) (by decide)]
      exact hset
    have hwcuts : w.dbg = s.dbg := by rw [hsame.only]
    have hkeep : w.mem = s.mem ∧ w.cmds = s.cmds := by rw [hsame.only]; exact ⟨rfl, rfl⟩
    have hu := armCut_armed (s := w.nextCut) hsame.wf (hsame.cut.trans hcut) (hsame.armed.trans harm) (t := s.now + s.cutLead)
      (origin := s.dev) (id := s.dbg.cuts + 1) hnow (dev_lt s) hcuts false false
    refine ⟨w.orderCut.act objCut, hw ▸ cutNow_runs htakes hv hacted, ?_⟩
    rw [orderCut_here hcount, hsame.now, hsame.cutLead, hsame.dev, hwcuts]
    exact ⟨hu.armed, hu.time, hu.late, hu.byFrame, hu.origin, hu.id, (congrArg Dbg.cuts hu.dbg).trans (congrArg (Dbg.cuts · + 1) hwcuts),
      hu.mem.trans hkeep.1, hu.cmds.trans hkeep.2⟩
  · subst hat
    obtain ⟨w, hw⟩ : ∃ w, w = s.wr R.DBG_CUT_AT_AT v.toNat := ⟨_, rfl⟩
    have hsame : CutSame s w := hw ▸ cutSame_cutAt hs v.toNat
    have hnown : w.nextCut.now = s.now := hsame.now
    have hlead : w.nextCut.cutLead = s.cutLead := hsame.cutLead
    have hdev : w.nextCut.dev = s.dev := hsame.dev
    have hkeep : w.mem = s.mem ∧ w.cmds = s.cmds := by rw [hsame.only]; exact ⟨rfl, rfl⟩
    have htime : (if v.toNat < s.now + s.cutLead then s.now + s.cutLead else v.toNat) < 2 ^ 64 := by
      split
      · exact hnow
      · exact v.isLt
    have hu := armCut_armed (s := w.nextCut) hsame.wf (hsame.cut.trans hcut) (hsame.armed.trans harm)
      (t := if v.toNat < s.now + s.cutLead then s.now + s.cutLead else v.toNat)
      (origin := s.dev) (id := s.dbg.cuts + 1) htime (dev_lt s) hcuts false (decide (v.toNat < s.now + s.cutLead))
    have harmed : w.nextCut.armTimed v.toNat w.nextCut.dev (s.dbg.cuts + 1) false =
        w.nextCut.armCut (if v.toNat < s.now + s.cutLead then s.now + s.cutLead else v.toNat) s.dev (s.dbg.cuts + 1) false
          (decide (v.toNat < s.now + s.cutLead)) := by rw [armTimed_eq, hnown, hlead, hdev]
    have hzero : (w.nextCut.armTimed v.toNat w.nextCut.dev (s.dbg.cuts + 1) false).rd R.DBG_CUT_CTL_SET_COUNT = 0 := by
      rw [harmed, armCut_setCount (s := w.nextCut) hsame.wf]
      show w.rd R.DBG_CUT_CTL_SET_COUNT = 0
      rw [hw, wr_rd_away hs (by decide) (by decide)]
      exact hset
    refine ⟨_, (hw ▸ cutAt_runs htakes hne (hw ▸ hzero)), ?_⟩
    rw [harmed]
    exact ⟨hu.armed, hu.time, hu.late, hu.byFrame, hu.id, hu.mem.trans hkeep.1, hu.cmds.trans hkeep.2⟩
  · rw [cutFreeze_cuts harm hcut ht hstop (.inl hst) ha hb, if_pos hst]
    rfl
  · rw [cutFreeze_cuts harm hcut ht hstop (.inr hst) ha hb, if_neg (by rw [hst]; decide)]
  · obtain ⟨a, x, hread⟩ := scanRead_shifts (off := off) hst hd3 hstop hsec hgrant
    exact ⟨_, a, x, congrArg Host.Outcome.next hread, rfl, rfl, rfl, rfl, fun k o hk => sectionWord_shifted rfl hk o⟩

end Sys2Proof.Machine
end

section
/-! PROOF. Periodic self-test (O56): slices fall due, run at their quiet points, and end. -/

namespace Sys2Proof.Machine

theorem roundDue_todo {s : State} {k : Nat} {rest : List Nat} (h : s.slice.todo = k :: rest) : s.roundDue = false := by
  rw [State.roundDue, h]
  rfl

/-- A slice that is due in a round in progress waits for its unit. -/
theorem sliceDue_waits {s : State} {k : Nat} {rest : List Nat} (hlive : s.live = true) (hen : s.flag R.BST_CFG_EN = true)
    (hsave : s.saveOk = true) (hphase : s.slice.phase = 0) (hgap : s.gapOver = true) (htodo : s.slice.todo = k :: rest) :
    sliceDueNow s = { s with slice := { s.slice with phase := 1, since := s.clock } }.wr R.BST_STAT_UNIT (sliceUnit k).1 := by
  have hopen : s.openRound = s := by
    rw [State.openRound, roundDue_todo htodo]
    rfl
  simp only [sliceDueNow, hlive, hen, hsave, hphase, hgap, hopen, htodo, State.updSlice, bne_self_eq_false, Bool.not_true, Bool.or_self, Bool.false_eq_true, if_false]

theorem range_sliceCount : ∃ l, List.range sliceCount = 0 :: l := by
  obtain ⟨m, hm⟩ := Nat.exists_eq_succ_of_ne_zero (show sliceCount ≠ 0 by decide)
  exact ⟨_, (congrArg List.range hm).trans List.range_succ_eq_map⟩

/-- The state with a round of the given slices begun. -/
def State.openedRound (s : State) (l : List Nat) (n : Nat) : State :=
  { s with slice := { s.slice with todo := l, began := some s.clock } }.wr R.BST_STAT_LEFT n

theorem openedRound_waits (s : State) (l : List Nat) (n unit : Nat) :
    ((s.openedRound l n).updSlice fun x => { x with phase := 1, since := (s.openedRound l n).clock }).wr R.BST_STAT_UNIT unit =
      ({ s with slice := { s.slice with todo := l, began := some s.clock, phase := 1, since := s.clock } }.wr R.BST_STAT_LEFT n).wr
        R.BST_STAT_UNIT unit := rfl

theorem openRound_opened {s : State} (h : s.roundDue = true) : s.openRound = s.openedRound (List.range sliceCount) sliceCount := by
  rw [State.openRound, if_pos h]
  rfl

theorem openedRound_todo (s : State) (l : List Nat) (n : Nat) : (s.openedRound l n).slice.todo = l := rfl

/-- With no slice left the next round begins, and the first unit's slice waits. -/
theorem sliceDue_opens {s : State} (hlive : s.live = true) (hen : s.flag R.BST_CFG_EN = true)
    (hsave : s.saveOk = true) (hphase : s.slice.phase = 0) (hgap : s.gapOver = true) (hround : s.roundDue = true) :
    sliceDueNow s = ({ s with slice := { s.slice with todo := List.range sliceCount, began := some s.clock, phase := 1, since := s.clock } }.wr
      R.BST_STAT_LEFT sliceCount).wr R.BST_STAT_UNIT (sliceUnit 0).1 := by
  obtain ⟨l, hl⟩ := range_sliceCount
  rw [← openedRound_waits]
  simp only [sliceDueNow, hlive, hen, hsave, hphase, hgap, openRound_opened hround, openedRound_todo, hl, bne_self_eq_false, Bool.not_true,
    Bool.or_self, Bool.false_eq_true, if_false]

theorem quietNow_tests {s : State} {k : Nat} {rest : List Nat} (hlive : s.live = true) (htodo : s.slice.todo = k :: rest) (hphase : s.slice.phase = 1)
    (hquiet : s.quietAt (sliceUnit k).1 (sliceUnit k).2 = true) (hunit : (sliceUnit k).1 ≠ 7) :
    quietNow s = { s with slice := { s.slice with phase := 2, since := s.clock } }.wr R.BST_STAT_ACTIVE 1 := by
  simp only [quietNow, htodo, hlive, hphase, hquiet, bne_self_eq_false, Bool.not_true, Bool.or_self, Bool.false_eq_true, if_false,
    State.sliceDiscards, hunit, State.updSlice]
  rfl

theorem quietLate_defers {s : State} {k : Nat} {rest : List Nat} (hlive : s.live = true) (htodo : s.slice.todo = k :: rest) (hphase : s.slice.phase = 1)
    (hlate : s.slice.since + 10000000 ≤ s.clock) :
    quietLate s = { s with slice := { s.slice with phase := 0, todo := rest ++ [k] } } := by
  have htime : decide (s.clock < 10000000 + s.slice.since) = false := decide_eq_false (by omega)
  simp only [quietLate, hlive, hphase, htime, bne_self_eq_false, Bool.not_true, Bool.or_self, Bool.false_eq_true, if_false, State.updSlice, htodo,
    List.drop_one, List.tail_cons, List.take_succ_cons, List.take_zero]

/-- A slice that passes leaves its round, and the last one counts it. -/
theorem sliceEnd_passes {s : State} {k : Nat} {rest : List Nat} (hlive : s.live = true) (htodo : s.slice.todo = k :: rest) (hphase : s.slice.phase = 2)
    {u : State} (hu : u = ({ s with slice := { s.slice with phase := 0, todo := rest, ended := s.clock } }.wr R.BST_STAT_ACTIVE 0).wr
      R.BST_STAT_LEFT rest.length) :
    sliceEndNow s true = (if rest.isEmpty then u.bump R.BST_STAT_ROUNDS else u).settle := by
  subst hu
  simp only [sliceEndNow, hlive, hphase, bne_self_eq_false, Bool.not_true, Bool.or_self, Bool.false_eq_true, if_false, State.updSlice, htodo,
    List.drop_one, List.tail_cons]
  rfl

theorem sliceEnd_fails {s : State} (hlive : s.live = true) (hphase : s.slice.phase = 2) :
    sliceEndNow s false = s.enterSafe (s.rd R.BST_STAT_UNIT) testFailed := by
  simp only [sliceEndNow, hlive, hphase, bne_self_eq_false, Bool.not_true, Bool.or_self, Bool.false_eq_true, if_false, Bool.not_false, if_true]

/-- Settles O56: each event of the self-test by the phase it finds. -/
theorem slicesTestEveryUnit : Obligations.SlicesTestEveryUnit := by
  refine fun s k rest hlive => ⟨fun hen hsave hphase hgap htodo => congrArg Host.Outcome.next (sliceDue_waits hlive hen hsave hphase hgap htodo),
    fun hen hsave hphase hgap _ hround => congrArg Host.Outcome.next (sliceDue_opens hlive hen hsave hphase hgap hround),
    fun htodo hphase hquiet hunit => congrArg Host.Outcome.next (quietNow_tests hlive htodo hphase hquiet hunit),
    fun htodo hphase hlate => congrArg Host.Outcome.next (quietLate_defers hlive htodo hphase hlate),
    fun htodo hphase hrest => congrArg Host.Outcome.next ((sliceEnd_passes hlive htodo hphase rfl).trans ?_),
    fun htodo hphase => congrArg Host.Outcome.next (sliceEnd_passes hlive htodo hphase rfl),
    fun hphase => congrArg Host.Outcome.next (sliceEnd_fails hlive hphase)⟩
  rw [if_neg (by rwa [List.isEmpty_iff])]

end Sys2Proof.Machine
end

section
/-! PROOF. The DMA queue (O58): its tails, its start, and its descriptors. -/

namespace Sys2Proof.Machine

-- Tails (R121, R407).

theorem dmaTail_written {s : State} (htakes : s.takesWrites .PX R.PX_DMA_PTRS_TAIL.off = true) (hen : s.flag R.PX_DMA_RING_EN = true) (v : Word) :
    exec (.dmaTail v) s = .next (if (2 ^ 32 + bitsAt v.toNat R.PX_DMA_PTRS_TAIL.lo 32 - s.rd R.PX_DMA_PTRS_TAIL) % 2 ^ 32 ≤ s.dmaSize ∧
        (2 ^ 32 + bitsAt v.toNat R.PX_DMA_PTRS_TAIL.lo 32 - s.rd R.PX_DMA_PTRS_HEAD) % 2 ^ 32 ≤ s.dmaSize
      then s.wr R.PX_DMA_PTRS_TAIL (bitsAt v.toNat R.PX_DMA_PTRS_TAIL.lo 32) else s.wr R.PX_DMA_STAT_BAD_TAIL 1) := by
  have hget : (hw8 v.toNat).get R.PX_DMA_PTRS_TAIL = some (bitsAt v.toNat R.PX_DMA_PTRS_TAIL.lo 32) := hw8_get (by decide) _
  refine congrArg Host.Outcome.next ((hostGate_taken htakes _).trans ?_)
  simp only [dmaPtrsWrite, hget, State.tailOk, hen, Bool.true_and, Bool.and_eq_true, decide_eq_true_eq]
  rfl

-- The start of the queue (R408).

/-- The fields of the ring that its start takes. -/
def dmaRing : List Fld := [R.PX_DMA_RING_BASE, R.PX_DMA_RING_LOG2_SIZE, R.PX_DMA_RING_VECTOR, R.PX_DMA_RING_EN]

theorem dmaRing_ok : dmaRing.all Fld.ok = true := by decide

theorem dmaRing_pairwise : dmaRing.Pairwise fun f g => g.away f = true := by decide

/-- The counts and the fields of what stopped the queue, which its start clears. -/
def dmaCleared : List Fld := [R.PX_DMA_PTRS_HEAD, R.PX_DMA_PTRS_TAIL, R.PX_DMA_STAT_ERR, R.PX_DMA_STAT_CAUSE, R.PX_DMA_STAT_ERR_INDEX]

theorem dmaCleared_ok : ∀ p ∈ dmaCleared.map fun f => (f, 0), p.1.ok = true := by decide

theorem dmaCleared_pairwise : (dmaCleared.map fun f => (f, 0)).Pairwise fun p q => q.1.away p.1 = true := by decide

/-- The state after the start of the queue. -/
def State.dmaStarted (s : State) (v : Nat) : State := (s.puts (hw8 v) dmaRing).wrAll (dmaCleared.map fun f => (f, 0)) 0

theorem dmaStarted_ring {s : State} (hs : s.regsWf = true) {f : Fld} (hf : f ∈ dmaRing) (v : Nat) :
    (s.dmaStarted v).rd f = bitsAt v f.lo f.wid := by
  have haway : ∀ f ∈ dmaRing, ∀ p ∈ dmaCleared.map fun f => (f, 0), p.1.away f = true := by decide
  rw [State.dmaStarted, wrAll_rd_away (puts_regsWf hs dmaRing_ok v 0) dmaCleared_ok (haway f hf), puts_rd hs dmaRing_ok dmaRing_pairwise hf]

theorem dmaStarted_cleared {s : State} (hs : s.regsWf = true) {f : Fld} (hf : f ∈ dmaCleared) (v : Nat) : (s.dmaStarted v).rd f = 0 := by
  rw [State.dmaStarted, wrAll_rd_mem (puts_regsWf hs dmaRing_ok v 0) dmaCleared_ok dmaCleared_pairwise (List.mem_map_of_mem hf), Nat.zero_mod]

theorem dmaStarted_badTail {s : State} (hs : s.regsWf = true) (v : Nat) :
    (s.dmaStarted v).rd R.PX_DMA_STAT_BAD_TAIL = s.rd R.PX_DMA_STAT_BAD_TAIL := by
  rw [State.dmaStarted, wrAll_rd_away (puts_regsWf hs dmaRing_ok v 0) dmaCleared_ok (by decide), puts_rd_away hs dmaRing_ok (by decide)]

theorem dmaEnable_starts {s : State} {v : Word} (hs : s.regsWf = true) (htakes : s.takesWrites .PX R.PX_DMA_RING_EN.off = true)
    (hen : s.flag R.PX_DMA_RING_EN = false) (hv : v.getLsbD R.PX_DMA_RING_EN.lo = true) :
    exec (.dmaEnable v) s = .next (s.dmaStarted v.toNat) := by
  have hone : (hw8 v.toNat).one R.PX_DMA_RING_EN = true := (hw8_one (by decide) rfl v).trans hv
  have hset : (s.puts (hw8 v.toNat) dmaRing).flag R.PX_DMA_RING_EN = true := by
    rw [State.flag, puts_rd hs dmaRing_ok dmaRing_pairwise (by decide)]
    exact (bitsAt_eq_one ..).trans hv
  refine congrArg Host.Outcome.next ((hostGate_taken htakes _).trans ?_)
  rw [hen, hone, dmaRingWrite, hen]
  exact if_pos hset

-- Descriptors (R407, R408).

section
variable {s : State} (hbusy : s.dmaBusy = true) (hst : s.rd R.MGT_START_STATE = 2) (hcut : s.flag R.DBG_CUT_STAT_CUT = false)
  (hstop : s.recd.stopped = false) {a d : Nat} (ha : a = s.rdAddr R.PX_DMA_RING_BASE + 32 * (s.rd R.PX_DMA_PTRS_HEAD % s.dmaSize))
  (hnear : s.inNear a 32 = true) (hbad : s.badIn a 32 = none) (hd : d = s.preadNat a 32)
include hbusy hst hcut hstop ha hnear hbad hd

/-- The descriptor at HEAD, once it has been read. -/
theorem dmaStep_reads (r : HostReply) :
    dmaStep s r = if bitsAt d 114 14 ≠ 0 ∨ bitsAt d 168 88 ≠ 0 ∨ bitsAt d 128 40 = 0 ∨ s.dmaRange (bitsAt d 64 48) (bitsAt d 128 40) = false
      then s.dmaStop 1
      else if bitAt d 112 then s.dmaTake (bitsAt d 64 48) (bitsAt d 128 40) (bitAt d 113) r
      else s.dmaOut (bitsAt d 0 64) (bitsAt d 64 48) (bitsAt d 128 40) (bitAt d 113) := by
  subst hd ha
  simp only [dmaStep, hbusy, hst, hcut, hstop, hnear, hbad, bne_self_eq_false, Bool.false_and, Bool.not_true, Bool.or_self, Bool.false_eq_true, if_false]

end

theorem dmaOut_moves {s : State} {dev n : Nat} (h : s.badIn dev n = none) (host : Nat) (irq : Bool) :
    s.dmaOut host dev n irq = (s.emit (.hostWrite host (s.pread dev n))).dmaPass irq := by
  rw [State.dmaOut, h]

theorem dmaTake_moves {s : State} {dev n : Nat} {bs : List Byte} (hlen : bs.length = n) (h : s.badMerge dev n = none) (irq : Bool) :
    s.dmaTake dev n irq (.ok bs) = (s.pwrite dev bs).dmaPass irq := by
  subst hlen
  simp [State.dmaTake, State.dmaIn, h]

theorem dmaTake_stops {s : State} {dev n : Nat} {bs : List Byte} (hlen : bs.length ≤ n) (h : s.badMerge dev bs.length = none) (irq : Bool) :
    s.dmaTake dev n irq (.error bs) = (s.pwrite dev bs).dmaStop 3 := by
  simp [State.dmaTake, State.dmaIn, h, Nat.not_lt.2 hlen]

/-- Settles O58: each event by the fields that it finds. -/
theorem dmaMovesBytes : Obligations.DmaMovesBytes := by
  intro s v size head tail nt d dev n bs pass stop r hs hsize hhead htail hnt
  subst hsize hhead htail hnt
  refine ⟨fun htakes hen => ?_, fun htakes hen hv => ?_, fun hpass hstopf hbusy hst hcut hstop hnear hbad hd hdev hn => ?_⟩
  · rw [dmaTail_written htakes hen]
    exact ⟨fun h1 h2 => by rw [if_pos ⟨h1, h2⟩], fun h => by rw [if_neg (by omega)]⟩
  · have hrd := fun {f : Fld} (hf : f ∈ dmaCleared) => dmaStarted_cleared hs hf v.toNat
    refine ⟨_, dmaEnable_starts hs htakes hen hv, ?_, hrd (by decide), hrd (by decide), ?_, hrd (by decide), hrd (by decide),
      dmaStarted_ring hs (by decide) _, dmaStarted_ring hs (by decide) _, congrArg (· == 1) (dmaStarted_badTail hs _), ?_⟩
    · rw [State.flag, dmaStarted_ring hs (by decide)]
      exact (bitsAt_eq_one ..).trans hv
    · rw [State.flag, hrd (by decide)]
      rfl
    · rw [State.dmaStarted, wrAll_eq_regs, puts_eq_regs s dmaRing_ok]
  · have hread := dmaStep_reads hbusy hst hcut hstop rfl hnear hbad hd
    rw [← hdev, ← hn] at hread
    have hexec : ∀ {r u}, dmaStep s r = u → exec (.dmaDescriptor r) s = .next u := fun h => congrArg Host.Outcome.next h
    subst hpass hstopf
    refine ⟨fun h => hexec ((hread r).trans (if_pos h)), fun h1 h2 h3 h4 => ?_⟩
    have hgood : ¬(bitsAt d 114 14 ≠ 0 ∨ bitsAt d 168 88 ≠ 0 ∨ n = 0 ∨ s.dmaRange dev n = false) := by simp [h1, h2, h3, h4]
    refine ⟨fun hdir hin => hexec ?_, fun hdir hlen hin => hexec ?_, fun hdir hlen hin => hexec ?_⟩
    · rw [hread, if_neg hgood, hdir, if_neg Bool.false_ne_true, dmaOut_moves hin]
      rfl
    · rw [hread, if_neg hgood, if_pos hdir, dmaTake_moves hlen hin]
      rfl
    · rw [hread, if_neg hgood, if_pos hdir, dmaTake_stops hlen hin]
      rfl

end Sys2Proof.Machine
end

section
/-! PROOF. The board controller's commands (O60): what each answers once it has reached the device. -/

namespace Sys2Proof.Machine

/-- The note of a command's byte leaves the fields that share no bit with it. -/
theorem noted_rd {s : State} (hs : s.regsWf = true) {f : Fld} (hf : R.MGT_I3C_LAST_CMD.away f = true) (k : Nat) :
    (s.wr R.MGT_I3C_LAST_CMD k).rd f = s.rd f := wr_rd_away hs (by decide) hf ..

/-- A limit of the board between 1,500 and 3,300 W stands as it was written. -/
theorem heldLimit_between {w : Nat} (hlo : 1500 ≤ w) (hhi : w ≤ 3300) : heldLimit w = w := by
  rw [heldLimit]
  omega

theorem setCapNow_replies {s : State} (hs : s.regsWf = true) {w : Nat} (hlo : 1500 ≤ w) (hhi : w ≤ 3300) :
    setCapNow w s = (s.wr R.PWR_CAP_BOARD_LIMIT_W w).reply 0 (leBytes 2 w) := by
  have hheld := heldLimit_between hlo hhi
  have hrd := boardLimit_wr hs w
  rw [hheld] at hrd
  rw [setCapNow, setLimit_eq, if_pos hheld, hheld, hrd]

theorem i3cCutNow_orders {s : State} (hst : s.rd R.MGT_START_STATE = 2) (hcut : s.flag R.DBG_CUT_STAT_CUT = false) (hacted : s.cutNowActed = false) :
    i3cCutNow s = ((s.orderCut.act objCut).reply 0 []).settle := by
  rw [i3cCutNow, hst, hcut, hacted]
  rfl

theorem i3cCutNow_refuses {s : State} (h2 : s.rd R.MGT_START_STATE ≠ 2) (h3 : s.rd R.MGT_START_STATE ≠ 3) : i3cCutNow s = s.reply 2 [] := by
  rw [i3cCutNow, bne_iff_ne.2 h2, bne_iff_ne.2 h3]
  rfl

theorem enterSafeNow_enters {s : State} (hst : s.rd R.MGT_START_STATE < 3) (hsafe : (s.enterSafe 0 safetyOrder).rd R.MGT_START_STATE = 3) :
    enterSafeNow 0x5AFE s = (s.enterSafe 0 safetyOrder).reply 0 [] := by
  rw [enterSafeNow, if_neg (by simp), if_neg fun h => by omega]
  exact if_pos ⟨hsafe, by omega⟩

/-- Settles O60: each command by what it does once its byte has been noted. -/
theorem theBoardControllerCommands : Obligations.TheBoardControllerCommands := by
  intro s u addr x out hup hout
  subst hout
  refine ⟨?_, fun hassigned at_ hat => ?_⟩
  · show Host.Outcome.next (entdaaNow s addr.toNat) = _
    rw [entdaaNow, if_pos hup]
    rfl
  subst hat
  have hrun : ∀ {k : Nat} {f : State → State} {t : State}, f (s.wr R.MGT_I3C_LAST_CMD k) = t →
      (.next (s.i3cCommand k f) : Host.Outcome State Fault Refusal) = .next t :=
    fun h => congrArg Host.Outcome.next ((i3cCommand_taken hup hassigned ..).trans h)
  have hneq : ∀ {c : BitVec 16}, x ≠ c → x.toNat ≠ c.toNat := fun h he => h (BitVec.eq_of_toNat_eq he)
  refine ⟨hrun rfl, fun hlo hhi hs => hrun (setCapNow_replies (wr_regsWf hs ..) hlo hhi), hrun rfl, fun hs hst hcut hacted => hrun ?_,
    fun hs h2 h3 => hrun ?_, fun hx hs hst hu hsafe => hrun ?_, fun hx => hrun (if_pos (hneq hx)), fun hx => hrun ?_, fun hx => hrun (if_neg (hneq hx)),
    hrun rfl⟩
  · have hcut' : (s.wr R.MGT_I3C_LAST_CMD 4).flag R.DBG_CUT_STAT_CUT = false := by
      rw [State.flag, wr_rd_ne hs _ _ _ _ _ _ (by decide)]
      exact hcut
    exact i3cCutNow_orders ((noted_rd hs (by decide) 4).trans hst) hcut' hacted
  · have hst := noted_rd hs (f := R.MGT_START_STATE) (by decide) 4
    exact i3cCutNow_refuses (hst ▸ h2) (hst ▸ h3)
  · subst hx hu
    exact enterSafeNow_enters (noted_rd hs (f := R.MGT_START_STATE) (by decide) 5 ▸ hst) hsafe
  · subst hx
    rfl

end Sys2Proof.Machine
end

section
/-! PROOF. Trust and safety (O55): pushed images, attestation, life-cycle tokens, the TAP, and the entry to SAFE. -/

namespace Sys2Proof.Machine

-- Images (R385, R387).

theorem tryImage_good {s : State} {im : List Byte} (h : (s.checkImage (some im)).1 = 0) (pushed : Bool) :
    s.tryImage (some im) pushed =
      ((((s.checkImage (some im)).2.useImage (im.take (imgLength im))).setFlag R.MGT_START_PUSHED pushed).setStart stStarting).wr R.MGT_START_PHASE 4 := by
  rw [State.tryImage]
  exact if_neg (c := ((s.checkImage (some im)).1 != 0) = true) (by rw [h]; decide)

theorem tryImage_bad {s : State} {im : List Byte} (h : (s.checkImage (some im)).1 ≠ 0) (pushed : Bool) :
    s.tryImage (some im) pushed = (s.checkImage (some im)).2.recovery (s.checkImage (some im)).1 := by
  rw [State.tryImage]
  exact if_pos (c := ((s.checkImage (some im)).1 != 0) = true) (bne_iff_ne.2 h)

theorem push_tries {s : State} {v : Word} (hst : s.rd R.MGT_START_STATE = 1) (htakes : s.takesWrites .MGT R.MGT_PUSH_GO.off = true)
    (hv : v.getLsbD R.MGT_PUSH_GO.lo = true) :
    exec (.push v) s = .next ((s.tryImage (some (s.pread scratchBase (min (bitsAt v.toNat R.MGT_PUSH_LEN.lo R.MGT_PUSH_LEN.wid) 0x1000000))) true).act
      objDevice) := by
  have hone : (hw8 v.toNat).one R.MGT_PUSH_GO = true := (hw8_one (by decide) rfl v).trans hv
  have hlen : (hw8 v.toNat).get R.MGT_PUSH_LEN = some (bitsAt v.toNat R.MGT_PUSH_LEN.lo R.MGT_PUSH_LEN.wid) := hw8_get (by decide) _
  refine congrArg Host.Outcome.next ((hostGate_taken htakes _).trans ?_)
  rw [pushWrite, hone, hst, hlen]
  rfl

-- Attestation (R390).

theorem attestationRequest_written {s : State} {v : Word} (htakes : s.takesWrites .SEC R.SEC_ATT_CTL_GO.off = true)
    (hv : v.getLsbD R.SEC_ATT_CTL_GO.lo = true) (hbusy : s.flag R.SEC_ATT_CTL_BUSY = false) :
    exec (.attestationRequest v) s = .next (if s.attests then s.wr R.SEC_ATT_CTL_BUSY 1 else s.wr R.SEC_ATT_CTL_RESULT 2) := by
  have hone : (hw8 v.toNat).one R.SEC_ATT_CTL_GO = true := (hw8_one (by decide) rfl v).trans hv
  refine congrArg Host.Outcome.next ((hostGate_taken htakes _).trans ?_)
  rw [attCtlWrite, hone, hbusy]
  rfl

theorem reportDone_signs {s : State} (hbusy : s.flag R.SEC_ATT_CTL_BUSY = true) (hstop : s.recd.stopped = false)
    (hcut : s.flag R.DBG_CUT_STAT_CUT = false) :
    reportDone s = ({ s with boot := { s.boot with report :=
      s.reportBody ++ (Config.mldsaSign s.reportBody ++ List.replicate 4627 0).take 4627 } }.wr R.SEC_ATT_CTL_BUSY 0).wr R.SEC_ATT_CTL_RESULT 0 := by
  rw [reportDone, hbusy, hstop, hcut]
  rfl

-- Life-cycle tokens (R393).

/-- A token in memory moves the state, or changes the nonce. -/
theorem lcToken_written {s : State} {v : Word} (htakes : s.takesWrites .MGT R.MGT_LC_TOKEN_ADDR.off = true) {a target : Nat}
    (ha : a = 64 * bitsAt v.toNat R.MGT_LC_TOKEN_ADDR.lo R.MGT_LC_TOKEN_ADDR.wid) (ht : target = leNat (((s.pread a 48).drop 32).take 1)) {good free : Bool}
    (hgood : good = (s.pread a 48 == s.lcMessage target && lcNext s.lifeCycle target &&
      (s.lifeCycle == 3 || Config.mldsaVerify Config.lifecycleKey (s.pread a 48) (s.pread (a + 48) 4627))))
    (hfree : free = (List.range 16).all fun c => s.cxState c == 0) :
    exec (.lcToken v) s = .next (if free && good then ((s.act 0).wr R.MGT_LC_RESULT 1).lcMove target
      else ({ s.act 0 with nonces := s.nonces + 1 }.wr R.MGT_LC_NONCE_NONCE (Config.nonce s.nonces).toNat).wr R.MGT_LC_RESULT (if free then 2 else 3)) := by
  have hget : (hw8 v.toNat).get R.MGT_LC_TOKEN_ADDR = some (bitsAt v.toNat R.MGT_LC_TOKEN_ADDR.lo R.MGT_LC_TOKEN_ADDR.wid) := hw8_get (by decide) _
  refine congrArg Host.Outcome.next ((hostGate_taken htakes _).trans ?_)
  subst hgood hfree ht ha
  rw [Nat.mul_comm 64]
  simp only [lcTokenWrite, hget]
  rfl

theorem cxStates_free {s : State} (h : ∀ c < 16, s.cxState c = 0) : true = (List.range 16).all fun c => s.cxState c == 0 :=
  (List.all_eq_true.2 fun c hc => beq_iff_eq.2 (h c (List.mem_range.1 hc))).symm

theorem cxStates_held {s : State} (h : ∃ c < 16, s.cxState c ≠ 0) : false = (List.range 16).all fun c => s.cxState c == 0 := by
  obtain ⟨c, hc, hne⟩ := h
  exact (List.all_eq_false.2 ⟨c, List.mem_range.2 hc, by simpa using hne⟩).symm

-- SAFE (R399, R400).

theorem tapOrder_not {s : State} (h : s.rd R.MGT_START_STATE ≠ 2) : s.tapOrder = s := if_neg h

theorem tapOrder_safe {s : State} (h : s.rd R.MGT_START_STATE = 2) : s.tapOrder = s.enterSafe 0 safetyOrder := if_pos h

/-- Every context torn down. -/
def State.allTorn (s : State) : State := (List.range 16).foldl (fun (s : State) c => s.faultCx c { code := 0x0A }) s

/-- What the entry to SAFE does once every context has been torn down. -/
def State.safeFrom (s : State) (unit test : Nat) : State :=
  let s := { s with slice := {} }.setFlag R.BST_STAT_ACTIVE false
  let s := (s.wr R.MGT_START_SAFE_UNIT unit).setStart stSafe
  let s := s.updBoot fun b => { b with safeAt := some s.clock, safeTest := test }
  (s.act objDevice).settle

theorem enterSafe_eq (s : State) (n k : Nat) : s.enterSafe n k =
    if 3 ≤ s.rd R.MGT_START_STATE ∨ s.flag R.DBG_CUT_STAT_CUT = true ∨ s.recd.stopped = true then s else s.allTorn.safeFrom n k := rfl

theorem safeFrom_eq {s u w : State} (n k : Nat) (hu : u = { s with slice := {} }.setFlag R.BST_STAT_ACTIVE false)
    (hw : w = (u.wr R.MGT_START_SAFE_UNIT n).setStart 3) :
    s.safeFrom n k = ({ w with boot := { w.boot with safeAt := some w.clock, safeTest := k } }.act 0).settle := by
  subst hw hu
  rfl

theorem enterSafe_enters {s : State} (hst : s.rd R.MGT_START_STATE < 3) (hcut : s.flag R.DBG_CUT_STAT_CUT = false) (hstop : s.recd.stopped = false)
    (n k : Nat) : s.enterSafe n k = s.allTorn.safeFrom n k := by
  rw [enterSafe_eq, hcut, hstop, if_neg (by simpa using hst)]

/-- The ports of the device go DOWN. -/
def State.portsShut (s : State) : State := (List.range 18).foldl (fun (s : State) p => if s.portState p = 4 then s else s.portDown p false) s

/-- What follows once the ports are DOWN. -/
def State.shutReported (s : State) : State :=
  let s := { s with txWait := [] }.updBoot fun b => { b with safeAt := none }
  let s := s.reelEvent 0x12 (blkIndex .MGT) noCx (leBytes 1 (s.rd R.MGT_START_SAFE_UNIT) ++ leBytes 1 s.boot.safeTest)
  s.msix (s.rd R.MGT_START_SAFE_VECTOR)

theorem shutReported_eq {w x : State} (hx : x = { w with txWait := [], boot := { w.boot with safeAt := none } }) :
    ∃ y, y = x.reelEvent 0x12 (blkIndex .MGT) 0xFF (leBytes 1 (x.rd R.MGT_START_SAFE_UNIT) ++ leBytes 1 x.boot.safeTest) ∧
      w.shutReported = y.msix (y.rd R.MGT_START_SAFE_VECTOR) := by
  subst hx
  exact ⟨_, rfl, rfl⟩

theorem portShutdown_shuts {s : State} (hst : s.rd R.MGT_START_STATE = 3) (hlive : s.portsLive = true) {t : Nat} (ht : s.boot.safeAt = some t)
    (hdue : t + 1000000 ≤ s.clock) : portShutdown s = s.portsShut.shutReported := by
  have htime : decide (s.clock < 1000000 + t) = false := decide_eq_false (by omega)
  simp only [portShutdown, State.portsShut, ht, hst, hlive, htime, bne_self_eq_false, Bool.not_true, Bool.or_self, Bool.false_eq_true, if_false,
    beq_iff_eq]
  rfl

/-- Settles O55: each event by the state that it finds. -/
theorem trustAndSafety : Obligations.TrustAndSafety := by
  intro s u v im a target
  have hexec : ∀ {i : Instr} {r t : State}, exec i s = .next r → r = t → exec i s = .next t := fun h e => e ▸ h
  refine ⟨fun hst htakes hv him hu => ?_, fun htakes hv hbusy => ?_, fun hbusy hstop hcut => congrArg Host.Outcome.next (reportDone_signs hbusy hstop hcut),
    fun htakes ha ht good hgood => ?_, ?_, rfl, fun hst hcut hstop n k hu w hw => (enterSafe_enters hst hcut hstop n k).trans (safeFrom_eq n k hu hw),
    fun hst hlive t ht hdue w x hw hx => ?_⟩
  · have hpush := push_tries hst htakes hv
    subst hu
    rw [← him] at hpush
    exact ⟨fun h => hexec hpush (congrArg (State.act · objDevice) (tryImage_good h true)),
      fun h => hexec hpush (congrArg (State.act · objDevice) (tryImage_bad h true))⟩
  · have hreq := attestationRequest_written htakes hv hbusy
    exact ⟨fun h => hexec hreq (if_pos h), fun h => hexec hreq (if_neg (by simp [h]))⟩
  · refine ⟨fun hfree hg => ?_, fun hfree hg => ?_, fun hheld => ?_⟩
    · exact hexec (lcToken_written htakes ha ht hgood (cxStates_free hfree)) (by rw [hg]; rfl)
    · exact hexec (lcToken_written htakes ha ht hgood (cxStates_free hfree)) (by rw [hg]; rfl)
    · exact hexec (lcToken_written htakes ha ht hgood (cxStates_held hheld)) rfl
  · exact ⟨rfl, rfl, rfl,
      fun h => ⟨congrArg Host.Outcome.next (tapOrder_safe h), congrArg Host.Outcome.next (tapOrder_safe h)⟩,
      fun h => congrArg Host.Outcome.next (tapOrder_not h), fun h hl => congrArg Host.Outcome.next (by rw [tapLoad, tapOrder_not h]; exact if_pos hl),
      fun h => congrArg Host.Outcome.next (if_pos h)⟩
  · obtain ⟨y, hy, hshut⟩ := shutReported_eq hx
    refine ⟨y, hy, congrArg Host.Outcome.next ?_⟩
    rw [portShutdown_shuts hst hlive ht hdue, ← hshut, hw, State.portsShut]

end Sys2Proof.Machine
end

section
/-! PROOF. Starts (O54): the fall and rise of power, and the phases P0 to P7. -/

namespace Sys2Proof.Machine

-- Fields written one after another, of any blocks.

/-- Two fields that share no bit: of other registers, or apart in one. -/
def Fld.clearOf (f g : Fld) : Bool := f.away g || decide (g.addr ≠ f.addr)

theorem wr_rd_clear {s : State} (hs : s.regsWf = true) {f g : Fld} (hf : f.ok = true) (h : f.clearOf g = true) (v : Nat) :
    (s.wr f v).rd g = s.rd g := by
  rw [Fld.clearOf, Bool.or_eq_true, decide_eq_true_eq] at h
  rcases h with h | h
  · exact wr_rd_away hs hf h ..
  · exact wr_rd_ne hs _ _ _ _ _ _ h

theorem wrAll_rd_clear {s : State} (hs : s.regsWf = true) {l : List (Fld × Nat)} {g : Fld} (hok : ∀ p ∈ l, p.1.ok = true)
    (ha : ∀ p ∈ l, p.1.clearOf g = true) : (s.wrAll l 0).rd g = s.rd g := by
  induction l generalizing s with
  | nil => rfl
  | cons p l ih =>
    obtain ⟨hp, hl⟩ := List.forall_mem_cons.1 hok
    obtain ⟨hpg, hlg⟩ := List.forall_mem_cons.1 ha
    exact (ih (wr_regsWf hs ..) hl hlg).trans (wr_rd_clear hs hp hpg _)

theorem wrAll_rd_in {s : State} (hs : s.regsWf = true) {l : List (Fld × Nat)} {f : Fld} {v : Nat} (hok : ∀ p ∈ l, p.1.ok = true)
    (ha : l.Pairwise fun p q => q.1.clearOf p.1 = true) (hm : (f, v) ∈ l) : (s.wrAll l 0).rd f = v % 2 ^ f.wid := by
  induction l generalizing s with
  | nil => exact absurd hm List.not_mem_nil
  | cons p l ih =>
    obtain ⟨hp, hl⟩ := List.forall_mem_cons.1 hok
    obtain ⟨hpl, hll⟩ := List.pairwise_cons.1 ha
    rcases List.mem_cons.1 hm with rfl | hm
    · exact (wrAll_rd_clear (wr_regsWf hs ..) hl hpl).trans (wr_rd_same hs hp ..)
    · exact ih (wr_regsWf hs ..) hl hll hm

-- Power (R357, R378, R427).

/-- What a start writes to the registers of a fresh block. -/
def bootWrites (mode keep rec nonce : Nat) : List (Fld × Nat) :=
  [(R.REC_STAT_MODE, mode), (R.REC_STAT_KEEP, keep), (R.MGT_START_STATE, 0), (R.MGT_START_PHASE, 0), (R.REC_NONCE, rec), (R.MGT_LC_NONCE_NONCE, nonce)]

/-- The fields that a start writes. -/
def bootFields : List Fld := [R.REC_STAT_MODE, R.REC_STAT_KEEP, R.MGT_START_STATE, R.MGT_START_PHASE, R.REC_NONCE, R.MGT_LC_NONCE_NONCE]

theorem bootWrites_map (m k r n : Nat) : (bootWrites m k r n).map Prod.fst = bootFields := rfl

theorem bootWrites_all {P : Fld → Prop} (h : ∀ f ∈ bootFields, P f) (m k r n : Nat) : ∀ p ∈ bootWrites m k r n, P p.1 := fun _ hp =>
  h _ (bootWrites_map m k r n ▸ List.mem_map_of_mem hp)

theorem bootFields_pairwise : bootFields.Pairwise fun f g => g.clearOf f = true := by decide

theorem bootWrites_pairwise (m k r n : Nat) : (bootWrites m k r n).Pairwise fun p q => q.1.clearOf p.1 = true := by
  have h := bootFields_pairwise
  rwa [← bootWrites_map m k r n, List.pairwise_map] at h

theorem bootWrites_rd {f : Fld} {v m k r n : Nat} (hm : (f, v) ∈ bootWrites m k r n) (hv : v < 2 ^ f.wid) :
    (State.reset.wrAll (bootWrites m k r n) 0).rd f = v :=
  (wrAll_rd_in reset_regsWf (bootWrites_all (P := fun f => f.ok = true) (by decide) m k r n) (bootWrites_pairwise m k r n) hm).trans (Nat.mod_eq_of_lt hv)

theorem bootWrites_cxState {c : Nat} (hc : c < 16) (m k r n : Nat) : (State.reset.wrAll (bootWrites m k r n) 0).cxState c = 0 := by
  have hbelow : ∀ f ∈ bootFields, f.addr < blkBase .CX := by decide
  have hword : (State.reset.wrAll (bootWrites m k r n) 0).word (R.CX_STATUS_STATE.addr c) = State.reset.word (R.CX_STATUS_STATE.addr c) :=
    wrAll_word_ne reset_regsWf (bootWrites_all (P := fun f => R.CX_STATUS_STATE.addr c ≠ f.addr) (fun f hf => by
      have := hbelow f hf
      have : R.CX_STATUS_STATE.addr c = blkBase .CX + blkStride .CX * c + R.CX_STATUS_STATE.off + R.CX_STATUS_STATE.sub * 0 := rfl
      omega) m k r n)
  obtain ⟨-, -, -, hfree, -⟩ := resetIsTheReleasedBlock
  exact (rd_of_word hword).trans (hfree c hc)

theorem beginStart_regs {s : State} (h : s.rd R.MGT_START_STATE ≠ 0) :
    s.beginStart.regs = (State.reset.wrAll (bootWrites (s.rd R.REC_STAT_MODE) (s.rd R.REC_STAT_KEEP) (Config.nonce s.nonces).toNat
      (Config.nonce (s.nonces + 1)).toNat) 0).regs := by
  rw [State.beginStart, if_neg h]
  rfl

theorem rd_lt (s : State) (f : Fld) (n i : Nat) : s.rd f n i < 2 ^ f.wid := bitsAt_lt ..

theorem pwrfailRise_starts {s : State} (hpwr : s.boot.pwrfail = false) (hst : s.rd R.MGT_START_STATE ≠ 0) :
    ∃ t : State, exec .pwrfailRise s = .next t ∧ t.pending = s.pending ∧ t.reel = s.reel ∧
      t.boot.fuses = s.boot.fuses ∧ t.boot.pwrfail = true ∧ t.rd R.REC_STAT_MODE = s.rd R.REC_STAT_MODE ∧ t.rd R.REC_STAT_KEEP = s.rd R.REC_STAT_KEEP ∧
      t.rd R.MGT_START_STATE = 0 ∧ t.rd R.MGT_START_PHASE = 0 ∧ t.mem = [] ∧ t.cmds = [] ∧ t.cast = [] ∧ t.clock = 0 ∧
      t.rd R.REC_NONCE = (Config.nonce s.nonces).toNat ∧ t.rd R.MGT_LC_NONCE_NONCE = (Config.nonce (s.nonces + 1)).toNat ∧
      t.outs = s.outs ++ [.ibi 0] ∧ (∀ c < 16, t.cxState c = 0) := by
  have hregs := beginStart_regs hst
  have hrd : ∀ {f : Fld} {v : Nat}, (f, v) ∈ bootWrites (s.rd R.REC_STAT_MODE) (s.rd R.REC_STAT_KEEP) (Config.nonce s.nonces).toNat
      (Config.nonce (s.nonces + 1)).toNat → v < 2 ^ f.wid → s.beginStart.rd f = v := fun hm hv => (rd_congr hregs _ 0 0).trans (bootWrites_rd hm hv)
  have hemit : s.beginStart.outs = s.outs ++ [.ibi 0] := by
    rw [State.beginStart, if_neg hst]
    rfl
  have hkeep : s.beginStart.pending = s.pending ∧ s.beginStart.reel = s.reel ∧ s.beginStart.boot.fuses = s.boot.fuses ∧
      s.beginStart.boot.pwrfail = true ∧ s.beginStart.mem = [] ∧ s.beginStart.cmds = [] ∧ s.beginStart.cast = [] ∧ s.beginStart.clock = 0 := by
    rw [State.beginStart, if_neg hst]
    exact ⟨rfl, rfl, rfl, rfl, rfl, rfl, rfl, rfl⟩
  obtain ⟨hpend, hreel, hfuses, hup, hmem, hcmds, hcast, hclock⟩ := hkeep
  refine ⟨s.beginStart, congrArg Host.Outcome.next (if_neg (by rw [hpwr]; decide)), hpend, hreel, hfuses, hup, hrd (by simp [bootWrites]) (rd_lt ..),
    hrd (by simp [bootWrites]) (rd_lt ..), hrd (by simp [bootWrites]) (by decide), hrd (by simp [bootWrites]) (by decide), hmem, hcmds, hcast, hclock,
    hrd (by simp [bootWrites]) (BitVec.isLt _), hrd (by simp [bootWrites]) (BitVec.isLt _), hemit, fun c hc => ?_⟩
  exact (rd_congr hregs _ c 0).trans (bootWrites_cxState hc ..)

/-- REC has written its last record. -/
def State.powerless (w : State) : State := (w.updRec fun r => { r with stopped := true }).updBoot fun b => { b with pwrfail := false }

theorem powerless_eq (w : State) : w.powerless = { w with recd := { w.recd with stopped := true }, boot := { w.boot with pwrfail := false } } := rfl

theorem pwrfailFall_stops {s u w : State} (hpwr : s.boot.pwrfail = true)
    (hu : u = { s with recd := { s.recd with queue := [], lost := 0, clearDue := none } }.flushRepeat)
    (hw : w = u.recWrite ⟨0x11, blkIndex .REC, 0xFF, [], u.now⟩) :
    pwrfailFallNow s = { w with recd := { w.recd with stopped := true }, boot := { w.boot with pwrfail := false } } := by
  subst hw hu
  rw [← powerless_eq, pwrfailFallNow, hpwr]
  rfl

-- P0 to P4 (R357, R379).

theorem fuseEnd_reads {s u : State} (h : s.inPhase 0 = true)
    (hu : u = (((s.wr R.MGT_LC_STATE (s.fuse 0)).wr R.MGT_LC_SECRET (s.fuse 1)).wr R.MGT_LC_OWNERS (s.fuse 3)).scanReel) :
    fuseEnd s = if s.fuse 0 = 0 ∨ s.fuse 0 = 4 then u.setStart 5 else u.wr R.MGT_START_PHASE 1 := by
  subst hu
  simp only [fuseEnd, h, fuseLc, fuseSecret, fuseOwners, stHalted, Bool.not_true, Bool.false_eq_true, if_false]
  rfl

theorem secTest_ends {s : State} (h : s.inPhase 1 = true) (ok : Bool) :
    exec (.secTest ok) s = .next (if ok then s.wr R.MGT_START_PHASE 2 else s.enterSafe (blkIndex .SEC) 1) :=
  congrArg Host.Outcome.next (if_neg (by rw [h]; decide))

theorem image_tried {s : State} (h : s.inPhase 3 = true) (im : List Byte) : exec (.image (some im)) s = .next (s.tryImage (some im) false) :=
  congrArg Host.Outcome.next (if_pos h)

theorem selfTestEnd_trains {s : State} (h : s.inPhase 4 = true) :
    selfTestEnd s none = ((List.range 18).foldl (fun s p => if s.flag R.LK_CTL_EN p then s.train p else s.setPort p 4)
      (s.wr R.MGT_START_PHASE 5)).rollEnd := by
  simp only [selfTestEnd, h, Bool.not_true, Bool.false_eq_true, if_false]

theorem selfTestEnd_fails {s : State} (h : s.inPhase 4 = true) {n : Nat} (hn : n < 256) : selfTestEnd s (some n) = s.enterSafe n 1 := by
  rw [selfTestEnd, h]
  exact congrArg (s.enterSafe · 1) (Nat.mod_eq_of_lt hn)

-- P5 (R230, R233).

/-- A stack with no record in the reel has its spare, and stands for no channel. -/
theorem repairRead_none {s : State} {j : Nat} (h : recordValid (s.reelSlot (1 + j)) = false) : s.repairRead j = (0x100000000, 255) :=
  if_neg fun hr => by simp [h] at hr

theorem stackMap_whole : stackMap 0x100000000 255 [] = (255, []) := by decide

/-- A near tier with nothing bad and no repair records loses nothing. -/
structure Whole (s t : State) : Prop where
  regsWf : t.regsWf = true
  removed : t.nt.removed = []
  reel : t.reel = s.reel

theorem mapNear_whole {s : State} (hs : s.regsWf = true) (hrem : s.nt.removed = []) (hrec : ∀ j < 12, recordValid (s.reelSlot (1 + j)) = false) :
    Whole s (s.mapNear []) := by
  refine List.foldlRecOn _ _ (motive := Whole s) ⟨hs, hrem, rfl⟩ fun t ht j hj => ?_
  have hslot : recordValid (t.reelSlot (1 + j)) = false := by
    rw [State.reelSlot, ht.reel]
    exact hrec j (List.mem_range.1 hj)
  have hspare : bitsAt 0x100000000 32 2 = 1 := by decide
  simp only [repairRead_none hslot, List.filter_nil, List.map_nil, stackMap_whole, hspare]
  exact ⟨wr_regsWf ht.regsWf .., (List.append_nil _).trans ht.removed, ht.reel⟩

/-- Writes to the near tier's registers alone. -/
structure NtWrites (s t : State) : Prop where
  regsWf : t.regsWf = true
  nt : t.nt = s.nt
  boot : t.boot = s.boot
  word : ∀ a < blkBase .NT, t.word a = s.word a

theorem NtWrites.wr {s t : State} (h : NtWrites s t) {f : Fld} (hf : f.blk = .NT) (v i : Nat) : NtWrites s (t.wr f v 0 i) where
  regsWf := wr_regsWf h.regsWf ..
  nt := h.nt
  boot := h.boot
  word := fun a ha => (setWord_word_ne h.regsWf _ (by rw [Fld.addr, hf]; omega)).trans (h.word a ha)

theorem NtWrites.wr_nt {s t : State} (h : NtWrites s t) (f : Fld) (v : Nat) : (t.wr f v).nt = s.nt := h.nt

theorem layDomains_writes {s : State} (hs : s.regsWf = true) : NtWrites s s.layDomains := by
  refine List.foldlRecOn _ _ (motive := fun q : State × Nat => NtWrites s q.1) ((NtWrites.mk hs rfl rfl fun _ _ => rfl).wr rfl _ 0) fun q hq i _ => ?_
  exact (((hq.wr rfl _ i).wr rfl _ i).wr rfl _ i).wr rfl _ i

theorem slowInUse_all : slowInUse (List.replicate 32 (some true)) = 32 := by decide

/-- With every package in use none is recorded. -/
theorem slowRecords_none (s : State) (slow : List (Option Bool)) : (List.range 32).foldl (fun s p =>
    if 32 ≤ p ∧ nth none slow p ≠ none then s.reelEvent 0x05 (blkIndex .UD) noCx (leBytes 1 p) else s) s = s := by
  refine List.foldlRecOn _ _ (motive := (· = s)) rfl fun t ht p hp => ?_
  have := List.mem_range.1 hp
  rw [if_neg (by omega), ht]

theorem reports_repairRecords (s : State) : Reports s ((List.range 12).foldl (fun s j => s.repairRecord j) s) :=
  List.foldlRecOn _ _ (motive := Reports s) (.refl s) fun _ ht _ _ => ht.trans (reports_reelEvent ..)

/-- The near tier's population, with every channel in use. -/
def State.nearCounted (r : State) : State := (r.wr R.MGT_POPULATION_NEAR_CH_LIVE 192).wr R.MGT_POPULATION_NEAR_GIB 1152

/-- The end of P5, with every channel and every package in use. -/
def State.populated (r : State) : State :=
  ((r.nearCounted.layDomains.wr R.MGT_POPULATION_SLOW_PKGS 32).updBoot fun b => { b with memDone := true }).wr R.MGT_START_PHASE 6

theorem memoryEnd_populates {s m r : State} (hin : s.inMemory = true) (hdone : s.boot.memDone = false) (hm : s.mapNear [] = m)
    (hnone : m.nt.removed = []) (hr : (List.range 12).foldl (fun s j => s.repairRecord j) m = r) (hleft : r.nt.removed = []) :
    memoryEnd s [] (List.replicate 32 (some true)) = r.populated := by
  have hkept : (r.wr R.MGT_POPULATION_NEAR_CH_LIVE 192).nt.removed = [] := hleft
  have hsome : ((32 : Nat) = 0) = False := eq_false (by decide)
  have hfew : ((List.range 12).any fun _ => decide (4 < 0)) = false := by decide
  simp only [memoryEnd, hin, hdone, hm, hr, hnone, hleft, hkept, hfew, slowInUse_all, slowRecords_none, List.filter_nil, List.length_nil,
    Bool.not_true, Bool.or_self, Bool.false_eq_true, if_false, Nat.mul_zero, Nat.sub_zero, hsome,
    State.populated, State.nearCounted]

/-- The end of P5 as the phase sees it: the tiers are mapped. -/
def State.mappedTiers (x : State) : State := (x.updBoot fun b => { b with memDone := true }).wr R.MGT_START_PHASE 6

theorem mappedTiers_rd {x : State} (hx : x.regsWf = true) {f : Fld} (hf : R.MGT_START_PHASE.away f = true) : x.mappedTiers.rd f = x.rd f :=
  (wr_rd_away (s := x.updBoot fun b => { b with memDone := true }) hx (by decide) hf ..).trans (rd_congr rfl f 0 0)

theorem mappedTiers_phase {x : State} (hx : x.regsWf = true) : x.mappedTiers.rd R.MGT_START_PHASE = 6 :=
  wr_rd_same (s := x.updBoot fun b => { b with memDone := true }) hx (by decide) ..

theorem mappedTiers_keeps (x : State) : x.mappedTiers.boot.memDone = true ∧ x.mappedTiers.nt = x.nt := ⟨rfl, rfl⟩

theorem slowCounted_nt {p : State} (hp : p.regsWf = true) : (p.layDomains.wr R.MGT_POPULATION_SLOW_PKGS 32).nt = p.nt :=
  (layDomains_writes hp).wr_nt _ _

theorem nearCounted_nt (r : State) : r.nearCounted.nt = r.nt := rfl

theorem nearCounted_regsWf {r : State} (hr : r.regsWf = true) : r.nearCounted.regsWf = true := wr_regsWf (wr_regsWf hr ..) ..

theorem nearCounted_rd {r : State} (hr : r.regsWf = true) :
    r.nearCounted.rd R.MGT_POPULATION_NEAR_CH_LIVE = 192 ∧ r.nearCounted.rd R.MGT_POPULATION_NEAR_GIB = 1152 := by
  have hlive := wr_regsWf hr R.MGT_POPULATION_NEAR_CH_LIVE 192 0 0
  exact ⟨(wr_rd_away hlive (by decide) (by decide) ..).trans (wr_rd_same hr (by decide) ..), wr_rd_same hlive (by decide) ..⟩

/-- Neither the domains nor the slow tier's population touch the near tier's. -/
theorem slowCounted_near {p : State} (hp : p.regsWf = true) {f : Fld} (hf : f ∈ [R.MGT_POPULATION_NEAR_CH_LIVE, R.MGT_POPULATION_NEAR_GIB]) :
    (p.layDomains.wr R.MGT_POPULATION_SLOW_PKGS 32).rd f = p.rd f := by
  have hfields : ∀ f ∈ [R.MGT_POPULATION_NEAR_CH_LIVE, R.MGT_POPULATION_NEAR_GIB],
      f.addr < blkBase .NT ∧ R.MGT_POPULATION_SLOW_PKGS.away f = true := by decide
  obtain ⟨hlow, hslow⟩ := hfields f hf
  have hlay := layDomains_writes hp
  exact (wr_rd_away hlay.regsWf (by decide) hslow ..).trans (rd_of_word (hlay.word _ hlow))

/-- The populations that the end of P5 leaves with nothing lost. -/
theorem populated_rd {r : State} (hr : r.regsWf = true) :
    r.populated.boot.memDone = true ∧ r.populated.rd R.MGT_START_PHASE = 6 ∧ r.populated.rd R.MGT_POPULATION_NEAR_CH_LIVE = 192 ∧
      r.populated.rd R.MGT_POPULATION_NEAR_GIB = 1152 ∧ r.populated.rd R.MGT_POPULATION_SLOW_PKGS = 32 ∧ r.populated.nt = r.nt := by
  have hp := nearCounted_regsWf hr
  have hlay := layDomains_writes hp
  have hwf := wr_regsWf hlay.regsWf R.MGT_POPULATION_SLOW_PKGS 32 0 0
  have hmapped : r.populated = (r.nearCounted.layDomains.wr R.MGT_POPULATION_SLOW_PKGS 32).mappedTiers := rfl
  obtain ⟨hlive, hgib⟩ := nearCounted_rd hr
  obtain ⟨hdone, hnt⟩ := mappedTiers_keeps (r.nearCounted.layDomains.wr R.MGT_POPULATION_SLOW_PKGS 32)
  rw [hmapped]
  refine ⟨hdone, mappedTiers_phase hwf, ?_, ?_, ?_, hnt.trans ((slowCounted_nt hp).trans (nearCounted_nt r))⟩
  · rw [mappedTiers_rd hwf (by decide), slowCounted_near hp (by decide), hlive]
  · rw [mappedTiers_rd hwf (by decide), slowCounted_near hp (by decide), hgib]
  · exact (mappedTiers_rd hwf (by decide)).trans (wr_rd_same hlay.regsWf (by decide) ..)

-- P6 and P7 (R379).

theorem inMemory_phase {s : State} (h : s.inPhase 5 = true ∨ s.inPhase 6 = true) : s.inMemory = true := Bool.or_eq_true_iff.2 h

theorem fabricEnd_ends {s : State} (hin : s.inMemory = true) (hdone : s.boot.fabDone = false) (hports : ∀ p < 18, s.portState p ≠ 1 ∧ s.portState p ≠ 2)
    (hbusy : s.flag R.TSU_CLAP_BUSY = false) (hclap : s.flag R.TSU_CLAP_DONE = true ∨ s.flag R.TSU_CLAP_FAIL = true) :
    fabricEnd s = { s with boot := { s.boot with fabDone := true } }.wr R.MGT_START_PHASE 6 := by
  have hnone : ((List.range 18).any fun p => s.portState p == 1 || s.portState p == 2) = false := by
    refine List.any_eq_false.2 fun p hp => ?_
    obtain ⟨h1, h2⟩ := hports p (List.mem_range.1 hp)
    simp [h1, h2]
  rw [fabricEnd, hin, hdone, hnone, hbusy, Bool.or_eq_true_iff.2 hclap]
  rfl

theorem releaseNow_ready {s u : State} (hin : s.inMemory = true) (hmem : s.boot.memDone = true) (hfab : s.boot.fabDone = true)
    (hu : u = s.wr R.MGT_START_PHASE 7) :
    releaseNow s = ((u.reelEvent 0x01 (blkIndex .MGT) 0xFF (leBytes 1 u.lifeCycle ++ u.boot.measures.take 8 ++
      leBytes 1 (u.rd R.MGT_POPULATION_SLOW_PKGS) ++ leBytes 1 (u.rd R.MGT_POPULATION_NEAR_CH_LIVE) ++
      leBytes 1 (u.rd R.MGT_POPULATION_UD_AVAIL))).setStart 2).afterRelease := by
  subst hu
  rw [releaseNow, hin, hmem, hfab]
  rfl

/-- Settles O54: power, then the phases in their order. -/
theorem startsRunTheirPhases : Obligations.StartsRunTheirPhases := by
  intro s n im bad slow
  have hexec : ∀ {i : Instr} {r t : State}, exec i s = .next r → r = t → exec i s = .next t := fun h e => e ▸ h
  refine ⟨fun hpwr u hu w hw => congrArg Host.Outcome.next (pwrfailFall_stops hpwr hu hw), pwrfailRise_starts, fun h u hu => ?_,
    fun h => ⟨secTest_ends h true, secTest_ends h false⟩, fun h => congrArg Host.Outcome.next (if_pos h), fun h => ?_, fun h => ?_, fun h => ?_⟩
  · have hend := fuseEnd_reads h hu
    exact ⟨fun h0 h4 => congrArg Host.Outcome.next (hend.trans (if_neg (by omega))), fun h04 => congrArg Host.Outcome.next (hend.trans (if_pos h04))⟩
  · refine ⟨congrArg Host.Outcome.next (if_pos h), fun hgood => hexec (image_tried h im) (tryImage_good hgood false), fun hbad k hk => ?_⟩
    subst hk
    exact hexec (image_tried h im) (tryImage_bad hbad false)
  · exact ⟨congrArg Host.Outcome.next (selfTestEnd_trains h), fun hn => congrArg Host.Outcome.next (selfTestEnd_fails h hn)⟩
  · have hin := inMemory_phase h
    refine ⟨fun hdone hbad hslow hrec hs hrem => ?_, fun hdone hports hbusy hclap => congrArg Host.Outcome.next (fabricEnd_ends hin hdone hports hbusy hclap),
      fun hmem hfab u hu => congrArg Host.Outcome.next (releaseNow_ready hin hmem hfab hu)⟩
    subst hbad hslow
    have hmap := mapNear_whole hs hrem hrec
    have hreports := reports_repairRecords (s.mapNear [])
    have hleft := (congrArg Tiers.removed hreports.nt).trans hmap.removed
    obtain ⟨hdone', hphase, hlive, hgib, hpkgs, hnt⟩ := populated_rd (hreports.regsWf hmap.regsWf)
    exact ⟨_, congrArg Host.Outcome.next (memoryEnd_populates hin hdone rfl hmap.removed rfl hleft), hdone', hphase, hlive, hgib, hpkgs,
      (congrArg Tiers.removed hnt).trans hleft⟩

end Sys2Proof.Machine
end

section
/-! PROOF. Checkpoints (O57): the list, the snapshot instant, sealing, and the driver's operations. -/

namespace Sys2Proof.Machine

-- EN (R309).

theorem ckptCtlFields_ok : ckptCtlFields.all Fld.ok = true := by decide

/-- What a write of CKPT_CTL leaves of the context: it is as live as before. -/
theorem puts_ckptCtl_live {s : State} (hs : s.regsWf = true) (v c : Nat) : (s.puts (hw8 v) ckptCtlFields c).cxLive c = s.cxLive c := by
  have hstate : (s.puts (hw8 v) ckptCtlFields c).cxState c = s.cxState c := puts_rd_away hs ckptCtlFields_ok (by decide) v c
  rw [State.cxLive, State.cxLive, hstate]

theorem checkpointEnable_reads {s u : State} {c : Fin 16} {v : Word} (htakes : s.takesWrites .CX R.CX_CKPT_CTL_EN.off = true)
    (hen : s.flag R.CX_CKPT_CTL_EN c = false) (hv : v.getLsbD R.CX_CKPT_CTL_EN.lo = true) (hs : s.regsWf = true) (hlive : s.cxLive c = true)
    (hu : u = s.puts (hw8 v.toNat) ckptCtlFields c) : exec (.checkpointEnable c v) s = .next (ckptOn u c).settle := by
  have hone : (hw8 v.toNat).one R.CX_CKPT_CTL_EN = true := (hw8_one (by decide) rfl v).trans hv
  have hget : (hw8 v.toNat).get R.CX_CKPT_CTL_EN = some (bitsAt v.toNat R.CX_CKPT_CTL_EN.lo 1) := hw8_get (by decide) _
  have hafter : (s.after (hw8 v.toNat) R.CX_CKPT_CTL_EN c == 1) = true := by
    rw [State.after, hget]
    exact (bitsAt_eq_one ..).trans hv
  have hulive : u.cxLive c = true := hu ▸ (puts_ckptCtl_live hs ..).trans hlive
  refine congrArg Host.Outcome.next ((hostGate_taken htakes _).trans ?_)
  subst hu
  simp only [hen, hone, ckptCtlWrite, hafter, hulive, Bool.not_true, Bool.or_self, Bool.and_self, Bool.false_eq_true, if_false, if_true]

theorem ckptOn_refuses {s : State} {c i : Nat} (h : s.readList c (List.range (s.rd R.CX_CKPT_CTL_LIST_COUNT c)) [] = .error i) :
    ckptOn s c = s.listRefused c i := by
  rw [ckptOn, h]

theorem ckptOn_starts {s : State} {c : Nat} {rs : List (Nat × Nat × Bool)}
    (h : s.readList c (List.range (s.rd R.CX_CKPT_CTL_LIST_COUNT c)) [] = .ok rs) (hgate : s.gateSemBad c = false) (hplain : ∀ r ∈ rs, r.2.2 = false) :
    ckptOn s c = s.ckptStart c rs none := by
  have hany : (rs.any fun q => q.2.2) = false := List.any_eq_false.2 fun r hr => by rw [hplain r hr]; decide
  simp only [ckptOn, h, hgate, hany, Bool.false_eq_true, if_false]

theorem ckptOn_gateBad {s : State} {c : Nat} {rs : List (Nat × Nat × Bool)}
    (h : s.readList c (List.range (s.rd R.CX_CKPT_CTL_LIST_COUNT c)) [] = .ok rs) (hgate : s.gateSemBad c = true) :
    ckptOn s c = s.listRefused c 0xFFF := by
  simp only [ckptOn, h, hgate, if_true]

-- The snapshot instant (R310).

theorem snapshotNow_takes {s : State} {c : Nat} {body : List Byte} {fail : Bool} {img : List (Option Nat)} (hgate : s.gateOpen c = true)
    (hbody : s.recordBody c (s.rd R.CX_CKPT_STAT_GEN c + 1) = .ok (body, fail)) (himg : s.imageNow c = .ok img) :
    snapshotNow s c = (s.snapshotTaken c (withCrc body) fail img).settle := by
  rw [snapshotNow, hgate, hbody, himg]
  rfl

theorem sendStep_regs (s : State) (c : Nat) : (s.sendStep c).regs = s.regs := by
  rw [State.sendStep]
  split
  · split <;> rfl
  · split <;> rfl
  · rfl

theorem kickSends_regs (s : State) (c : Nat) : (s.kickSends c).regs = s.regs := by
  rw [State.kickSends]
  split
  · rfl
  · exact sendStep_regs ..

theorem pwrite_regs (s : State) (a : Nat) (bs : List Byte) : (s.pwrite a bs).regs = s.regs := by
  rw [State.pwrite]
  split <;> rfl

/-- A snapshot writes GEN and BIND_FAIL, what holds no register, and the gate's semaphore. -/
theorem snapshotTaken_sets (s : State) (c : Nat) (rec : List Byte) (fail : Bool) (img : List (Option Nat)) :
    ∃ r : State, r.regs = ((s.wr R.CX_CKPT_STAT_GEN (s.rd R.CX_CKPT_STAT_GEN c + 1) c).setFlag R.CX_CKPT_OPSTAT_BIND_FAIL fail c).regs ∧
      s.snapshotTaken c rec fail img = r.setSem c (r.rd R.CX_CKPT_CTL_GATE_SEM c) (s.rd R.CX_CKPT_STAT_GEN c + 1) := by
  have hkick : ∀ x : State, (x.kickSends c).setSem c (x.rd R.CX_CKPT_CTL_GATE_SEM c) (s.rd R.CX_CKPT_STAT_GEN c + 1) =
      (x.kickSends c).setSem c ((x.kickSends c).rd R.CX_CKPT_CTL_GATE_SEM c) (s.rd R.CX_CKPT_STAT_GEN c + 1) := fun x => by
    rw [rd_congr (kickSends_regs x c)]
  refine ⟨_, ?_, hkick _⟩
  rw [kickSends_regs]
  refine Eq.trans (b := State.regs (if img.isEmpty then _ else _)) rfl ?_
  split
  · exact pwrite_regs ..
  · exact (pwrite_regs ..).trans (pwrite_regs ..)

/-- The fields of a context's checkpoint status. -/
def ckptStat : List Fld := [R.CX_CKPT_STAT_GEN, R.CX_CKPT_STAT_SEALED, R.CX_CKPT_OPSTAT_BIND_FAIL]

/-- They lie apart from the semaphores. -/
theorem ckptStat_sem {f : Fld} (hf : f ∈ ckptStat) (c m : Nat) : f.addr c ≠ R.CX_SEM_VALUE.addr c m := by
  have hfields : ∀ f ∈ ckptStat, f.blk = .CX ∧ f.sub = 0 ∧ f.off < R.CX_SEM_VALUE.off := by decide
  obtain ⟨hblk, hsub, hoff⟩ := hfields f hf
  have hsem : R.CX_SEM_VALUE.addr c m = blkBase .CX + blkStride .CX * c + R.CX_SEM_VALUE.off + R.CX_SEM_VALUE.sub * m := rfl
  rw [hsem, Fld.addr, hblk, hsub]
  omega

/-- What a snapshot of a running context leaves in its status and its gate's semaphore. -/
theorem snapshotTaken_rd {s t : State} {c : Nat} {rec : List Byte} {fail : Bool} {img : List (Option Nat)} (hs : s.regsWf = true)
    (hstate : s.cxState c = 3) (hgen : s.rd R.CX_CKPT_STAT_GEN c + 1 < 2 ^ 32) (ht : t = s.snapshotTaken c rec fail img) :
    t.rd R.CX_CKPT_STAT_GEN c = s.rd R.CX_CKPT_STAT_GEN c + 1 ∧
      t.sem c (s.rd R.CX_CKPT_CTL_GATE_SEM c) = s.rd R.CX_CKPT_STAT_GEN c + 1 ∧
      t.flag R.CX_CKPT_OPSTAT_BIND_FAIL c = fail ∧ t.rd R.CX_CKPT_STAT_SEALED c = s.rd R.CX_CKPT_STAT_SEALED c := by
  obtain ⟨g, hg⟩ : ∃ g, g = s.rd R.CX_CKPT_STAT_GEN c + 1 := ⟨_, rfl⟩
  obtain ⟨m, hm⟩ : ∃ m, m = s.rd R.CX_CKPT_CTL_GATE_SEM c := ⟨_, rfl⟩
  obtain ⟨r, hr, hset⟩ := snapshotTaken_sets s c rec fail img
  rw [← hg] at hr hset hgen ⊢
  rw [← hm]
  have hgenwf := wr_regsWf hs R.CX_CKPT_STAT_GEN g c 0
  have hrwf : r.regsWf = true := (congrArg (smWf resetWord) hr).trans (setFlag_regsWf hgenwf ..)
  have haway : ∀ {f : Fld}, R.CX_CKPT_STAT_GEN.away f = true → R.CX_CKPT_OPSTAT_BIND_FAIL.away f = true → r.rd f c = s.rd f c := fun h1 h2 =>
    (rd_congr hr _ c 0).trans ((wr_rd_away hgenwf (by decide) h2 ..).trans (wr_rd_away hs (by decide) h1 ..))
  have hgate : r.rd R.CX_CKPT_CTL_GATE_SEM c = m := (haway (by decide) (by decide)).trans hm.symm
  have hstored : ∀ x : State, x.cxState c = 3 → x.semStored c = false := fun x hx => by rw [State.semStored, hx]; rfl
  have hrstate : r.cxState c = 3 := (haway (f := R.CX_STATUS_STATE) (by decide) (by decide)).trans hstate
  rw [setSem_register (hstored r hrstate), hgate] at hset
  rw [ht, hset]
  have hstat : ∀ {f : Fld}, f ∈ ckptStat → (r.wr R.CX_SEM_VALUE g c m).rd f c = r.rd f c := fun hf =>
    wr_rd_ne hrwf _ _ _ _ _ _ (ckptStat_sem hf c m)
  have htstate : (r.wr R.CX_SEM_VALUE g c m).cxState c = 3 := by
    refine (wr_rd_ne hrwf _ _ _ _ _ _ ?_).trans hrstate
    have hsem : R.CX_SEM_VALUE.addr c m = blkBase .CX + blkStride .CX * c + 0x1000 + R.CX_SEM_VALUE.sub * m := rfl
    have hstatus : R.CX_STATUS_STATE.addr c = blkBase .CX + blkStride .CX * c + R.CX_STATUS_STATE.off + R.CX_STATUS_STATE.sub * 0 := rfl
    have hoff : R.CX_STATUS_STATE.off < 0x1000 := by decide
    omega
  refine ⟨?_, ?_, ?_, (hstat (by decide)).trans (haway (by decide) (by decide))⟩
  · rw [hstat (by decide), rd_congr hr]
    exact (wr_rd_away hgenwf (by decide) (by decide) ..).trans ((wr_rd_same hs (by decide) ..).trans (Nat.mod_eq_of_lt hgen))
  · rw [sem_register (hstored _ htstate)]
    exact (wr_rd_same hrwf (by decide) ..).trans (Nat.mod_eq_of_lt hgen)
  · rw [State.flag, hstat (by decide), rd_congr hr]
    exact setFlag_flag_same hgenwf (by decide) rfl ..

-- Sealing (R319).

theorem localNow_done {s : State} {c : Nat} (hlive : s.live = true) (hcx : s.cxLive c = true) (hdone : s.locallyDone c = true) :
    localNow s c = if (s.cx c).ckpt.group.isEmpty then ((s.sealed c).updCkpt c fun x => { x with readyOk := true }).settle
      else (s.ckptBarrier c false).settle := by
  rw [localNow, hlive, hcx, hdone]
  rfl

theorem zeroedNow_ready {s : State} {c : Nat} (hlive : s.live = true) (hcx : s.cxLive c = true) (hseal : (s.cx c).ckpt.sealing = 2) :
    zeroedNow s c = (s.readySlots c [(s.rd R.CX_CKPT_STAT_GEN c + 1) % 2]).settle := by
  rw [zeroedNow, hlive, hcx, hseal]
  rfl

-- The operations (R324 to R326).

theorem opCommand_runs {s : State} {c : Fin 16} {v : Word} (htakes : s.takesWrites .CX R.CX_CKPT_OP_OP.off = true) :
    opCommand c v (bitsAt v.toNat R.CX_CKPT_OP_OP.lo R.CX_CKPT_OP_OP.wid) s = ckptOpWrite s c (hw8 v.toNat) := by
  refine (hostGate_taken htakes _).trans (if_pos ?_)
  rw [hw8_get (by decide)]
  exact beq_self_eq_true _

theorem ckptOpWrite_busy {s : State} {c : Nat} (h : s.flag R.CX_CKPT_OPSTAT_BUSY c = true) (w : HW) : ckptOpWrite s c w = s := by
  rw [ckptOpWrite, h]
  rfl

/-- An operation acts on the operand block that it reads. -/
theorem ckptOpWrite_acts {s : State} {c : Nat} {v : Word} {op b : Nat} (hbusy : s.flag R.CX_CKPT_OPSTAT_BUSY c = false)
    (hop : op = bitsAt v.toNat R.CX_CKPT_OP_OP.lo R.CX_CKPT_OP_OP.wid)
    (hread : s.vreadNat c (64 * bitsAt v.toNat R.CX_CKPT_OP_ADDR.lo R.CX_CKPT_OP_ADDR.wid) 64 = .ok b) :
    (op = 1 → ckptOpWrite s c (hw8 v.toNat) = (s.ckptExport c b).settle) ∧ (op = 2 → ckptOpWrite s c (hw8 v.toNat) = (s.ckptSend c b).settle) ∧
      (op = 3 → ckptOpWrite s c (hw8 v.toNat) = (s.ckptRestore c b).settle) := by
  have hget : (hw8 v.toNat).get R.CX_CKPT_OP_OP = some op := hop ▸ hw8_get (by decide) _
  have haddr : (hw8 v.toNat).get R.CX_CKPT_OP_ADDR = some (bitsAt v.toNat R.CX_CKPT_OP_ADDR.lo R.CX_CKPT_OP_ADDR.wid) := hw8_get (by decide) _
  rw [Nat.mul_comm] at hread
  refine ⟨fun h => ?_, fun h => ?_, fun h => ?_⟩ <;>
  · subst h
    simp only [ckptOpWrite, hget, haddr, hbusy, Option.getD_some, hread]
    rfl

theorem ckptExport_writes {s t : State} {c b : Nat} (hstate : s.cxState c ≠ 0) (h1 : bitsAt b 32 96 = 0) (h2 : bitsAt b 176 336 = 0)
    (hsealed : bitsAt b 0 32 = s.rd R.CX_CKPT_STAT_SEALED c) (hgen : bitsAt b 0 32 ≠ 0) {img : List (Option Nat)} {ps : List Nat}
    (himg : img = (s.cx c).ckpt.snap (bitsAt b 0 32)) (hps : ps = (s.cx c).ckpt.pages true)
    (ht : s.vwrite c (bitsAt b 128 48) (((List.range img.length).zip img).flatMap fun q => leBytes 8 (nth 0 ps q.1) ++ leBytes 8 (q.2.getD 0)) = .ok t) :
    s.ckptExport c b = t.wr R.CX_CKPT_OPSTAT_RESULT 0 c := by
  subst himg hps
  have hgood : (bitsAt b 32 96 != 0 || bitsAt b 176 336 != 0 || bitsAt b 0 32 != s.rd R.CX_CKPT_STAT_SEALED c || bitsAt b 0 32 == 0) = false := by
    simp [h1, h2, ← hsealed, hgen]
  simp only [State.ckptExport, hstate, hgood, ht, Bool.false_eq_true, if_false]
  rfl

theorem ckptSend_sends {s : State} {c b : Nat} (hstate : s.cxState c = 1 ∨ s.cxState c = 3) (hen : s.flag R.CX_CKPT_CTL_EN c = true)
    (h1 : bitsAt b 0 32 = 0) (h2 : bitsAt b 49 463 = 0) (hlost : bitsAt b 32 16 < (s.cx c).ckpt.group.length) {img : List (Option Nat)}
    {out : List CkSend} (himg : s.imageNow c = .ok img)
    (hout : out = s.imageSends c (bitsAt b 48 1) img (fun h => h != (s.cx c).ckpt.rank && h != bitsAt b 32 16)) :
    s.ckptSend c b = if out.isEmpty then s.wr R.CX_CKPT_OPSTAT_RESULT 0 c else
      ((s.wr R.CX_CKPT_OPSTAT_BUSY 1 c).updCx c fun x => { x with ckpt := { x.ckpt with sends := x.ckpt.sends ++ out, sendOp := true } }).kickSends c := by
  subst hout
  have hclosed : ((s.cxState c != 1 && s.cxState c != 3) || !s.flag R.CX_CKPT_CTL_EN c) = false := by
    rw [hen]
    rcases hstate with h | h <;> rw [h] <;> rfl
  have hgood : (bitsAt b 0 32 != 0 || bitsAt b 49 463 != 0 || decide ((s.cx c).ckpt.group.length ≤ bitsAt b 32 16)) = false := by
    simp [h1, h2, hlost]
  simp only [State.ckptSend, hclosed, hgood, himg, Bool.false_eq_true, if_false]
  rfl

section
variable {s : State} {c b h n : Nat} {r : List Byte} {bs : List (Nat × Nat × Nat)} (hstate : s.cxState c = 1) (hres : (s.cx c).resident = false)
  (hen : s.flag R.CX_CKPT_CTL_EN c = true) (h1 : bitsAt b 32 32 = 0) (h2 : bitsAt b 176 336 = 0) (hhead : s.vreadNat c (bitsAt b 128 48) 256 = .ok h)
  (hsize : recordBytes h = some n) (hrec : s.vread c (bitsAt b 128 48) n = .ok r) (hbind : s.bindings c = .ok bs)
include hstate hres hen h1 h2 hhead hsize hrec hbind

/-- A record that its CRC or its generation refutes. -/
theorem ckptRestore_refuted (hbad : (crc32c (r.take 4 ++ leBytes 4 0 ++ r.drop 8) != recNat r 4 4 || recNat r 0 4 != bitsAt b 0 32) = true) :
    s.ckptRestore c b = s.opResult c 3 := by
  simp only [State.ckptRestore, hstate, hres, hen, h1, h2, hhead, hsize, hrec, hbind, hbad, bne_self_eq_false, Bool.not_true, Bool.or_self,
    Bool.false_eq_true, if_false, if_true]

variable (hgood : (crc32c (r.take 4 ++ leBytes 4 0 ++ r.drop 8) != recNat r 4 4 || recNat r 0 4 != bitsAt b 0 32) = false)
include hgood

theorem ckptRestore_mismatch (hmis : s.mismatch c (bitsAt b 64 64) r bs = true) : s.ckptRestore c b = s.opResult c 2 := by
  simp only [State.ckptRestore, hstate, hres, hen, h1, h2, hhead, hsize, hrec, hbind, hgood, hmis, bne_self_eq_false, Bool.not_true, Bool.or_self,
    Bool.false_eq_true, if_false, if_true]

theorem ckptRestore_restores (hmis : s.mismatch c (bitsAt b 64 64) r bs = false) {t : State} (ht : s.restoreMemory c (bitsAt b 64 64) r bs = .ok t) :
    s.ckptRestore c b = t.restoreActs c (bitsAt b 0 32) r := by
  simp only [State.ckptRestore, hstate, hres, hen, h1, h2, hhead, hsize, hrec, hbind, hgood, hmis, ht, bne_self_eq_false, Bool.not_true, Bool.or_self,
    Bool.false_eq_true, if_false]

end

/-- Settles O57: the events by the conditions they meet, and the operations by their operand block. -/
theorem checkpointsAreTakenAndUsed : Obligations.CheckpointsAreTakenAndUsed := by
  have hexec : ∀ {i : Instr} {s r t : State}, exec i s = .next r → r = t → exec i s = .next t := fun h e => e ▸ h
  refine ⟨fun s c v u => ⟨fun htakes hen hv hs hlive hu => ?_, fun hgate g body fail img hg hbody himg => ?_,
    fun hlive hcx hdone hgroup => congrArg Host.Outcome.next ?_, fun hlive hcx hdone hgroup => congrArg Host.Outcome.next ?_,
    fun hlive hcx hseal => congrArg Host.Outcome.next (zeroedNow_ready hlive hcx hseal)⟩, fun s c v a b op htakes hop ha => ?_⟩
  · have hon := checkpointEnable_reads htakes hen hv hs hlive hu
    exact ⟨fun i h => hexec hon (congrArg State.settle (ckptOn_refuses h)),
      fun rs h hgate hplain => hexec hon (congrArg State.settle (ckptOn_starts h hgate hplain)),
      fun rs h hgate => hexec hon (congrArg State.settle (ckptOn_gateBad h hgate))⟩
  · subst hg
    exact ⟨congrArg Host.Outcome.next (snapshotNow_takes hgate hbody himg), fun hgen hs hstate t ht => snapshotTaken_rd hs hstate hgen ht⟩
  · rw [localNow_done hlive hcx hdone, hgroup]
    rfl
  · rw [localNow_done hlive hcx hdone, if_neg (by rwa [List.isEmpty_iff])]
  · have hrun := opCommand_runs (c := c) (v := v) htakes
    rw [← hop] at hrun
    subst ha
    have hacts : ∀ {i : Nat} {f : State → State} {x y : State}, op = i → f s = opCommand c v i s → ckptOpWrite s c (hw8 v.toNat) = x → x = y →
        (.next (f s) : Host.Outcome State Fault Refusal) = .next y := fun hi hf hx hy => by
      subst hi
      rw [hf, hrun, hx, hy]
    refine ⟨fun hbusy => ?_, fun hbusy hread => ?_, fun hbusy hfree hread => ?_⟩
    · have hidle := ckptOpWrite_busy (c := c) hbusy (hw8 v.toNat)
      exact ⟨fun h => hacts (f := opCommand c v 1) h rfl hidle rfl, fun h => hacts (f := opCommand c v 2) h rfl hidle rfl,
        fun h => hacts (f := opCommand c v 3) h rfl hidle rfl⟩
    · obtain ⟨hexport, hsend, hrestore⟩ := ckptOpWrite_acts hbusy hop hread
      refine ⟨fun h hstate h1 h2 hsealed hgen img ps t himg hps ht => ?_, fun h hstate hen h1 h2 hlost img out himg hout => ?_,
        fun h hstate hres hen h1 h2 hd n r bs hhead hsize hrec hbind => ?_⟩
      · exact hacts (f := opCommand c v 1) h rfl (hexport h) (congrArg State.settle (ckptExport_writes hstate h1 h2 hsealed hgen himg hps ht))
      · have hsends := ckptSend_sends hstate hen h1 h2 hlost himg hout
        refine ⟨fun hne => hacts (f := opCommand c v 2) h rfl (hsend h) (congrArg State.settle (hsends.trans (if_neg ?_))),
          fun hnil => hacts (f := opCommand c v 2) h rfl (hsend h) (congrArg State.settle (hsends.trans (if_pos ?_)))⟩
        · rwa [List.isEmpty_iff]
        · rwa [List.isEmpty_iff]
      · have hto : ∀ {y : State}, s.ckptRestore c b = y → exec (.restore c v) s = .next y.settle := fun hy =>
          hacts (f := opCommand c v 3) h rfl (hrestore h) (congrArg State.settle hy)
        refine ⟨fun hbad => hto (ckptRestore_refuted hstate hres hen h1 h2 hhead hsize hrec hbind ?_), fun hcrc hgen => ?_⟩
        · rwa [Bool.or_eq_true, bne_iff_ne, bne_iff_ne]
        · have hgood : (crc32c (r.take 4 ++ leBytes 4 0 ++ r.drop 8) != recNat r 4 4 || recNat r 0 4 != bitsAt b 0 32) = false := by
            rw [hcrc, hgen, bne_self_eq_false, bne_self_eq_false]
            rfl
          exact ⟨fun hmis => hto (ckptRestore_mismatch hstate hres hen h1 h2 hhead hsize hrec hbind hgood hmis),
            fun hmis t ht => hto (ckptRestore_restores hstate hres hen h1 h2 hhead hsize hrec hbind hgood hmis ht)⟩
    · obtain ⟨hexport, hsend, hrestore⟩ := ckptOpWrite_acts hbusy hop hread
      refine ⟨fun h => hacts (f := opCommand c v 1) h rfl (hexport h) (congrArg State.settle (if_pos hfree)),
        fun h => hacts (f := opCommand c v 2) h rfl (hsend h) (congrArg State.settle (if_pos ?_)),
        fun h => hacts (f := opCommand c v 3) h rfl (hrestore h) (congrArg State.settle (if_pos ?_))⟩
      · rw [hfree]
        rfl
      · rw [hfree]
        rfl

end Sys2Proof.Machine
end
